-- ==== Sys2Proof/Word.lean ====
section
/-! DEFINITION. The word types of the FX-960: scalar words of 64 bits (R5, R19), lane words of 32 bits,
lane masks, 57-bit virtual addresses (R13) and 52-bit physical addresses (R2). -/
namespace Sys2Proof

/-- A scalar register's value (R19, `SReg`). -/
abbrev Word := BitVec 64
/-- One lane's 32-bit value (R19, `VReg`). -/
abbrev LaneWord := BitVec 32
/-- One bit per lane. -/
abbrev Mask := BitVec 32
/-- A 57-bit virtual address (R13). -/
abbrev VAddr := BitVec 57
/-- A byte of memory. -/
abbrev Byte := BitVec 8
/-- A fetched instruction: word 0 in bits [31:0], word 1 in bits [63:32], and so on (R21, R22). -/
abbrev Bits128 := BitVec 128
/-- The bytes of one 128-byte line, byte k in bits [8k+7:8k]. -/
abbrev LineData := BitVec 1024
/-- One bit per byte of a line. -/
abbrev LineMask := BitVec 128

end Sys2Proof
end

