-- ==== Sys2Proof/Syntax.lean ====
section
/-! DEFINITION. The syntax of Uliet and of the device's steps: one constructor of `Instr` per row of
spec/opcode_table.json. The rows with an encoding are instructions (R21 to R53) and come first; their
guard is a part of the common header of every instruction (R26) and stands beside the instruction, in the
decoder's answer and in the state that executes it (`Group.guard`). The other rows are steps of the banks,
the home slices, the engines, the Cox, the marshal, the host and the module (95_what_each_step_holds.md),
and carry what the step concerns. -/
namespace Sys2Proof

/-- The guard of the common header (R14, R26): `neg` is bit 13, `p` bits [12:10]. -/
structure Guard where
  neg : Bool
  p : BitVec 3
  deriving DecidableEq, Repr

/-- The guard code 0b0111: unguarded (R14, R26). -/
def Guard.always : Guard := ⟨false, 7⟩

/-- A scalar register number s0 to s63 (R12). -/
abbrev SReg := BitVec 6
/-- A vector register number v0 to v255 (R12). -/
abbrev VReg := BitVec 8
/-- A predicate number p0 to p7 (R12). -/
abbrev PReg := BitVec 3

/-- The types of R34. -/
inductive Ty where
  | none | i8 | i16 | i32 | i64 | n8 | n16 | n32 | n64 | b8 | b16 | b32 | b64
  | f32 | f16 | bf16 | e4m3 | e5m2 | e2m3 | e3m2 | e2m1 | tap8 | tap16 | tap32 | i4 | n4
  deriving DecidableEq, Repr

/-- The rounding modes of R35. -/
inductive Rnd where
  | rn | rz | ru | rd
  deriving DecidableEq, Repr

/-- The condition codes of R36. -/
inductive Cond where
  | eq | ne | lt | le | gt | ge | un
  deriving DecidableEq, Repr

/-- The scopes of R37, from narrowest to widest (R115). -/
inductive Scope where
  | group | team | cluster | span | device | domain | system
  deriving DecidableEq, Repr

/-- The fence kinds of R37. -/
inductive FenceKind where
  | acq | rel | full
  deriving DecidableEq, Repr

/-- The barrier levels of R37. -/
inductive BarLevel where
  | team | cluster | span | grid
  deriving DecidableEq, Repr

/-- The request types of R38. -/
inductive ReqTy where
  | none | own | wt | si | unc
  deriving DecidableEq, Repr

/-- The index and count registers that `smov` reads (R39; `%lane` is read by `mov` alone). -/
inductive IndexReg where
  | group | team | cluster | span | grid | nlane | ngroup | nteam | ncluster | nspan
  deriving DecidableEq, Repr

/-- The modes of an SRAM bank (R78). -/
inductive BankMode where
  | cache | scratch | fifo
  deriving DecidableEq, Repr

/-- The modes of `shfl` (R262). -/
inductive ShflMode where
  | idx | up | down | xor
  deriving DecidableEq, Repr

/-- The forms of `vote` (R263). -/
inductive VoteOp where
  | any | all | ballot
  deriving DecidableEq, Repr

/-- The operations of `red`, `redl` and `scan` (R47, R173). -/
inductive RedOp where
  | add | min | max | and | or | xor
  deriving DecidableEq, Repr

/-- The operations of the atomics (R169). -/
inductive AtomOp where
  | add | min | max | and | or | xor | xchg | cas | inc
  deriving DecidableEq, Repr

/-- The base of a memory operand `[sB]` or `[sB+vX]` (R13, R48): `vx` is present when m3 is 1. -/
structure MBase where
  sb : SReg
  vx : Option VReg
  deriving DecidableEq, Repr

/-- What arrives about the far entry of a connection group (R410). -/
inductive FarState where
  /-- far entry in SETUP, naming this device and port -/
  | setupMatch
  /-- far entry in UP, naming this device and port -/
  | upMatch
  /-- far entry in SETUP, naming another device or port -/
  | setupOther
  /-- far entry left UP -/
  | leftUp
  deriving DecidableEq, Repr

/-- Where a `red` of a peer leads (R414, R416): the connection-table entry through which it arrives, and its physical
address. -/
structure PeerRed where
  entry : Nat
  pa : Nat
  deriving DecidableEq, Repr

/-- What the signed configuration blob sets (R427): whether its signature is good, DEVNO, each die's
RATIO, the retired 64 KiB pages (by page number), and the dump region. -/
structure Blob where
  signed : Bool
  devno : BitVec 8
  ratios : List Nat
  retired : List Nat
  dumpBase : Nat
  dumpSize : Nat
  deriving DecidableEq, Repr

/-- The causes of a fatal error (R428), in the code order of the dump. -/
inductive FatalCause where
  | firmware | watchdog | routingDie | thermal
  deriving DecidableEq, Repr

/-- One constructor per row of spec/opcode_table.json (one for each level of BAR, number of
ROLE and slot of MXARM and MXDISARM): the
instructions with an encoding, then the steps. -/
inductive Instr where
  /-- SADD (R240). Scalar add of two registers, modulo 2^64. -/
  | sadd (d a b : SReg)
  /-- SADD_IMM (R240). Scalar add of a register and a sign-extended 6-bit immediate. -/
  | saddImm (d a : SReg) (i : BitVec 6)
  /-- SADD_LIT (R42). Scalar add with a 32-bit literal, F96 form under major 0x30. -/
  | saddLit (d a : SReg) (lit : BitVec 32)
  /-- SSUB (R240). Scalar subtract of two registers. -/
  | ssub (d a b : SReg)
  /-- SSUB_IMM (R240). Scalar subtract of a 6-bit immediate. -/
  | ssubImm (d a : SReg) (i : BitVec 6)
  /-- SSUB_LIT (R42). Scalar subtract with a 32-bit literal (F96). -/
  | ssubLit (d a : SReg) (lit : BitVec 32)
  /-- SMUL (R240). Low 64 bits of the scalar product of two registers. -/
  | smul (d a b : SReg)
  /-- SMUL_IMM (R240). Low 64 bits of a scalar product with a 6-bit immediate. -/
  | smulImm (d a : SReg) (i : BitVec 6)
  /-- SMUL_LIT (R42). Scalar multiply with a 32-bit literal (F96). -/
  | smulLit (d a : SReg) (lit : BitVec 32)
  /-- SMULH_I64 (R240). High 64 bits of the signed scalar product. -/
  | smulhI64 (d a b : SReg)
  /-- SMULH_I64_IMM (R240). High signed product bits with a 6-bit immediate. -/
  | smulhI64Imm (d a : SReg) (i : BitVec 6)
  /-- SMULH_I64_LIT (R42). High signed product bits with a 32-bit literal (F96). -/
  | smulhI64Lit (d a : SReg) (lit : BitVec 32)
  /-- SMULH_N64 (R240). High 64 bits of the unsigned scalar product. -/
  | smulhN64 (d a b : SReg)
  /-- SMULH_N64_IMM (R240). High unsigned product bits with a 6-bit immediate. -/
  | smulhN64Imm (d a : SReg) (i : BitVec 6)
  /-- SMULH_N64_LIT (R42). High unsigned product bits with a 32-bit literal (F96). -/
  | smulhN64Lit (d a : SReg) (lit : BitVec 32)
  /-- SDIV_I64 (R241). Signed scalar division truncating toward zero, with IDZ and IOV cases. -/
  | sdivI64 (d a b : SReg)
  /-- SDIV_I64_IMM (R241). Signed scalar division by a 6-bit immediate. -/
  | sdivI64Imm (d a : SReg) (i : BitVec 6)
  /-- SDIV_I64_LIT (R241). Signed scalar division by a 32-bit literal (F96). -/
  | sdivI64Lit (d a : SReg) (lit : BitVec 32)
  /-- SDIV_N64 (R241). Unsigned scalar division, IDZ on divide by zero. -/
  | sdivN64 (d a b : SReg)
  /-- SDIV_N64_IMM (R241). Unsigned scalar division by a 6-bit immediate. -/
  | sdivN64Imm (d a : SReg) (i : BitVec 6)
  /-- SDIV_N64_LIT (R241). Unsigned scalar division by a 32-bit literal (F96). -/
  | sdivN64Lit (d a : SReg) (lit : BitVec 32)
  /-- SREM_I64 (R241). Signed scalar remainder with the sign of the dividend. -/
  | sremI64 (d a b : SReg)
  /-- SREM_I64_IMM (R241). Signed scalar remainder by a 6-bit immediate. -/
  | sremI64Imm (d a : SReg) (i : BitVec 6)
  /-- SREM_I64_LIT (R241). Signed scalar remainder by a 32-bit literal (F96). -/
  | sremI64Lit (d a : SReg) (lit : BitVec 32)
  /-- SREM_N64 (R241). Unsigned scalar remainder. -/
  | sremN64 (d a b : SReg)
  /-- SREM_N64_IMM (R241). Unsigned scalar remainder by a 6-bit immediate. -/
  | sremN64Imm (d a : SReg) (i : BitVec 6)
  /-- SREM_N64_LIT (R241). Unsigned scalar remainder by a 32-bit literal (F96). -/
  | sremN64Lit (d a : SReg) (lit : BitVec 32)
  /-- SAND (R240). Scalar bitwise AND of two registers. -/
  | sand (d a b : SReg)
  /-- SAND_IMM (R240). Scalar bitwise AND with a 6-bit immediate. -/
  | sandImm (d a : SReg) (i : BitVec 6)
  /-- SAND_LIT (R42). Scalar bitwise AND with a 32-bit literal (F96). -/
  | sandLit (d a : SReg) (lit : BitVec 32)
  /-- SOR (R240). Scalar bitwise OR of two registers. -/
  | sor (d a b : SReg)
  /-- SOR_IMM (R240). Scalar bitwise OR with a 6-bit immediate. -/
  | sorImm (d a : SReg) (i : BitVec 6)
  /-- SOR_LIT (R42). Scalar bitwise OR with a 32-bit literal (F96). -/
  | sorLit (d a : SReg) (lit : BitVec 32)
  /-- SXOR (R240). Scalar bitwise XOR of two registers. -/
  | sxor (d a b : SReg)
  /-- SXOR_IMM (R240). Scalar bitwise XOR with a 6-bit immediate. -/
  | sxorImm (d a : SReg) (i : BitVec 6)
  /-- SXOR_LIT (R42). Scalar bitwise XOR with a 32-bit literal (F96). -/
  | sxorLit (d a : SReg) (lit : BitVec 32)
  /-- SSHL (R240). Scalar shift left by a register count modulo 64. -/
  | sshl (d a b : SReg)
  /-- SSHL_IMM (R240). Scalar shift left by an unsigned 6-bit count. -/
  | sshlImm (d a : SReg) (i : BitVec 6)
  /-- SSHL_LIT (R42). Scalar shift left by a literal count 0-63 (F96). -/
  | sshlLit (d a : SReg) (lit : BitVec 32)
  /-- SSHR_N64 (R240). Scalar logical shift right by a register count. -/
  | sshrN64 (d a b : SReg)
  /-- SSHR_N64_IMM (R240). Scalar logical shift right by an unsigned 6-bit count. -/
  | sshrN64Imm (d a : SReg) (i : BitVec 6)
  /-- SSHR_N64_LIT (R42). Scalar logical shift right by a literal count (F96). -/
  | sshrN64Lit (d a : SReg) (lit : BitVec 32)
  /-- SSHR_I64 (R240). Scalar arithmetic shift right by a register count. -/
  | sshrI64 (d a b : SReg)
  /-- SSHR_I64_IMM (R240). Scalar arithmetic shift right by an unsigned 6-bit count. -/
  | sshrI64Imm (d a : SReg) (i : BitVec 6)
  /-- SSHR_I64_LIT (R42). Scalar arithmetic shift right by a literal count (F96). -/
  | sshrI64Lit (d a : SReg) (lit : BitVec 32)
  /-- SMIN_I64 (R240). Signed scalar minimum of two registers. -/
  | sminI64 (d a b : SReg)
  /-- SMIN_I64_IMM (R240). Signed scalar minimum with a 6-bit immediate. -/
  | sminI64Imm (d a : SReg) (i : BitVec 6)
  /-- SMIN_I64_LIT (R42). Signed scalar minimum with a 32-bit literal (F96). -/
  | sminI64Lit (d a : SReg) (lit : BitVec 32)
  /-- SMIN_N64 (R240). Unsigned scalar minimum of two registers. -/
  | sminN64 (d a b : SReg)
  /-- SMIN_N64_IMM (R240). Unsigned scalar minimum with a 6-bit immediate. -/
  | sminN64Imm (d a : SReg) (i : BitVec 6)
  /-- SMIN_N64_LIT (R42). Unsigned scalar minimum with a 32-bit literal (F96). -/
  | sminN64Lit (d a : SReg) (lit : BitVec 32)
  /-- SMAX_I64 (R240). Signed scalar maximum of two registers. -/
  | smaxI64 (d a b : SReg)
  /-- SMAX_I64_IMM (R240). Signed scalar maximum with a 6-bit immediate. -/
  | smaxI64Imm (d a : SReg) (i : BitVec 6)
  /-- SMAX_I64_LIT (R42). Signed scalar maximum with a 32-bit literal (F96). -/
  | smaxI64Lit (d a : SReg) (lit : BitVec 32)
  /-- SMAX_N64 (R240). Unsigned scalar maximum of two registers. -/
  | smaxN64 (d a b : SReg)
  /-- SMAX_N64_IMM (R240). Unsigned scalar maximum with a 6-bit immediate. -/
  | smaxN64Imm (d a : SReg) (i : BitVec 6)
  /-- SMAX_N64_LIT (R42). Unsigned scalar maximum with a 32-bit literal (F96). -/
  | smaxN64Lit (d a : SReg) (lit : BitVec 32)
  /-- SCMP_I64 (R242). Signed scalar compare writing one predicate value in all 32 lanes. -/
  | scmpI64 (cd : Cond) (p : PReg) (a b : SReg)
  /-- SCMP_I64_IMM (R242). Signed scalar compare with a sign-extended 6-bit immediate. -/
  | scmpI64Imm (cd : Cond) (p : PReg) (a : SReg) (i : BitVec 6)
  /-- SCMP_I64_LIT (R42). Signed scalar compare with a 32-bit literal (F96). -/
  | scmpI64Lit (cd : Cond) (p : PReg) (a : SReg) (lit : BitVec 32)
  /-- SCMP_N64 (R242). Unsigned scalar compare writing one predicate value in all 32 lanes. -/
  | scmpN64 (cd : Cond) (p : PReg) (a b : SReg)
  /-- SCMP_N64_IMM (R242). Unsigned scalar compare with a sign-extended 6-bit immediate. -/
  | scmpN64Imm (cd : Cond) (p : PReg) (a : SReg) (i : BitVec 6)
  /-- SCMP_N64_LIT (R42). Unsigned scalar compare with a 32-bit literal (F96). -/
  | scmpN64Lit (cd : Cond) (p : PReg) (a : SReg) (lit : BitVec 32)
  /-- SMOV (R243). Copies one scalar register to another. -/
  | smov (d a : SReg)
  /-- SMOV_IMM (R243). Loads a sign-extended 12-bit immediate into a scalar register. -/
  | smovImm (d : SReg) (i : BitVec 12)
  /-- SMOV_INDEX (R243). Reads a group-uniform index or count register by its code. -/
  | smovIndex (d : SReg) (x : IndexReg)
  /-- SMOV_LIT (R243). Loads a sign-extended 32-bit literal, F96 minor 0x16. -/
  | smovLit (d : SReg) (lit : BitVec 32)
  /-- SCLZ (R243). Counts leading zeros of a scalar register (64 for zero). -/
  | sclz (d a : SReg)
  /-- SCTZ (R243). Counts trailing zeros of a scalar register (64 for zero). -/
  | sctz (d a : SReg)
  /-- SPOPC (R243). Counts the one bits of a scalar register. -/
  | spopc (d a : SReg)
  /-- SBREV (R243). Reverses the 64 bits of a scalar register. -/
  | sbrev (d a : SReg)
  /-- BRA (R271). Relative branch that moves the group, falls through, or pushes a PATH when divergent. -/
  | bra (off : BitVec 18)
  /-- CALL (R271). Relative call linking A + 4 in s63, diverging like bra. -/
  | call (off : BitVec 18)
  /-- JMP (R271). Jumps to the address in a scalar register (ret is jmp s63), trapping if misaligned. -/
  | jmp (a : SReg)
  /-- CALLI (R271). Indirect call through a scalar register, linking to s63. -/
  | calli (a : SReg)
  /-- JOIN (R271). Pushes a JOIN entry with the reconvergence address and em. -/
  | join (off : BitVec 18)
  /-- EMRD (R273). Reads em into a scalar register. -/
  | emrd (d : SReg)
  /-- EMWR (R273). Writes em from a scalar register ANDed with the live lanes. -/
  | emwr (a : SReg)
  /-- EMAND (R274). Clears em bits of active lanes where the predicate is false. -/
  | emand (p : PReg)
  /-- EMANDN (R274). Clears em bits of active lanes where the predicate is true. -/
  | emandn (p : PReg)
  /-- IADD (R245). Vector integer add, wrapping or saturating with .sat. -/
  | iadd (ty : Ty) (sat : Bool) (d a b : VReg)
  /-- IADD_LIT (R245). Vector integer add with a literal (F96). -/
  | iaddLit (ty : Ty) (sat : Bool) (d a : VReg) (lit : BitVec 32)
  /-- ISUB (R245). Vector integer subtract, wrapping or saturating. -/
  | isub (ty : Ty) (sat : Bool) (d a b : VReg)
  /-- ISUB_LIT (R245). Vector integer subtract with a literal (F96). -/
  | isubLit (ty : Ty) (sat : Bool) (d a : VReg) (lit : BitVec 32)
  /-- IMUL (R245). Vector integer multiply modulo 2^w. -/
  | imul (ty : Ty) (d a b : VReg)
  /-- IMUL_LIT (R245). Vector integer multiply with a literal (F96). -/
  | imulLit (ty : Ty) (d a : VReg) (lit : BitVec 32)
  /-- IMULH (R245). High half of the vector integer product. -/
  | imulh (ty : Ty) (d a b : VReg)
  /-- IMULH_LIT (R245). High half of the product with a literal (F96). -/
  | imulhLit (ty : Ty) (d a : VReg) (lit : BitVec 32)
  /-- IDIV (R246). Vector integer division per lane with IDZ and IOV cases. -/
  | idiv (ty : Ty) (d a b : VReg)
  /-- IDIV_LIT (R246). Vector integer division by a literal (F96). -/
  | idivLit (ty : Ty) (d a : VReg) (lit : BitVec 32)
  /-- IREM (R246). Vector integer remainder per lane. -/
  | irem (ty : Ty) (d a b : VReg)
  /-- IREM_LIT (R246). Vector integer remainder by a literal (F96). -/
  | iremLit (ty : Ty) (d a : VReg) (lit : BitVec 32)
  /-- IMIN (R245). Vector integer minimum. -/
  | imin (ty : Ty) (d a b : VReg)
  /-- IMIN_LIT (R245). Vector integer minimum with a literal (F96). -/
  | iminLit (ty : Ty) (d a : VReg) (lit : BitVec 32)
  /-- IMAX (R245). Vector integer maximum. -/
  | imax (ty : Ty) (d a b : VReg)
  /-- IMAX_LIT (R245). Vector integer maximum with a literal (F96). -/
  | imaxLit (ty : Ty) (d a : VReg) (lit : BitVec 32)
  /-- IABS (R245). Vector integer absolute value, IOV at the minimum. -/
  | iabs (ty : Ty) (d a : VReg)
  /-- INEG (R245). Vector integer negation, IOV at the minimum. -/
  | ineg (ty : Ty) (d a : VReg)
  /-- AND (R245). Vector bitwise AND. -/
  | vAnd (ty : Ty) (d a b : VReg)
  /-- AND_LIT (R245). Vector bitwise AND with a literal (F96). -/
  | vAndLit (ty : Ty) (d a : VReg) (lit : BitVec 32)
  /-- OR (R245). Vector bitwise OR. -/
  | vOr (ty : Ty) (d a b : VReg)
  /-- OR_LIT (R245). Vector bitwise OR with a literal (F96). -/
  | vOrLit (ty : Ty) (d a : VReg) (lit : BitVec 32)
  /-- XOR (R245). Vector bitwise XOR. -/
  | vXor (ty : Ty) (d a b : VReg)
  /-- XOR_LIT (R245). Vector bitwise XOR with a literal (F96). -/
  | vXorLit (ty : Ty) (d a : VReg) (lit : BitVec 32)
  /-- NOT (R245). Vector bitwise NOT. -/
  | vNot (ty : Ty) (d a : VReg)
  /-- SHL (R245). Vector shift left by b modulo w. -/
  | shl (ty : Ty) (d a b : VReg)
  /-- SHL_LIT (R245). Vector shift left by a literal (F96). -/
  | shlLit (ty : Ty) (d a : VReg) (lit : BitVec 32)
  /-- SHR (R245). Vector shift right, logical or arithmetic by type. -/
  | shr (ty : Ty) (d a b : VReg)
  /-- SHR_LIT (R245). Vector shift right by a literal (F96). -/
  | shrLit (ty : Ty) (d a : VReg) (lit : BitVec 32)
  /-- ICMP (R247). Vector integer compare writing a predicate per active lane. -/
  | icmp (ty : Ty) (cd : Cond) (p : PReg) (a b : VReg)
  /-- ICMP_LIT (R247). Vector integer compare with a literal (F96). -/
  | icmpLit (ty : Ty) (cd : Cond) (p : PReg) (a : VReg) (lit : BitVec 32)
  /-- SEL (R247). Selects a or b per lane by a predicate. -/
  | sel (ty : Ty) (ps : PReg) (d a b : VReg)
  /-- MOV (R247). Copies a vector register. -/
  | mov (ty : Ty) (d a : VReg)
  /-- MOV_LIT (R247). Writes a literal to a vector register (F96). -/
  | movLit (ty : Ty) (d : VReg) (lit : BitVec 32)
  /-- MOV_LANE (R247). Writes the lane number to a vector register. -/
  | movLane (d : VReg)
  /-- CLZ (R245). Vector leading-zero count. -/
  | clz (ty : Ty) (d a : VReg)
  /-- POPC (R245). Vector count of ones. -/
  | popc (ty : Ty) (d a : VReg)
  /-- BREV (R245). Vector bit reversal. -/
  | brev (ty : Ty) (d a : VReg)
  /-- IMAD (R245). Vector integer multiply-add modulo 2^w. -/
  | imad (ty : Ty) (d a b c : VReg)
  /-- DOT4 (R248). Four-way byte dot product accumulated into 32 bits. -/
  | dot4 (ty : Ty) (sat : Bool) (d a b c : VReg)
  /-- FADD (R250). Vector floating add rounded once under the mode. -/
  | fadd (ty : Ty) (rnd : Rnd) (d a b : VReg)
  /-- FADD_LIT (R250). Vector floating add with a literal (F96). -/
  | faddLit (ty : Ty) (rnd : Rnd) (d a : VReg) (lit : BitVec 32)
  /-- FSUB (R250). Vector floating subtract. -/
  | fsub (ty : Ty) (rnd : Rnd) (d a b : VReg)
  /-- FSUB_LIT (R250). Vector floating subtract with a literal (F96). -/
  | fsubLit (ty : Ty) (rnd : Rnd) (d a : VReg) (lit : BitVec 32)
  /-- FMUL (R250). Vector floating multiply. -/
  | fmul (ty : Ty) (rnd : Rnd) (d a b : VReg)
  /-- FMUL_LIT (R250). Vector floating multiply with a literal (F96). -/
  | fmulLit (ty : Ty) (rnd : Rnd) (d a : VReg) (lit : BitVec 32)
  /-- FFMA (R250). Vector fused multiply-add with one rounding. -/
  | ffma (ty : Ty) (rnd : Rnd) (d a b c : VReg)
  /-- FMIN (R251). Vector floating minimum with NaN rules. -/
  | fmin (ty : Ty) (d a b : VReg)
  /-- FMIN_LIT (R251). Vector floating minimum with a literal (F96). -/
  | fminLit (ty : Ty) (d a : VReg) (lit : BitVec 32)
  /-- FMAX (R251). Vector floating maximum with NaN rules. -/
  | fmax (ty : Ty) (d a b : VReg)
  /-- FMAX_LIT (R251). Vector floating maximum with a literal (F96). -/
  | fmaxLit (ty : Ty) (d a : VReg) (lit : BitVec 32)
  /-- FABS (R252). Clears the sign bit. -/
  | fabs (ty : Ty) (d a : VReg)
  /-- FNEG (R252). Flips the sign bit. -/
  | fneg (ty : Ty) (d a : VReg)
  /-- FSGN (R252). Copies the sign of b onto a. -/
  | fsgn (ty : Ty) (d a b : VReg)
  /-- FCMP (R253). Vector floating compare writing a predicate. -/
  | fcmp (ty : Ty) (cd : Cond) (p : PReg) (a b : VReg)
  /-- FCMP_LIT (R253). Vector floating compare with a literal (F96). -/
  | fcmpLit (ty : Ty) (cd : Cond) (p : PReg) (a : VReg) (lit : BitVec 32)
  /-- FCLASS (R252). Writes a one-hot class code. -/
  | fclass (ty : Ty) (d a : VReg)
  /-- FEXP2 (R254). Base-two exponential within stated error bounds. -/
  | fexp2 (d a : VReg)
  /-- FLOG2 (R254). Base-two logarithm within stated error bounds. -/
  | flog2 (d a : VReg)
  /-- FRCP (R254). Reciprocal within 1 ulp. -/
  | frcp (d a : VReg)
  /-- FRSQ (R254). Reciprocal square root within 1 ulp. -/
  | frsq (d a : VReg)
  /-- FSIN (R254). Sine within stated bounds. -/
  | fsin (d a : VReg)
  /-- FCOS (R254). Cosine within stated bounds. -/
  | fcos (d a : VReg)
  /-- FRND (R255). Rounds to an integral value under the mode. -/
  | frnd (ty : Ty) (rnd : Rnd) (d a : VReg)
  /-- XINS (R256). Multiplies by 2^n from a register. -/
  | xins (rnd : Rnd) (d a b : VReg)
  /-- XINS_LIT (R256). Multiplies by 2^n with a literal exponent (F96). -/
  | xinsLit (rnd : Rnd) (d a : VReg) (lit : BitVec 32)
  /-- XEXT (R256). Extracts floor(log2|a|) as an integer. -/
  | xext (d a : VReg)
  /-- TADD (R257). Tapered add rounded under RN. -/
  | tadd (ty : Ty) (d a b : VReg)
  /-- TADD_LIT (R257). Tapered add with a literal (F96). -/
  | taddLit (ty : Ty) (d a : VReg) (lit : BitVec 32)
  /-- TMUL (R257). Tapered multiply. -/
  | tmul (ty : Ty) (d a b : VReg)
  /-- TMUL_LIT (R257). Tapered multiply with a literal (F96). -/
  | tmulLit (ty : Ty) (d a : VReg) (lit : BitVec 32)
  /-- TMIN (R257). Tapered minimum by code order. -/
  | tmin (ty : Ty) (d a b : VReg)
  /-- TMIN_LIT (R257). Tapered minimum with a literal (F96). -/
  | tminLit (ty : Ty) (d a : VReg) (lit : BitVec 32)
  /-- TMAX (R257). Tapered maximum by code order. -/
  | tmax (ty : Ty) (d a b : VReg)
  /-- TMAX_LIT (R257). Tapered maximum with a literal (F96). -/
  | tmaxLit (ty : Ty) (d a : VReg) (lit : BitVec 32)
  /-- TFMA (R257). Tapered fused multiply-add. -/
  | tfma (ty : Ty) (d a b c : VReg)
  /-- TCMP (R257). Tapered compare writing a predicate. -/
  | tcmp (ty : Ty) (cd : Cond) (p : PReg) (a b : VReg)
  /-- TCMP_LIT (R257). Tapered compare with a literal (F96). -/
  | tcmpLit (ty : Ty) (cd : Cond) (p : PReg) (a : VReg) (lit : BitVec 32)
  /-- CVT (R258). Converts each lane between numeric types. -/
  | cvt (rnd : Rnd) (sat : Bool) (td ts : Ty) (d a : VReg)
  /-- CVTSR (R259). Converts with stochastic rounding from supplied random bits. -/
  | cvtsr (sat : Bool) (td ts : Ty) (d a b : VReg)
  /-- PK2 (R260). Converts and packs two elements into one register. -/
  | pk2 (rnd : Rnd) (sat : Bool) (td ts : Ty) (d a : VReg)
  /-- PK4 (R260). Converts and packs four elements. -/
  | pk4 (rnd : Rnd) (sat : Bool) (td ts : Ty) (d a : VReg)
  /-- PK8 (R260). Converts and packs eight elements. -/
  | pk8 (rnd : Rnd) (sat : Bool) (td ts : Ty) (d a : VReg)
  /-- UPK2 (R260). Unpacks and converts two elements. -/
  | upk2 (rnd : Rnd) (sat : Bool) (td ts : Ty) (d a : VReg)
  /-- UPK4 (R260). Unpacks and converts four elements. -/
  | upk4 (rnd : Rnd) (sat : Bool) (td ts : Ty) (d a : VReg)
  /-- UPK8 (R260). Unpacks and converts eight elements. -/
  | upk8 (rnd : Rnd) (sat : Bool) (td ts : Ty) (d a : VReg)
  /-- SHFL (R262). Shuffles values within lane sets by idx, up, down or xor. -/
  | shfl (m : ShflMode) (d a b : VReg)
  /-- SHFL_LIT (R262). Shuffle with a literal lane operand (F96). -/
  | shflLit (m : ShflMode) (d a : VReg) (lit : BitVec 32)
  /-- VOTE (R263). Votes any, all or ballot over a lane set. -/
  | vote (op : VoteOp) (d : VReg) (pa : PReg)
  /-- REDL (R264). Reduces a lane set by a fixed tree into every active lane. -/
  | redl (op : RedOp) (ty : Ty) (d a : VReg)
  /-- SCAN (R264). Inclusive or exclusive scan within lane sets. -/
  | scan (excl : Bool) (op : RedOp) (ty : Ty) (d a : VReg)
  /-- BCAST (R265). Broadcasts one lane's value within each set. -/
  | bcast (d a b : VReg)
  /-- BCAST_LIT (R265). Broadcast with a literal lane index (F96). -/
  | bcastLit (d a : VReg) (lit : BitVec 32)
  /-- LPART (R266). Sets the lane-set size from a scalar register. -/
  | lpart (a : SReg)
  /-- LPART_LIT (R266). Sets the lane-set size from a literal (F96). -/
  | lpartLit (lit : BitVec 32)
  /-- RHASH (R267). Writes stateless random bits from address, seed and stream. -/
  | rhash (d a : VReg) (s : SReg) (lit : BitVec 32)
  /-- LD (R158). Loads raw bits per lane after the checks of R154. -/
  | ld (rt : ReqTy) (ty : Ty) (d : VReg) (base : MBase)
  /-- LD_OFF (R158). Load with a 32-bit byte offset (128-bit form). -/
  | ldOff (rt : ReqTy) (ty : Ty) (d : VReg) (base : MBase) (off : BitVec 32)
  /-- ST (R158). Posts a store of raw bits per lane, tagging scratchpad words FULL. -/
  | st (rt : ReqTy) (ty : Ty) (d : VReg) (base : MBase)
  /-- ST_OFF (R158). Store with a 32-bit byte offset (128-bit form). -/
  | stOff (rt : ReqTy) (ty : Ty) (d : VReg) (base : MBase) (off : BitVec 32)
  /-- LDT (R160). Tagged load that waits for FULL then empties the words unless .keep. -/
  | ldt (rt : ReqTy) (keep : Bool) (d : VReg) (base : MBase)
  /-- LDT_OFF (R160). Tagged load with a byte offset (128-bit form). -/
  | ldtOff (rt : ReqTy) (keep : Bool) (d : VReg) (base : MBase) (off : BitVec 32)
  /-- STT (R160). Tagged store that waits for EMPTY then writes and fills. -/
  | stt (rt : ReqTy) (d : VReg) (base : MBase)
  /-- STT_OFF (R160). Tagged store with a byte offset (128-bit form). -/
  | sttOff (rt : ReqTy) (d : VReg) (base : MBase) (off : BitVec 32)
  /-- TSET (R162). Sets tags FULL, or pushes a token in FIFO space. -/
  | tset (rt : ReqTy) (base : MBase)
  /-- TSET_OFF (R162). tset with a byte offset (128-bit form). -/
  | tsetOff (rt : ReqTy) (base : MBase) (off : BitVec 32)
  /-- TCLR (R162). Sets tags EMPTY, or pops a head token in FIFO space. -/
  | tclr (rt : ReqTy) (base : MBase)
  /-- TCLR_OFF (R162). tclr with a byte offset (128-bit form). -/
  | tclrOff (rt : ReqTy) (base : MBase) (off : BitVec 32)
  /-- TTEST (R162). Writes the tag state, or EOSH in FIFO space, to a predicate. -/
  | ttest (rt : ReqTy) (p : PReg) (base : MBase)
  /-- TTEST_OFF (R162). ttest with a byte offset (128-bit form). -/
  | ttestOff (rt : ReqTy) (p : PReg) (base : MBase) (off : BitVec 32)
  /-- PF (R163). Prefetches lines into the L1 under a request type. -/
  | pf (rt : ReqTy) (base : MBase)
  /-- PF_OFF (R163). Prefetch with a byte offset (128-bit form). -/
  | pfOff (rt : ReqTy) (base : MBase) (off : BitVec 32)
  /-- CWB (R164). Writes back dirty words of an L1 line and keeps it. -/
  | cwb (base : MBase)
  /-- CWB_OFF (R164). cwb with a byte offset (128-bit form). -/
  | cwbOff (base : MBase) (off : BitVec 32)
  /-- CINV (R164). Drops an L1 line, writing back dirty words first. -/
  | cinv (base : MBase)
  /-- CINV_OFF (R164). cinv with a byte offset (128-bit form). -/
  | cinvOff (base : MBase) (off : BitVec 32)
  /-- CFLUSH (R164). Writes back and drops an L1 line. -/
  | cflush (base : MBase)
  /-- CFLUSH_OFF (R164). cflush with a byte offset (128-bit form). -/
  | cflushOff (base : MBase) (off : BitVec 32)
  /-- BMODE (R165). Requests a mode switch of one local bank. -/
  | bmode (bank : BitVec 6) (mode : BankMode)
  /-- SALLOC (R166). Adds a zeroed, EMPTY scratchpad extent or returns 0. -/
  | salloc (d a : SReg)
  /-- SFREE (R167). Removes an extent after earlier accesses and engine operations on it finish. -/
  | sfree (a : SReg)
  /-- AADD (R169). Atomic add performed in repechage passes. -/
  | aadd (sc : Scope) (ty : Ty) (d : VReg) (base : MBase) (off : BitVec 32) (c : VReg)
  /-- AMIN (R169). Atomic minimum. -/
  | amin (sc : Scope) (ty : Ty) (d : VReg) (base : MBase) (off : BitVec 32) (c : VReg)
  /-- AMAX (R169). Atomic maximum. -/
  | amax (sc : Scope) (ty : Ty) (d : VReg) (base : MBase) (off : BitVec 32) (c : VReg)
  /-- AAND (R169). Atomic bitwise AND. -/
  | aand (sc : Scope) (ty : Ty) (d : VReg) (base : MBase) (off : BitVec 32) (c : VReg)
  /-- AOR (R169). Atomic bitwise OR. -/
  | aor (sc : Scope) (ty : Ty) (d : VReg) (base : MBase) (off : BitVec 32) (c : VReg)
  /-- AXOR (R169). Atomic bitwise XOR. -/
  | axor (sc : Scope) (ty : Ty) (d : VReg) (base : MBase) (off : BitVec 32) (c : VReg)
  /-- AXCHG (R169). Atomic exchange. -/
  | axchg (sc : Scope) (ty : Ty) (d : VReg) (base : MBase) (off : BitVec 32) (c : VReg)
  /-- ACAS (R172). Atomic compare-and-swap in lane-ordered passes. -/
  | acas (sc : Scope) (ty : Ty) (d : VReg) (base : MBase) (off : BitVec 32) (c e : VReg)
  /-- AINC (R169). Atomic saturating increment. -/
  | ainc (sc : Scope) (ty : Ty) (d : VReg) (base : MBase) (off : BitVec 32)
  /-- RED (R173). Posted reduction combining lanes by a fixed tree, one RMW per address. -/
  | red (op : RedOp) (sc : Scope) (ty : Ty) (base : MBase) (off : BitVec 32) (c : VReg)
  /-- BACC (R213). Sends a register-source block to the record's home for indivisible accumulation. -/
  | bacc (sc : Scope) (fd fs : Ty) (base : MBase) (off : BitVec 32) (c : VReg) (s : SReg)
  /-- BACC_MEM (R213). Reads a source record indivisibly and accumulates it into the destination record. -/
  | baccMem (sc : Scope) (fd fs : Ty) (base : MBase) (off : BitVec 32) (s : SReg)
  /-- BLD (R218). Reads a record's scale and elements from one state. -/
  | bld (sc : Scope) (f : Ty) (d : VReg) (s : SReg) (base : MBase) (off : BitVec 32)
  /-- BCVT (R219). Rescales a block held in registers. -/
  | bcvt (td ts : Ty) (d a : VReg) (s : SReg)
  /-- FENCE (R174). Issues a speculative fence event of a kind and scope. -/
  | fence (k : FenceKind) (sc : Scope)
  /-- BOBJ_INIT (R177). Initialises a barrier object's INIT, EXP, ARR, OVF and PH. -/
  | bobjInit (a e : SReg)
  /-- BOBJ_EXP (R177). Adds bytes to a barrier object's expected count. -/
  | bobjExp (a n : SReg)
  /-- BOBJ_ARR (R177). Counts arrived bytes into a barrier object, possibly flipping it. -/
  | bobjArr (a n : SReg)
  /-- BOBJ_WAIT (R178). Waits until the object's phase equals p. -/
  | bobjWait (a p : SReg)
  /-- MON (R179). Arms the group's monitor on a line with an 8-byte snapshot. -/
  | mon (a : SReg)
  /-- COPY_T (R185). Reads and checks a descriptor and queues a copy. -/
  | copyT (ev : Bool) (i d o : SReg)
  /-- COPY_ARM (R186). Queues a copy that starts at a matrix operand region's consumed event. -/
  | copyArm (ev : Bool) (i d o r : SReg)
  /-- COPY_CANCEL (R187). Cancels a copy that has written no byte. -/
  | copyCancel (p : PReg) (i : SReg)
  /-- EVPOP (R188). Pops the team's oldest event-queue word, acquiring a STAT 0 copy's writes. -/
  | evpop (d : SReg) (p : PReg)
  /-- MXCFG (R334). Loads and checks a slot configuration block, claiming the slot. -/
  | mxcfg (k : BitVec 2) (cfg : SReg)
  /-- MMA (R336). Loads a slot's operation after the shape and region checks. -/
  | mma (mx : Bool) (ty : Ty) (k : BitVec 2) (m n kk o : SReg)
  /-- SACC (R338). Queues a scaled accumulation of a .mx tile into OUT. -/
  | sacc (k : BitVec 2) (a b : SReg)
  /-- MXFLG (R339). Returns a slot's status word and clears ROWS and FLAGS. -/
  | mxflg (d : SReg) (k : BitVec 2)
  /-- MXSPILL (R341). Writes a slot's accumulator image to 4,096 scratchpad bytes. -/
  | mxspill (k : BitVec 2) (a : SReg)
  /-- CREW_ENTER (R308). Loads and checks seat words, parks SIMT state and starts the crew. -/
  | crewEnter (a : SReg) (n : BitVec 6)
  /-- SEAT_LD (R310). Replaces the word of an idle or finished seat. -/
  | seatLd (n : BitVec 5) (a : SReg)
  /-- QDEF (R311). Defines a queue handle over vector registers. -/
  | qdef (q : BitVec 4) (b : VReg) (dep : BitVec 5)
  /-- QADV_H (R312). Pops n items from a queue. -/
  | qadvH (q : BitVec 4) (n : BitVec 5)
  /-- QADV_T (R312). Reserves n slots that land at once as data. -/
  | qadvT (q : BitVec 4) (n : BitVec 5)
  /-- QWAIT (R312). Waits until a queue holds n items or n free slots. -/
  | qwait (free : Bool) (q : BitVec 4) (n : BitVec 5)
  /-- ENQ (R286). Releases at device scope and offers a 64-byte packet to the die's enqueue buffer. -/
  | enq (p : PReg) (b : SReg)
  /-- TRAP (R279). Raises a software trap with sub-cause n. -/
  | trap (n : BitVec 16)
  /-- BKPT (R279). Raises a breakpoint trap at its own address. -/
  | bkpt (n : BitVec 16)
  /-- SR_RD (R281). Reads a special register into a scalar register. -/
  | srRd (d : SReg) (n : BitVec 12)
  /-- SR_WR (R281). Writes a special register from a scalar register. -/
  | srWr (n : BitVec 12) (a : SReg)
  /-- GEN_BUMP (R283). Bumps an ASID's generation and waits for older accesses and any lap flush. -/
  | genBump (a : SReg)
  /-- PTP_RD (R285). Reads the IEEE 1588 device time. -/
  | ptpRd (d : SReg)
  /-- NOP (R276). Does nothing beyond occupying its issue slot; any guard is allowed. -/
  | nop
  /-- BAR (R175). Level team. Arrives at a team, cluster, span or grid barrier after its first fence. -/
  | barTeam
  /-- BAR (R175). Level cluster. Arrives at a team, cluster, span or grid barrier after its first fence. -/
  | barCluster
  /-- BAR (R175). Level span. Arrives at a team, cluster, span or grid barrier after its first fence. -/
  | barSpan
  /-- BAR (R175). Level grid. Arrives at a team, cluster, span or grid barrier after its first fence. -/
  | barGrid
  /-- MWAIT (R180). Waits for the monitor to trigger. -/
  | mwait
  /-- MXARM (R337). Slot 0. Arms a loaded slot after overlap checks and raises reader counts. -/
  | mxarm0
  /-- MXARM (R337). Slot 1. Arms a loaded slot after overlap checks and raises reader counts. -/
  | mxarm1
  /-- MXARM (R337). Slot 2. Arms a loaded slot after overlap checks and raises reader counts. -/
  | mxarm2
  /-- MXARM (R337). Slot 3. Arms a loaded slot after overlap checks and raises reader counts. -/
  | mxarm3
  /-- MXDISARM (R337). Slot 0. Disarms a slot, waiting for a running firing, and lowers reader counts. -/
  | mxdisarm0
  /-- MXDISARM (R337). Slot 1. Disarms a slot, waiting for a running firing, and lowers reader counts. -/
  | mxdisarm1
  /-- MXDISARM (R337). Slot 2. Disarms a slot, waiting for a running firing, and lowers reader counts. -/
  | mxdisarm2
  /-- MXDISARM (R337). Slot 3. Disarms a slot, waiting for a running firing, and lowers reader counts. -/
  | mxdisarm3
  /-- CREW_LEAVE (R309). Waits for the crew to drain and restores the parked state. -/
  | crewLeave
  /-- ROLE (R229). n = 0. Switches the group to a declared role's allotment, class and entry. -/
  | role0
  /-- ROLE (R229). n = 1. Switches the group to a declared role's allotment, class and entry. -/
  | role1
  /-- ROLE (R229). n = 2. Switches the group to a declared role's allotment, class and entry. -/
  | role2
  /-- ROLE (R229). n = 3. Switches the group to a declared role's allotment, class and entry. -/
  | role3
  /-- YIELD (R278). Gives up the pipe, or takes a held pre-emption request. -/
  | yield
  /-- TRET (R351). Restores the shadow, unmasks traps and continues at tepc. -/
  | tret
  /-- HALT (R276). Retires active lanes and pops to a PATH or retires the group. -/
  | halt
  /-- FENCE_TABLE (R284). Runs one region-table commit and waits for it. -/
  | fenceTable
  /-- TAG_WAIT_SERVED (R85). A waiting ldt or stt is served indivisibly in tag order once every word is in the awaited state. -/
  | tagWaitServed
  /-- FIFO_WAIT_SERVED (R89). A waiting FIFO push or pop acts on all its banks together once every bank's condition holds. -/
  | fifoWaitServed
  /-- BANK_SWITCH_COMPLETE (R80). After write-backs and 256 cycles the bank takes its new mode and held accesses are served. -/
  | bankSwitchComplete (core bank : Nat)
  /-- REPECHAGE_PASS (R170). When a pass's RMWs have all returned old values the next pass of distinct addresses is sent. -/
  | repechagePass (gid : Nat)
  /-- BACC_AT_HOME (R214). The home slice adds the block, rescales and re-rounds the record in one step. -/
  | baccAtHome (gid : Nat)
  /-- FENCE_COMPLETE (R130). The fence's conditions hold; held stores leave in order and speculation becomes architectural. -/
  | fenceComplete (gid : Nat)
  /-- L1_INVALIDATION (R132). An invalidation, recall or stale notice arrives at a core's L1. -/
  | l1Invalidation (client : Nat) (line : Nat)
  /-- BARRIER_COMPLETE (R176). Every non-retired participant has arrived; the waiting groups resume past the barrier. -/
  | barrierComplete (gid : Nat)
  /-- MWAIT_TIMEOUT (R180). After 2^24 control cycles mwait returns and clears the monitor. -/
  | mwaitTimeout (gid : Nat)
  /-- MWAIT_SPURIOUS_WAKE (R180). mwait returns for no stated reason. -/
  | mwaitSpuriousWake (gid : Nat)
  /-- ENGINE_PIECE_COMPLETE (R184). A copy's 256-byte piece is written and counted into its object. -/
  | enginePieceComplete (core ident : Nat)
  /-- ENGINE_PIECE_COMPLETE (R184, R148). One engine word of a piece is written before the rest of the piece. -/
  | enginePieceWord (core ident : Nat)
  /-- FIRING_RESULTS_WRITTEN (R138, R326). One word of a finished firing's tile becomes visible before the others. -/
  | firingWord (core : Nat) (k : BitVec 2)
  /-- SACC_COMPLETE (R138, R338). One word of a running sacc's tile becomes visible before the others. -/
  | saccWord (core : Nat) (k : BitVec 2)
  /-- COPY_COMPLETE (R185). A copy completes and writes its event record if .ev or a nonzero STAT. -/
  | copyComplete (core ident : Nat)
  /-- COPY_FAULT (R189). A copy meets a translation fault, finishes in-flight pieces and completes with the fault kind. -/
  | copyFault (core ident : Nat)
  /-- COPY_FAULT (R73). The Cox reads the oldest record of a die's fault buffer, which is pending no longer. -/
  | faultBufferRead (die : Nat)
  /-- ARRAY_SELECT (R329). At a K-block boundary or when idle the engine selects the highest-class candidate, suspending others. -/
  | arraySelect (core : Nat)
  /-- FIRING_RESULTS_WRITTEN (R326). A firing writes D, frees its bank, counts its object and pushes its record. -/
  | firingResultsWritten (core : Nat) (k : BitVec 2)
  /-- CONSUMED_EVENT (R325). Every armed reader has consumed a region: its words become EMPTY and armed copies start. -/
  | consumedEvent (core : Nat) (base : VAddr)
  /-- SACC_START (R338). A queued sacc starts once D is FULL and the scoreboard allows. -/
  | saccStart (core : Nat) (k : BitVec 2)
  /-- SACC_COMPLETE (R338). A sacc writes OUT, empties D, counts its object and pushes its record. -/
  | saccComplete (core : Nat) (k : BitVec 2)
  /-- CREW_DRAINED (R309). Sinks have popped tokens and queues and stores are done; the parked state is restored. -/
  | crewDrained (gid : Nat)
  /-- CREW_STROKE (R301). One stroke of a crew: every seat whose inputs and outputs allow fires and results land. -/
  | crewStroke (gid : Nat)
  /-- ENQUEUE_BUFFER_WRITE (R287). The enqueue buffer writes an accepted packet to its ring and advances SUBMIT. -/
  | enqueueBufferWrite (die : Nat)
  /-- YIELD_TIMEOUT (R278). After 64 arithmetic cycles a yielding group is ready again. -/
  | yieldTimeout (gid : Nat)
  /-- CLOCK_STATUS_READ (R282). sr.rd of the clock status register reports and clears STEP. -/
  | clockStatusRead (d : SReg)
  /-- FIFO_CONFIG_WRITE (R88). Writes a FIFO bank's configuration, possibly activating a link. -/
  | fifoConfigWrite (bank : BitVec 6) (a : SReg)
  /-- CREDIT_RETURN_WRITE (R90). Manually returns credits from a consumer end in CMODE 10. -/
  | creditReturnWrite (a : SReg)
  /-- GEN_BUMP_COMPLETE (R68). Older-generation accesses are performed and any lap flush confirmed; the bump completes. -/
  | genBumpComplete (gid : Nat)
  /-- GEN_BUMP (R68). The Cox bumps an ASID's generation for the driver. -/
  | coxGenBump (asid : BitVec 16)
  /-- GEN_BUMP_COMPLETE (R68). Every access under the old generation of a bump made for the driver is performed. -/
  | coxGenBumpComplete (asid : BitVec 16)
  /-- ISSUE_SELECT (R232). Each pipe chooses at most one ready group to issue per arithmetic cycle. -/
  | issueSelect (gid : Nat)
  /-- ISSUE_STARVATION (R232). A group ready and unissued for 4,096 arithmetic cycles takes priority. -/
  | issueStarvation (gid : Nat)
  /-- TRAP_ENTRY (R349). A precise trap sets the trap registers, saves the shadow and enters the handler, or ends the context. -/
  | trapEntry (gid : Nat)
  /-- PREEMPTION_REQUEST (R353). The Cox asks a gang to stop at its next pre-emption points. -/
  | preemptionRequest (launch span : Nat)
  /-- GRACE_EXPIRY (R354). A request held under masked traps outlasts the grace time; the context ends with 0x83. -/
  | graceExpiry (gid : Nat)
  /-- GANG_SAVE (R355). Once every group has stopped the gang's writes, engines and records are saved and its cores freed. -/
  | gangSave (launch span : Nat)
  /-- GROUP_RETIRE (R224). A group with no live lane retires once its posted writes are performed. -/
  | groupRetire (gid : Nat)
  /-- TEAM_RETIRE (R224). A team retires after its groups and engine operations finish, freeing extents, banks and slot. -/
  | teamRetire (core slot : Nat)
  /-- FIFO_ITEM_ARRIVAL (R90). A forwarded FIFO item arrives at the consumer end. -/
  | fifoItemArrival (core bank : Nat)
  /-- FIFO_CREDIT_ARRIVAL (R90). A credit message arrives at the producer end, letting it forward items. -/
  | fifoCreditArrival (core bank : Nat)
  /-- FIFO_LINK_BREAK (R91). After in-transit traffic arrives, the remaining end sets BRK and clears LNK. -/
  | fifoLinkBreak (core bank : Nat)
  /-- HOME_OWN_ACCESS (R102). The home serves an .own access, adding or merging holders. -/
  | homeOwnAccess (client pa : Nat) (r w : LineMask)
  /-- HOME_WT_LOAD (R102). The home serves a .wt load, filling a recorded copy. -/
  | homeWtLoad (client pa : Nat) (r : LineMask)
  /-- HOME_SI_LOAD (R102). The home serves a .si load, filling an unrecorded copy. -/
  | homeSiLoad (client pa : Nat) (r : LineMask)
  /-- HOME_UNC_LOAD (R102). The home serves an .unc load at the slice. -/
  | homeUncLoad (client pa : Nat) (r : LineMask)
  /-- HOME_WRITE (R102). The home performs a .wt or .unc store, atomic or block atomic, invalidating or recalling copies. -/
  | homeWrite (gid : Nat)
  /-- HOME_EVICTION (R102). A sharer's or holder's eviction reaches the home, writing back dirty words. -/
  | homeEviction (client pa : Nat)
  /-- DIRECTORY_ENTRY_EVICTION (R102). A directory entry is evicted and every copy recalled. -/
  | directoryEntryEviction (pa : Nat)
  /-- UNTRACKED_ACCESS (R109). An untracked access is performed at the slice and tracked holders get stale notices. -/
  | untrackedAccess (pa : Nat) (w : LineMask) (data : LineData) (asid : BitVec 16)
  /-- DIRECTORY_UNCORRECTABLE (R111). The home rebuilds an uncorrectable directory entry by invalidate-with-writeback to all assumed clients. -/
  | directoryUncorrectable (pa : Nat)
  /-- L2_DATA_UNCORRECTABLE (R361). A slice finds an uncorrectable sector, recovers or poisons it, ends the owner and quarantines the way. -/
  | l2DataUncorrectable (pa sector : Nat) (otu : Bool)
  /-- L2_DATA_UNCORRECTABLE (R361). Bits of an L2 sector are upset past correction; what reads the sector finds it. -/
  | softError (pa sector : Nat) (otu : Bool)
  /-- L2_DATA_UNCORRECTABLE (R360). A correctable error of an L2 sector is corrected in place and counted. -/
  | l2Correctable (pa sector : Nat)
  /-- NO_REGION_ACCESS (R96). The routing die answers a physical access in no valid region with all ones or a dropped write. -/
  | noRegionAccess (pa part : Nat)
  /-- HOST_CACHEABLE_READ (R105). A host cacheable read is treated as a .wt load by the host port. -/
  | hostCacheableRead (pa : Nat) (r : LineMask)
  /-- HOST_READ_FOR_OWNERSHIP (R105). A host read for ownership or cacheable write is an .own access by the host port. -/
  | hostReadForOwnership (pa : Nat) (r w : LineMask) (data : LineData)
  /-- HOST_NONCACHING_ACCESS (R105). A host non-caching read or write is served as .unc. -/
  | hostNoncachingAccess (pa : Nat) (wr : Bool) (m : LineMask) (data : LineData)
  /-- HOST_ATOMIC (R105). A host atomic is performed at the home slice. -/
  | hostAtomic (pa : Nat) (op : AtomOp) (ty : Ty) (v e : Word)
  /-- PEER_REQUEST (R414). A request arriving on a connection group is served as .unc if its region's partition matches. -/
  | peerRequest (entry pa : Nat) (wr : Bool) (m : LineMask) (data : LineData)
  /-- PEER_REQUEST (R106, R414). An atomic arrives from a peer device and returns its old value. -/
  | peerAtomic (entry pa : Nat) (op : AtomOp) (ty : Ty) (v e : Word)
  /-- PEER_REQUEST (R106, R210). A block accumulation of a peer is performed at its home. -/
  | peerBacc (x : PeerRed) (fd fs : Ty) (act : Mask) (scale : Byte) (elems : BitVec 256)
  /-- DOORBELL (R366). A write to SUBMIT advances it if in range and DEVENQ is 0, else is logged as ignored. -/
  | doorbell (q : Nat) (v : Word)
  /-- QUEUE_EN_WRITE (R364). Setting EN enables or resumes a queue at FSEQ; clearing it disables. -/
  | queueEnWrite (q : Nat) (v : Word)
  /-- QUEUE_RST (R391). Writing RST resets the queue (rung 2). -/
  | queueRst (q : Nat)
  /-- QUEUE_SNAPSHOT_READ (R367). An aligned 32-byte read returns SUBMIT, CPL, status and ELSEQ from one instant. -/
  | queueSnapshotRead (q : Nat)
  /-- PAD (R369). A PAD packet completes at once. -/
  | padPkt (q : Nat)
  /-- LAUNCH (R376). A LAUNCH is checked and its spans handed to the named dies' marshals. -/
  | launchPkt (q : Nat)
  /-- CONFIG (R377). A CONFIG packet writes a pipeline-table entry. -/
  | configPkt (q : Nat)
  /-- BIND (R379). A BIND packet becomes a pending stream binding, or completes with 0x05. -/
  | bindPkt (q : Nat)
  /-- WAIT (R373). A WAIT packet blocks its thread until its condition holds. -/
  | waitPkt (q : Nat)
  /-- WAIT_REEVALUATE (R373). On a change or every 1,400 Cox cycles the thread re-evaluates its WAIT. -/
  | waitReevaluate (q : Nat)
  /-- SIGNAL (R374). Releases at system scope and writes 8 bytes atomically. -/
  | signalPkt (q : Nat)
  /-- TIMED (R381). Checks a TIMED launch image and places it in the stakeboat. -/
  | timedPkt (q : Nat)
  /-- STAKEBOAT_RELEASE (R382). At T - LEAD the launch becomes a placement candidate. -/
  | stakeboatRelease (launch : Nat)
  /-- TIMED_START (R382). At T the placed groups become ready to issue. -/
  | timedStart (launch : Nat)
  /-- PART_DEFINE (R388). Moves named idle resources to a partition. -/
  | partDefine (q : Nat)
  /-- PART_SET (R388). Sets a partition's grace, age, umpire, record, replay and watchdog controls. -/
  | partSet (q : Nat)
  /-- PART_RESET (R391). Partition reset: every context ends with 0x85 and its queues reset (rung 3). -/
  | partReset (q : Nat)
  /-- PART_DISSOLVE (R388). Returns an idle partition's resources to partition 0. -/
  | partDissolve (q : Nat)
  /-- PART_PARK (R388). Parks every placed gang of a queue (rung 1). -/
  | partPark (q : Nat)
  /-- PART_RESUME (R388). Parked gangs become candidates again. -/
  | partResume (q : Nat)
  /-- PART_QRESET (R388). Resets a queue (rung 2). -/
  | partQreset (q : Nat)
  /-- PLACEMENT_ROUND (R385). A marshal round places candidates, ages and reserves for blocked heads. -/
  | placementRound (die : Nat)
  /-- UMPIRE_REPORT (R390). A set of waiters unchanged for 2^X control cycles is reported once. -/
  | umpireReport (part : Nat)
  /-- GROUP_WATCHDOG (R391). A gang blocked longer than the watchdog time is parked (rung 1). -/
  | groupWatchdog (gid : Nat)
  /-- REPLAY_PRESENT (R393). Replay presents a recorded packet, peer message or interrupt at its recorded offset. -/
  | replayPresent (part : Nat)
  /-- CLOCK_STEP (R285). The IEEE 1588 device clock is stepped, setting STEP. -/
  | clockStep (ns : Word)
  /-- GRANDMASTER_LOCK_CHANGE (R285). The device clock gains or loses lock to a grandmaster. -/
  | grandmasterLockChange (lock : Bool)
  /-- TABLE_COMMIT_GO (R113). Writing GO starts a region-table commit through the Cox. -/
  | tableCommitGo
  /-- TABLE_COMMIT_COMPLETE (R113). DRAIN reaches 0; waiting requests are homed under the new version and PEND clears. -/
  | tableCommitComplete
  /-- MCCONS_WRITE (R363). Frees machine-check records if the value lies between MCCONS and MCWPTR. -/
  | mcconsWrite (v : Word)
  /-- REGISTER_WRITE (R406). A host write to a package or queue register with no behaviour of its own. -/
  | registerWrite (off : Nat) (v : Word)
  /-- CONN_REQ_UP (R410). Setting REQ moves a DOWN entry to SETUP or FAULT. -/
  | connReqUp (i : Nat)
  /-- CONN_REQ_DOWN (R410). Clearing REQ takes an entry toward DOWN or DRAIN. -/
  | connReqDown (i : Nat)
  /-- CONN_FAR_ENTRY (R410). The far entry's state arrives: SETUP becomes UP or FAULT, or UP becomes DRAIN. -/
  | connFarEntry (i : Nat) (far : FarState)
  /-- CONN_FEATHER (R411). ERRCNT reaches ERRTH: the group halves its lanes or faults and replays. -/
  | connFeather (i : Nat)
  /-- CONN_FEATHER (R411). The far entry begins a feather, and this entry halves its lanes with it. -/
  | connFarFeather (i : Nat)
  /-- CONN_DRAIN_COMPLETE (R410). Every in-flight transfer is acknowledged and the entry goes DOWN. -/
  | connDrainComplete (i : Nat)
  /-- CONN_ERRCNT_READ (R409). Reading ERRCNT returns and clears it. -/
  | connErrcntRead (i : Nat)
  /-- CONN_ERRCNT_READ (R406, R409). The host reads a 64-bit register of the package window. -/
  | windowRead (off : Nat)
  /-- ERRCNT_WINDOW_EXPIRY (R409). The 1 ms error window ends and a new count begins. -/
  | errcntWindowExpiry (i : Nat)
  /-- REDUCTION_CONTRIBUTION (R416). A matching red arrives at the reduction unit and merges or opens an entry. -/
  | reductionContribution (x : PeerRed) (op : RedOp) (ty : Ty) (v : Word)
  /-- REDUCTION_HOLD_EXPIRY (R416). An entry's HOLD timer ends and its RMW is sent to the home. -/
  | reductionHoldExpiry (pa : Nat)
  /-- REDUCTION_WINDOW_WRITE (R417). A window entry write takes effect after its open entries flush. -/
  | reductionWindowWrite (w : Nat) (v : BitVec 128)
  /-- DEVICE_RESET (R391). Sideband device reset (rung 4) loses every partition and restarts boot. -/
  | deviceReset
  /-- MODULE_POWER_CYCLE (R391). The hot-swap controller cycles module power (rung 5). -/
  | modulePowerCycle
  /-- INPUT_VOLTAGE_FAULT (R424). Input outside 40-60 V for over 1 ms removes power. -/
  | inputVoltageFault
  /-- JUNCTION_TEMPERATURE (R425). A die's junction temperature crosses 100 or 110 °C, gating issue or tripping. -/
  | junctionTemperature (die tenths : Nat)
  /-- BLOB_GO (R426). GO over the sideband starts signature check, blob application and bring-up to READY. -/
  | blobGo (blob : Blob)
  /-- BLOB_GO (R426). Boot step 2: the microcontroller writes a word of the Cox firmware into the Cox's SRAM. -/
  | firmwareWrite (off : Nat) (v : Word)
  /-- COX_WATCHDOG_EXPIRY (R428). 10 ms without firmware progress is a fatal error. -/
  | coxWatchdogExpiry
  /-- FATAL_ERROR (R428). Every die stops issue and the Cox writes the fatal dump, then DUMPED. -/
  | fatalError (cause : FatalCause)
  /-- FATAL_ERROR (R429). The Cox finishes the fatal dump and sets its VALID. -/
  | dumpComplete
  /-- POWER_UP (R426). Input power returns within 40-60 V and the module comes out of reset into boot step 1. -/
  | powerUp
  /-- REPLAYED_TRANSFER (R409). A transfer error on a connection group causes a replay from the replay buffer and increments ERRCNT. -/
  | replayedTransfer (i : Nat)
  /-- HOST_PORT_ACKNOWLEDGEMENT (R105). The host answers an invalidation or recall sent to the host port, giving up its copy over Mirrex. -/
  | hostPortAcknowledgement (pa : Nat)
  deriving DecidableEq, Repr

end Sys2Proof
end

