-- ==== Sys2Proof/Machine/FieldRules.lean ====
section
/-! DEFINITION. Which field values an instruction accepts beyond what its constructor's own types say
(sub-cause 6 of R54): types, register pairs, ranges of counts and depths, special-register numbers. -/
namespace Sys2Proof.Machine

/-- The width in bits of a type's values (R34, R191, R194, R197, R198); 0 for `none`. -/
def tyBits : Ty → Nat
  | .none => 0
  | .i4 | .n4 | .e2m1 => 4
  | .e2m3 | .e3m2 => 6
  | .i8 | .n8 | .b8 | .e4m3 | .e5m2 | .tap8 => 8
  | .i16 | .n16 | .b16 | .f16 | .bf16 | .tap16 => 16
  | .i32 | .n32 | .b32 | .f32 | .tap32 => 32
  | .i64 | .n64 | .b64 => 64

/-- Signed integer types (R197). -/
def tyIsSigned : Ty → Bool
  | .i4 | .i8 | .i16 | .i32 | .i64 => true
  | _ => false

/-- Integer types (R197). -/
def tyIsInt : Ty → Bool
  | .i4 | .i8 | .i16 | .i32 | .i64 | .n4 | .n8 | .n16 | .n32 | .n64 => true
  | _ => false

/-- Tapered types (R198). -/
def tyIsTap : Ty → Bool
  | .tap8 | .tap16 | .tap32 => true
  | _ => false

/-- Floating-point types with or without infinities (R191, R194). -/
def tyIsFloat : Ty → Bool
  | .f32 | .f16 | .bf16 | .e4m3 | .e5m2 | .e2m3 | .e3m2 | .e2m1 => true
  | _ => false

/-- Numeric types: those with a value (R258). -/
def tyIsNum (t : Ty) : Bool := tyIsInt t || tyIsTap t || tyIsFloat t

/-- The four integer types of most vector integer minors (R43). -/
def tyI4 : Ty → Bool
  | .i32 | .n32 | .i64 | .n64 => true
  | _ => false

/-- `.b32` and `.b64` (R43, R49). -/
def tyB2 : Ty → Bool
  | .b32 | .b64 => true
  | _ => false

/-- `.i32` and `.i64` (R43). -/
def tyS2 : Ty → Bool
  | .i32 | .i64 => true
  | _ => false

/-- The types of the vector floating-point minors (R44). -/
def tyF3 : Ty → Bool
  | .f32 | .f16 | .bf16 => true
  | _ => false

/-- The MX element formats (R50, R205). -/
def tyElem : Ty → Bool
  | .e4m3 | .e5m2 | .e2m3 | .e3m2 | .e2m1 => true
  | _ => false

/-- The widths of `ld` and `st` (R157). -/
def tyMem : Ty → Bool
  | .b8 | .b16 | .b32 | .b64 => true
  | _ => false

/-- A 64-bit type names pairs by their even register (R32, R234). -/
def pairOk (t : Ty) (rs : List VReg) : Bool :=
  tyBits t != 64 || rs.all (fun r => r.toNat % 2 == 0)

/-- Whether the op suits the type for `red` (R49). -/
def redOk (op : RedOp) (t : Ty) : Bool :=
  match op with
  | .add => tyI4 t || t == .f32
  | .min | .max => tyI4 t
  | .and | .or | .xor => tyB2 t

/-- Whether the op suits the type for `redl` and `scan` (R47, R264). -/
def redlOk (op : RedOp) (t : Ty) : Bool :=
  match op with
  | .add => t == .i32 || t == .n32 || t == .f32
  | .min | .max => t == .i32 || t == .n32
  | .and | .or | .xor => t == .b32

/-- The types an atomic minor accepts (R49). -/
def atomOk (op : AtomOp) (t : Ty) : Bool :=
  match op with
  | .add => tyI4 t || t == .f32
  | .min | .max => tyI4 t
  | .and | .or | .xor | .xchg | .cas => tyB2 t
  | .inc => t == .n32 || t == .n64

/-- The element formats of `mma` (R52). -/
def mmaTyOk (mx : Bool) (t : Ty) : Bool :=
  if mx then tyElem t
  else tyElem t || t == .f16 || t == .bf16 || t == .tap16 || t == .i8 || t == .n8

/-- Special-register numbers that `sr.rd` may name: the listed ones that are not WO (R281, R282). -/
def srReadable (n : BitVec 12) : Bool :=
  let k := n.toNat
  (1 ≤ k && k ≤ 3) || (8 ≤ k && k ≤ 0xC) || (0x10 ≤ k && k ≤ 0x16) || (0x18 ≤ k && k ≤ 0x1E) ||
  k == 0x20 || k == 0x22 || k == 0x23 || k == 0x24 ||
  (0x100 ≤ k && k ≤ 0x12F) || (0x200 ≤ k && k ≤ 0x22F) || (0x300 ≤ k && k ≤ 0x32F)

/-- Special-register numbers that `sr.wr` may name: the listed ones that are not RO (R281, R282). -/
def srWritable (n : BitVec 12) : Bool :=
  let k := n.toNat
  k == 8 || k == 0xC || (0x10 ≤ k && k ≤ 0x16) || (0x18 ≤ k && k ≤ 0x1E) || k == 0x30 ||
  (0x200 ≤ k && k ≤ 0x22F)

/-- The type pairs of `cvt` (R258): numeric, and not equal. -/
def cvtOk (rnd : Rnd) (td ts : Ty) : Bool :=
  tyIsNum td && tyIsNum ts && td != ts && (!(tyIsInt td && tyIsInt ts) || rnd == .rn)

/-- The element width that packing K elements requires (R46, R260). -/
def packWidthOk (k : Nat) (t : Ty) : Bool :=
  tyIsNum t && (match k with
  | 2 => tyBits t == 16
  | 4 => tyBits t == 8 || tyBits t == 6
  | _ => t == .e2m1 || t == .i4 || t == .n4)

/-- The other side of a packing conversion: a numeric type of at most 32 bits (R260). -/
def packOtherOk (t : Ty) : Bool := tyIsNum t && tyBits t ≤ 32

/-- `pkK` (R258, R260): K consecutive sources that do not run past v255. -/
def pkOk (k : Nat) (rnd : Rnd) (td ts : Ty) (a : VReg) : Bool :=
  packWidthOk k td && packOtherOk ts && (!(tyIsInt td && tyIsInt ts) || rnd == .rn) && a.toNat + k ≤ 256

/-- `upkK` (R258, R260): K consecutive destinations that do not run past v255. -/
def upkOk (k : Nat) (rnd : Rnd) (td ts : Ty) (d : VReg) : Bool :=
  packWidthOk k ts && packOtherOk td && (!(tyIsInt td && tyIsInt ts) || rnd == .rn) && d.toNat + k ≤ 256

/-- A literal that is the bit pattern of a type narrower than 32 bits has its unused high bits zero (R33). -/
def litOk (t : Ty) (lit : BitVec 32) : Bool :=
  32 ≤ tyBits t || lit.toNat < 2 ^ tyBits t

/-- Whether every field value of the instruction is one that its entry accepts (R54, sub-cause 6). The
steps without an encoding have no fields to refuse. -/
def fieldsOk : Instr → Bool
  | .sshlLit _ _ lit | .sshrN64Lit _ _ lit | .sshrI64Lit _ _ lit => lit.toNat < 64
  | .scmpI64 cd _ _ _ | .scmpN64 cd _ _ _ => cd != .un
  | .scmpI64Imm cd _ _ _ | .scmpN64Imm cd _ _ _ => cd != .un
  | .scmpI64Lit cd _ _ _ | .scmpN64Lit cd _ _ _ => cd != .un
  | .iadd t _ d a b | .isub t _ d a b => tyI4 t && pairOk t [d, a, b]
  | .iaddLit t _ d a _ | .isubLit t _ d a _ => tyI4 t && pairOk t [d, a]
  | .imul t d a b | .imulh t d a b | .idiv t d a b | .irem t d a b | .imin t d a b
  | .imax t d a b | .shr t d a b => tyI4 t && pairOk t [d, a, b]
  | .imulLit t d a _ | .imulhLit t d a _ | .idivLit t d a _ | .iremLit t d a _ | .iminLit t d a _
  | .imaxLit t d a _ | .shrLit t d a _ => tyI4 t && pairOk t [d, a]
  | .iabs t d a | .ineg t d a => tyS2 t && pairOk t [d, a]
  | .vAnd t d a b | .vOr t d a b | .vXor t d a b | .shl t d a b => tyB2 t && pairOk t [d, a, b]
  | .vAndLit t d a _ | .vOrLit t d a _ | .vXorLit t d a _ | .shlLit t d a _ => tyB2 t && pairOk t [d, a]
  | .vNot t d a | .mov t d a | .clz t d a | .popc t d a | .brev t d a => tyB2 t && pairOk t [d, a]
  | .icmp t cd _ a b => tyI4 t && cd != .un && pairOk t [a, b]
  | .icmpLit t cd _ a _ => tyI4 t && cd != .un && pairOk t [a]
  | .sel t _ d a b => tyB2 t && pairOk t [d, a, b]
  | .movLit t d _ => tyB2 t && pairOk t [d]
  | .imad t d a b c => tyI4 t && pairOk t [d, a, b, c]
  | .dot4 t _ _ _ _ _ => t == .i8 || t == .n8
  | .fadd t _ _ _ _ | .fsub t _ _ _ _ | .fmul t _ _ _ _ => tyF3 t
  | .faddLit t _ _ _ l | .fsubLit t _ _ _ l | .fmulLit t _ _ _ l => tyF3 t && litOk t l
  | .ffma t _ _ _ _ _ => tyF3 t
  | .fmin t _ _ _ | .fmax t _ _ _ | .fsgn t _ _ _ => tyF3 t
  | .fminLit t _ _ l | .fmaxLit t _ _ l => tyF3 t && litOk t l
  | .fabs t _ _ | .fneg t _ _ | .fclass t _ _ => tyF3 t
  | .fcmp t _ _ _ _ => tyF3 t
  | .fcmpLit t _ _ _ l => tyF3 t && litOk t l
  | .frnd t _ _ _ => tyF3 t
  | .tadd t _ _ _ | .tmul t _ _ _ | .tmin t _ _ _ | .tmax t _ _ _ => tyIsTap t
  | .taddLit t _ _ l | .tmulLit t _ _ l | .tminLit t _ _ l | .tmaxLit t _ _ l => tyIsTap t && litOk t l
  | .tfma t _ _ _ _ => tyIsTap t
  | .tcmp t cd _ _ _ => tyIsTap t && cd != .un
  | .tcmpLit t cd _ _ l => tyIsTap t && cd != .un && litOk t l
  | .cvt rnd _ td ts d a => cvtOk rnd td ts && pairOk td [d] && pairOk ts [a]
  | .cvtsr _ td ts _ a _ => (tyIsFloat td || tyIsTap td) && tyIsNum ts && pairOk ts [a]
  | .pk2 rnd _ td ts _ a => pkOk 2 rnd td ts a
  | .pk4 rnd _ td ts _ a => pkOk 4 rnd td ts a
  | .pk8 rnd _ td ts _ a => pkOk 8 rnd td ts a
  | .upk2 rnd _ td ts d _ => upkOk 2 rnd td ts d
  | .upk4 rnd _ td ts d _ => upkOk 4 rnd td ts d
  | .upk8 rnd _ td ts d _ => upkOk 8 rnd td ts d
  | .vote op d _ => op == .ballot || d.toNat < 8
  | .redl op t _ _ | .scan _ op t _ _ => redlOk op t
  | .lpartLit l => l.toNat == 2 || l.toNat == 4 || l.toNat == 8 || l.toNat == 16 || l.toNat == 32
  | .ld _ t d _ | .ldOff _ t d _ _ | .st _ t d _ | .stOff _ t d _ _ => tyMem t && pairOk t [d]
  | .bmode n _ => n.toNat < 48
  | .aadd _ t d _ _ c => atomOk .add t && pairOk t [d, c]
  | .amin _ t d _ _ c | .amax _ t d _ _ c => atomOk .min t && pairOk t [d, c]
  | .aand _ t d _ _ c | .aor _ t d _ _ c | .axor _ t d _ _ c | .axchg _ t d _ _ c =>
      atomOk .and t && pairOk t [d, c]
  | .acas _ t d _ _ c e => atomOk .cas t && pairOk t [d, c, e]
  | .ainc _ t d _ _ => atomOk .inc t && pairOk t [d]
  | .red op _ t _ _ c => redOk op t && pairOk t [c]
  | .bacc _ fd fs _ _ _ _ | .baccMem _ fd fs _ _ _ => tyElem fd && tyElem fs
  | .bld _ f _ _ _ _ => tyElem f
  | .bcvt td ts _ _ _ => tyElem td && tyElem ts
  | .mma mx t _ _ _ _ _ => mmaTyOk mx t
  | .crewEnter _ n => 1 ≤ n.toNat && n.toNat ≤ 32
  | .qdef _ b d => 2 ≤ d.toNat && d.toNat ≤ 16 && b.toNat + d.toNat ≤ 256
  | .qadvH _ n | .qadvT _ n | .qwait _ _ n => 1 ≤ n.toNat && n.toNat ≤ 16
  | .enq _ b => b.toNat % 8 == 0
  | .srRd _ n => srReadable n
  | .srWr n _ => srWritable n
  | .fifoConfigWrite bank _ => bank.toNat < 48
  | _ => true

end Sys2Proof.Machine
end

