-- ==== Sys2Proof/Machine/Numeric.lean ====
section
/-! DEFINITION. The number formats to the bit (R190 to R209): decoding, exact arithmetic, rounding with its flags,
and the conversions. Reals are exact dyadics: (-1)^neg * m * 2^e. -/
namespace Sys2Proof.Machine

/-- A lane's flags, in the layout of R236: bit 0 NV, 1 DZ, 2 OF, 3 UF, 4 NX, 5 IDZ, 6 IOV. -/
abbrev FlagSet := BitVec 7

/-- Invalid. -/
def fNV : FlagSet := 0x01
/-- Divide by zero (floating point). -/
def fDZ : FlagSet := 0x02
/-- Overflow. -/
def fOF : FlagSet := 0x04
/-- Underflow. -/
def fUF : FlagSet := 0x08
/-- Inexact. -/
def fNX : FlagSet := 0x10
/-- Integer divide by zero. -/
def fIDZ : FlagSet := 0x20
/-- Integer overflow. -/
def fIOV : FlagSet := 0x40

/-- The flag where a condition holds. -/
def flagIf (c : Bool) (f : FlagSet) : FlagSet := if c then f else 0

/-- A decoded value. `fin neg m e` is (-1)^neg * m * 2^e; with m = 0 it is a signed zero. -/
inductive Num where
  | fin (neg : Bool) (m : Nat) (e : Int)
  | inf (neg : Bool)
  | qnan
  | snan
  | nar
  deriving DecidableEq, Repr

/-- What the all-ones exponent of a format means (R191, R194). -/
inductive Specials where
  /-- infinities and NaNs (R191) -/
  | ieee
  /-- one NaN magnitude, no infinity (E4M3) -/
  | e4m3
  /-- an ordinary binade (E2M3, E3M2, E2M1) -/
  | none
  deriving DecidableEq, Repr

/-- A floating-point format: exponent bits, fraction bits, bias, specials. -/
structure Fmt where
  eb : Nat
  fb : Nat
  bias : Int
  sp : Specials
  deriving DecidableEq, Repr

/-- FP32. -/
def fmtF32 : Fmt := ⟨8, 23, 127, .ieee⟩

/-- The parameters of R191 and R194. -/
def fmtOf : Ty → Fmt
  | .f16 => ⟨5, 10, 15, .ieee⟩
  | .bf16 => ⟨8, 7, 127, .ieee⟩
  | .e5m2 => ⟨5, 2, 15, .ieee⟩
  | .e4m3 => ⟨4, 3, 7, .e4m3⟩
  | .e2m3 => ⟨2, 3, 1, .none⟩
  | .e3m2 => ⟨3, 2, 3, .none⟩
  | .e2m1 => ⟨2, 1, 1, .none⟩
  | _ => fmtF32

/-- The sign bit's weight. -/
def fmtSign (f : Fmt) : Nat := 2 ^ (f.eb + f.fb)

/-- The canonical NaN (R191, R194). -/
def canonNaN (f : Fmt) : Nat :=
  match f.sp with
  | .ieee => (2 ^ (f.eb + 1) - 1) * 2 ^ (f.fb - 1)
  | .e4m3 => 0x7F
  | .none => 0

/-- The bits of the largest finite magnitude. -/
def maxBits (f : Fmt) : Nat :=
  match f.sp with
  | .ieee => (2 ^ f.eb - 1) * 2 ^ f.fb - 1
  | .e4m3 => 0x7E
  | .none => 2 ^ (f.eb + f.fb) - 1

/-- A magnitude with its sign. -/
def withSign (f : Fmt) (neg : Bool) (b : Nat) : Nat := if neg then fmtSign f + b else b

/-- `Decode` for the formats of R191 and R194. -/
def decodeFloat (f : Fmt) (b : Nat) : Num :=
  let neg := b / fmtSign f % 2 == 1
  let E := b / 2 ^ f.fb % 2 ^ f.eb
  let F := b % 2 ^ f.fb
  if E == 2 ^ f.eb - 1 && f.sp == .ieee then
    if F == 0 then .inf neg else if 2 ^ (f.fb - 1) ≤ F then .qnan else .snan
  else if E == 2 ^ f.eb - 1 && f.sp == .e4m3 && F == 2 ^ f.fb - 1 then .qnan
  else if E == 0 then .fin neg F (1 - f.bias - f.fb)
  else .fin neg (2 ^ f.fb + F) (E - f.bias - f.fb)

/-- The integer that a magnitude m * 2^e gives when rounded to a multiple of 2^q, in units of 2^q, and whether it
differs from the magnitude. -/
def roundMag (mode : Rnd) (neg : Bool) (m : Nat) (e q : Int) : Nat × Bool :=
  if q ≤ e then (m * 2 ^ (e - q).toNat, false)
  else
    let d := (q - e).toNat
    -- the quotient, and the remainder compared with one half: 0 none, 1 below, 2 equal, 3 above
    let kr : Nat × Nat :=
      if m == 0 then (0, 0)
      else if m.log2 + 1 < d then (0, 1)
      else
        let r := m % 2 ^ d
        (m / 2 ^ d, if r == 0 then 0 else if r < 2 ^ (d - 1) then 1 else if r == 2 ^ (d - 1) then 2 else 3)
    let up : Bool := match mode with
      | .rn => kr.2 == 3 || (kr.2 == 2 && kr.1 % 2 == 1)
      | .rz => false
      | .ru => !neg && kr.2 != 0
      | .rd => neg && kr.2 != 0
    (if up then kr.1 + 1 else kr.1, kr.2 != 0)

/-- The exponent of the result of rounding to the format's precision with unbounded exponent (R193). -/
def unboundedExp (f : Fmt) (mode : Rnd) (neg : Bool) (m : Nat) (e : Int) : Int :=
  let L : Int := m.log2 + e
  if (roundMag mode neg m e (L - f.fb)).1 == 2 ^ (f.fb + 1) then L + 1 else L

/-- Tininess after rounding (R193). -/
def isTiny (f : Fmt) (mode : Rnd) (neg : Bool) (m : Nat) (e : Int) : Bool :=
  m != 0 && unboundedExp f mode neg m e < 1 - f.bias

/-- Whether the value rounded with unbounded exponent exceeds the largest finite magnitude (R193, R195). -/
def overflows (f : Fmt) (mode : Rnd) (neg : Bool) (m : Nat) (e : Int) : Bool :=
  let L := unboundedExp f mode neg m e
  let top : Int := match f.sp with
    | .ieee => 2 ^ f.eb - 2 - f.bias
    | _ => 2 ^ f.eb - 1 - f.bias
  top < L || (f.sp == .e4m3 && L == top && (roundMag mode neg m e (L - f.fb)).1 == 2 ^ (f.fb + 1) - 1)

/-- The result of an overflow (R193, R195). -/
def overflowBits (f : Fmt) (mode : Rnd) (sat neg : Bool) : Nat :=
  let toInf : Bool := match mode with
    | .rn => true
    | .rz => false
    | .ru => !neg
    | .rd => neg
  if toInf && !sat then
    match f.sp with
    | .ieee => withSign f neg (maxBits f + 1)
    | .e4m3 => canonNaN f
    | .none => withSign f neg (maxBits f)
  else withSign f neg (maxBits f)

/-- `Round` of an exact real into a format of R191 or R194, with its flags (R193, R195). -/
def roundFloat (f : Fmt) (mode : Rnd) (sat neg : Bool) (m : Nat) (e : Int) : Nat × FlagSet :=
  if m == 0 then (withSign f neg 0, 0)
  else if overflows f mode neg m e then (overflowBits f mode sat neg, fOF ||| fNX)
  else
    let qmin : Int := 1 - f.bias - f.fb
    let q : Int := max (m.log2 + e - f.fb) qmin
    let ki := roundMag mode neg m e q
    let b := if q == qmin then ki.1 else (q + f.fb + f.bias).toNat * 2 ^ f.fb + ki.1 - 2 ^ f.fb
    (withSign f neg b, flagIf ki.2 fNX ||| flagIf (ki.2 && isTiny f mode neg m e) fUF)

/-- The bits of a result of arithmetic: a special value exactly, a real rounded once (R192, R193). -/
def roundNum (f : Fmt) (mode : Rnd) (x : Num) : Nat × FlagSet :=
  match x with
  | .fin neg m e => roundFloat f mode false neg m e
  | .inf neg => (withSign f neg (maxBits f + 1), 0)
  | _ => (canonNaN f, 0)

/-- A signalling NaN. -/
def isSnan (x : Num) : Bool := x == .snan
/-- A NaN of either kind. -/
def isNan (x : Num) : Bool := x == .qnan || x == .snan

/-- The signed integer of a dyadic at a common exponent. -/
def scaled (neg : Bool) (m : Nat) (e e0 : Int) : Int :=
  let v : Int := m * 2 ^ (e - e0).toNat
  if neg then -v else v

/-- The exact sum of two reals; the sign of an exact zero follows R193. -/
def addFin (mode : Rnd) (n1 : Bool) (m1 : Nat) (e1 : Int) (n2 : Bool) (m2 : Nat) (e2 : Int) : Num :=
  if m1 == 0 && m2 == 0 then .fin (if n1 == n2 then n1 else mode == .rd) 0 0
  else if m1 == 0 then .fin n2 m2 e2
  else if m2 == 0 then .fin n1 m1 e1
  else
    let e0 := min e1 e2
    let s := scaled n1 m1 e1 e0 + scaled n2 m2 e2 e0
    if s == 0 then .fin (mode == .rd) 0 0 else .fin (s < 0) s.natAbs e0

/-- a + b, with NaN and infinity by R250; the flag is NV or none. -/
def addNum (mode : Rnd) (a b : Num) : Num × FlagSet :=
  if isSnan a || isSnan b then (.qnan, fNV)
  else if isNan a || isNan b then (.qnan, 0)
  else match a, b with
  | .inf s, .inf t => if s == t then (.inf s, 0) else (.qnan, fNV)
  | .inf s, _ => (.inf s, 0)
  | _, .inf t => (.inf t, 0)
  | .fin n1 m1 e1, .fin n2 m2 e2 => (addFin mode n1 m1 e1 n2 m2 e2, 0)
  | _, _ => (.nar, 0)

/-- The negation of a value, NaNs kept. -/
def negNum : Num → Num
  | .fin n m e => .fin (!n) m e
  | .inf n => .inf (!n)
  | x => x

/-- a * b, with NaN and infinity by R250. -/
def mulNum (a b : Num) : Num × FlagSet :=
  if isSnan a || isSnan b then (.qnan, fNV)
  else match a, b with
  | .inf s, .fin t m _ => if m == 0 then (.qnan, fNV) else (.inf (s != t), 0)
  | .fin t m _, .inf s => if m == 0 then (.qnan, fNV) else (.inf (s != t), 0)
  | .inf s, .inf t => (.inf (s != t), 0)
  | .fin n1 m1 e1, .fin n2 m2 e2 => (.fin (n1 != n2) (m1 * m2) (e1 + e2), 0)
  | .nar, _ => (.nar, 0)
  | _, .nar => (.nar, 0)
  | _, _ => (.qnan, 0)

/-- a * b + c with one rounding to come (R250): 0 * ∞ is invalid even when c is a quiet NaN. -/
def fmaNum (mode : Rnd) (a b c : Num) : Num × FlagSet :=
  let p := mulNum a b
  if isSnan c then (.qnan, fNV)
  else if p.2 != 0 then p
  else addNum mode p.1 c

/-- An operation's result: the special or exact value rounded into the format, flags joined. -/
def finish (f : Fmt) (mode : Rnd) (r : Num × FlagSet) : Nat × FlagSet :=
  let b := roundNum f mode r.1
  (b.1, b.2 ||| r.2)

/-- `fadd`, `fsub`, `fmul`, `ffma` (R250). -/
def floatAdd (f : Fmt) (mode : Rnd) (a b : Nat) : Nat × FlagSet :=
  finish f mode (addNum mode (decodeFloat f a) (decodeFloat f b))
/-- `fsub` (R250). -/
def floatSub (f : Fmt) (mode : Rnd) (a b : Nat) : Nat × FlagSet :=
  finish f mode (addNum mode (decodeFloat f a) (negNum (decodeFloat f b)))
/-- `fmul` (R250). -/
def floatMul (f : Fmt) (mode : Rnd) (a b : Nat) : Nat × FlagSet :=
  finish f mode (mulNum (decodeFloat f a) (decodeFloat f b))
/-- `ffma` (R250). -/
def floatFma (f : Fmt) (mode : Rnd) (a b c : Nat) : Nat × FlagSet :=
  finish f mode (fmaNum mode (decodeFloat f a) (decodeFloat f b) (decodeFloat f c))

/-- The order of two reals: whether the first is less. -/
def ltFin (n1 : Bool) (m1 : Nat) (e1 : Int) (n2 : Bool) (m2 : Nat) (e2 : Int) : Bool :=
  let e0 := min e1 e2
  scaled n1 m1 e1 e0 < scaled n2 m2 e2 e0

/-- a < b on numbers that are no NaN; the two zeros are equal (R253). -/
def numLt (a b : Num) : Bool :=
  match a, b with
  | .inf s, .inf t => s && !t
  | .inf s, _ => s
  | _, .inf t => !t
  | .fin n1 m1 e1, .fin n2 m2 e2 => ltFin n1 m1 e1 n2 m2 e2
  | _, _ => false

/-- a = b on numbers that are no NaN. -/
def numEq (a b : Num) : Bool := !numLt a b && !numLt b a

/-- A condition on two values (R36, R253). -/
def condNum (c : Cond) (a b : Num) : Bool :=
  if isNan a || isNan b then c == .ne || c == .un
  else match c with
  | .eq => numEq a b
  | .ne => !numEq a b
  | .lt => numLt a b
  | .le => !numLt b a
  | .gt => numLt b a
  | .ge => !numLt a b
  | .un => false

/-- `fcmp` with its flag (R253). -/
def floatCmp (f : Fmt) (c : Cond) (a b : Nat) : Bool × FlagSet :=
  let x := decodeFloat f a
  let y := decodeFloat f b
  let ordered := c == .lt || c == .le || c == .gt || c == .ge
  (condNum c x y, flagIf (isSnan x || isSnan y || (ordered && (isNan x || isNan y))) fNV)

/-- The sign bit of a pattern. -/
def signBit (f : Fmt) (b : Nat) : Bool := b / fmtSign f % 2 == 1

/-- a < b for `fmin` and `fmax`, where −0 is less than +0 (R251). -/
def minLt (f : Fmt) (a b : Nat) : Bool :=
  let x := decodeFloat f a
  let y := decodeFloat f b
  numLt x y || (numEq x y && signBit f a && !signBit f b)

/-- `fmin` (`isMax` false) and `fmax` (R251). -/
def floatMinMax (f : Fmt) (isMax : Bool) (a b : Nat) : Nat × FlagSet :=
  let x := decodeFloat f a
  let y := decodeFloat f b
  let fl := flagIf (isSnan x || isSnan y) fNV
  if isNan x && isNan y then (canonNaN f, fl)
  else if isNan x then (b, fl)
  else if isNan y then (a, fl)
  else if minLt f a b then (if isMax then b else a, fl) else (if isMax then a else b, fl)

/-- `fclass` (R252). -/
def floatClass (f : Fmt) (b : Nat) : Nat :=
  let normal : Bool := b / 2 ^ f.fb % 2 ^ f.eb != 0
  match decodeFloat f b with
  | .inf true => 0x001
  | .inf false => 0x080
  | .snan => 0x100
  | .qnan => 0x200
  | .nar => 0
  | .fin neg m _ =>
    if m == 0 then (if neg then 0x008 else 0x010)
    else if normal then (if neg then 0x002 else 0x040)
    else (if neg then 0x004 else 0x020)

/-- A NaN operand of `frnd` and `xins`: the canonical NaN, NV for a signalling one. -/
def nanThrough (f : Fmt) (x : Num) : Nat × FlagSet := (canonNaN f, flagIf (isSnan x) fNV)

/-- `frnd` (R255). -/
def floatRnd (f : Fmt) (mode : Rnd) (a : Nat) : Nat × FlagSet :=
  match decodeFloat f a with
  | .fin neg m e =>
    let ki := roundMag mode neg m e 0
    ((roundFloat f .rn false neg ki.1 0).1, flagIf ki.2 fNX)
  | .inf _ => (a % 2 ^ (1 + f.eb + f.fb), 0)
  | x => nanThrough f x

/-- `xins` on FP32 (R256). -/
def floatXins (mode : Rnd) (a : Nat) (n : Int) : Nat × FlagSet :=
  match decodeFloat fmtF32 a with
  | .fin neg m e => roundFloat fmtF32 mode false neg m (e + n)
  | .inf _ => (a, 0)
  | x => nanThrough fmtF32 x

/-- `xext` on FP32 (R256): the `.i32` value ⌊log2 |a|⌋. -/
def floatXext (a : Nat) : Int × FlagSet :=
  match decodeFloat fmtF32 a with
  | .fin _ m e => if m == 0 then (-(2 ^ 31), fNV) else (m.log2 + e, 0)
  | _ => (2 ^ 31 - 1, fNV)

/-- The tapered parameters n and es (R198). -/
def tapN : Ty → Nat
  | .tap8 => 8
  | .tap16 => 16
  | _ => 32
/-- es of R198. -/
def tapEs : Ty → Nat
  | .tap8 => 1
  | .tap16 => 2
  | _ => 3

/-- The length of the run of bits equal to `bit` in `x` from bit `i - 1` downward. -/
def runLen (x : Nat) (bit : Bool) : Nat → Nat
  | 0 => 0
  | i + 1 => if x.testBit i == bit then 1 + runLen x bit i else 0

/-- `Decode` for a tapered format (R199). -/
def decodeTap (n es : Nat) (b0 : Nat) : Num :=
  let b := b0 % 2 ^ n
  if b == 0 then .fin false 0 0
  else if b == 2 ^ (n - 1) then .nar
  else
    let neg := b.testBit (n - 1)
    let b := if neg then 2 ^ n - b else b
    let x := b % 2 ^ (n - 1)
    let hi := x.testBit (n - 2)
    let k := runLen x hi (n - 1)
    let reg : Int := if hi then (k : Int) - 1 else -(k : Int)
    -- rl bits of rest below the terminating bit
    let rl := n - 1 - k - 1
    let rest := x % 2 ^ rl
    let e := if es ≤ rl then rest / 2 ^ (rl - es) else rest * 2 ^ (es - rl)
    let fl := rl - es
    let f := rest % 2 ^ fl
    .fin neg (2 ^ fl + f) (reg * (2 ^ es : Nat) + e - fl)

/-- `Round` for a tapered format: the code of a nonzero real (R201). -/
def roundTapCode (n es : Nat) (mode : Rnd) (neg : Bool) (m : Nat) (e : Int) : Nat :=
  let T : Int := m.log2 + e
  let reg : Int := max (-(n : Int)) (min (T / (2 ^ es : Nat)) n)
  let ee : Nat := (T % (2 ^ es : Nat)).toNat
  let fl := m.log2
  let f := m - 2 ^ fl
  let rv : Nat := if 0 ≤ reg then 2 ^ (reg.toNat + 2) - 2 else 1
  let rlen : Nat := if 0 ≤ reg then reg.toNat + 2 else (-reg).toNat + 1
  -- S, made at least n + 1 bits long
  let S := ((rv * 2 ^ es + ee) * 2 ^ fl + f) * 2 ^ n
  let len := rlen + es + fl + n
  let d := len - (n - 1)
  let P := S / 2 ^ d
  let rem := S % 2 ^ d
  let g : Bool := 2 ^ (d - 1) ≤ rem
  let t : Bool := rem % 2 ^ (d - 1) != 0
  let up : Bool := match mode with
    | .rn => g && (t || P % 2 == 1)
    | .rz => false
    | .ru => !neg && (g || t)
    | .rd => neg && (g || t)
  let P := if up then P + 1 else P
  let P := if P == 2 ^ (n - 1) then P - 1 else P
  let P := if P == 0 then 1 else P
  if neg then 2 ^ n - P else P

/-- Whether a decoded value equals a real. -/
def sameReal (x : Num) (neg : Bool) (m : Nat) (e : Int) : Bool :=
  match x with
  | .fin n2 m2 e2 => !ltFin n2 m2 e2 neg m e && !ltFin neg m e n2 m2 e2
  | _ => false

/-- `Round` for a tapered format with its flag (R201, R202). -/
def roundTap (t : Ty) (mode : Rnd) (x : Num) : Nat × FlagSet :=
  let n := tapN t
  match x with
  | .fin neg m e =>
    if m == 0 then (0, 0)
    else
      let c := roundTapCode n (tapEs t) mode neg m e
      (c, flagIf (!sameReal (decodeTap n (tapEs t) c) neg m e) fNX)
  | _ => (2 ^ (n - 1), 0)

/-- `tadd`, `tmul`, `tfma` (R257): NaR operands give NaR. -/
def tapAdd (t : Ty) (a b : Num) : Nat × FlagSet :=
  match a, b with
  | .fin n1 m1 e1, .fin n2 m2 e2 => roundTap t .rn (addFin .rn n1 m1 e1 n2 m2 e2)
  | _, _ => roundTap t .rn .nar
/-- `tmul` (R257). -/
def tapMul (t : Ty) (a b : Num) : Nat × FlagSet :=
  match a, b with
  | .fin n1 m1 e1, .fin n2 m2 e2 => roundTap t .rn (.fin (n1 != n2) (m1 * m2) (e1 + e2))
  | _, _ => roundTap t .rn .nar
/-- `tfma` (R257). -/
def tapFma (t : Ty) (a b c : Num) : Nat × FlagSet :=
  match a, b, c with
  | .fin n1 m1 e1, .fin n2 m2 e2, .fin n3 m3 e3 =>
    roundTap t .rn (addFin .rn (n1 != n2) (m1 * m2) (e1 + e2) n3 m3 e3)
  | _, _, _ => roundTap t .rn .nar

/-- A pattern's value as a signed integer of w bits. -/
def toSigned (w : Nat) (b : Nat) : Int :=
  let b := b % 2 ^ w
  if 2 * b < 2 ^ w then (b : Int) else (b : Int) - (2 ^ w : Nat)

/-- A value's pattern in w bits. -/
def toPattern (w : Nat) (v : Int) : Nat := (v % (2 ^ w : Nat)).toNat

/-- A condition on two integers. -/
def condInt (c : Cond) (a b : Int) : Bool :=
  match c with
  | .eq => a == b
  | .ne => a != b
  | .lt => a < b
  | .le => a ≤ b
  | .gt => b < a
  | .ge => b ≤ a
  | .un => false

/-- The integer an integer type reads from its low bits (R197). -/
def intOf (t : Ty) (b : Nat) : Int :=
  if tyIsSigned t then toSigned (tyBits t) b else ((b % 2 ^ tyBits t : Nat) : Int)

/-- The range of an integer type (R197). -/
def intMin (t : Ty) : Int := if tyIsSigned t then -(2 ^ (tyBits t - 1) : Nat) else 0
/-- The greatest value of an integer type. -/
def intMax (t : Ty) : Int := if tyIsSigned t then (2 ^ (tyBits t - 1) : Nat) - 1 else (2 ^ tyBits t : Nat) - 1

/-- Clamping to an integer type's range. -/
def clampInt (t : Ty) (v : Int) : Int := max (intMin t) (min v (intMax t))

/-- `Decode` of a numeric type (R191, R194, R197, R199). -/
def decodeNum (t : Ty) (b : Nat) : Num :=
  if tyIsInt t then let v := intOf t b; .fin (v < 0) v.natAbs 0
  else if tyIsTap t then decodeTap (tapN t) (tapEs t) b
  else decodeFloat (fmtOf t) (b % 2 ^ tyBits t)

/-- An integer result as a pattern of 32 or 64 bits: a narrow one is extended to 32 by its sign (R190). -/
def placeInt (t : Ty) (v : Int) : Nat := toPattern (max 32 (tyBits t)) v

/-- Conversion to a floating-point type (R203). -/
def cvtFloat (td : Ty) (mode : Rnd) (sat : Bool) (x : Num) : Nat × FlagSet :=
  let f := fmtOf td
  match x with
  | .fin neg m e => roundFloat f mode sat neg m e
  | .inf neg =>
    match f.sp with
    | .ieee => if sat then (withSign f neg (maxBits f), fNV) else (withSign f neg (maxBits f + 1), 0)
    | .e4m3 => if sat then (withSign f neg (maxBits f), fNV) else (canonNaN f, fNV)
    | .none => (withSign f neg (maxBits f), fNV)
  | .snan => (canonNaN f, fNV)
  | _ => (canonNaN f, flagIf (f.sp == .none) fNV)

/-- Conversion to a tapered type (R203). -/
def cvtTap (td : Ty) (mode : Rnd) (x : Num) : Nat × FlagSet :=
  match x with
  | .fin _ _ _ => roundTap td mode x
  | .inf _ | .snan => (2 ^ (tapN td - 1), fNV)
  | _ => (2 ^ (tapN td - 1), 0)

/-- Conversion of a floating-point or tapered value to an integer type (R203, R204). -/
def cvtToInt (td : Ty) (mode : Rnd) (x : Num) : Int × FlagSet :=
  match x with
  | .fin neg m e =>
    let L : Int := m.log2 + e
    if m != 0 && 70 < L then (if neg then intMin td else intMax td, fNV)
    else
      let ki := roundMag mode neg m e 0
      let v : Int := if neg then -(ki.1 : Int) else ki.1
      if v < intMin td then (intMin td, fNV)
      else if intMax td < v then (intMax td, fNV)
      else (v, flagIf ki.2 fNX)
  | .inf neg => (if neg then intMin td else intMax td, fNV)
  | _ => (0, fNV)

/-- Conversion between integer types (R204): the value modulo 2^w, or clamped under `.sat`. -/
def cvtIntInt (td : Ty) (sat : Bool) (v : Int) : Int × FlagSet :=
  if sat then (clampInt td v, flagIf (clampInt td v != v) fIOV)
  else (intOf td (toPattern (tyBits td) v), 0)

/-- A conversion from TS to TD (R203, R204, R258): the placed pattern of TD (R190) and the flags. -/
def convertNum (td ts : Ty) (mode : Rnd) (sat : Bool) (a : Nat) : Nat × FlagSet :=
  if tyIsInt td then
    if tyIsInt ts then let r := cvtIntInt td sat (intOf ts a); (placeInt td r.1, r.2)
    else let r := cvtToInt td mode (decodeNum ts a); (placeInt td r.1, r.2)
  else if tyIsTap td then cvtTap td mode (decodeNum ts a)
  else cvtFloat td mode sat (decodeNum ts a)

/-- The conversion of an element in `pkK` and `upkK` (R260): equal types move it exactly. -/
def convert (td ts : Ty) (mode : Rnd) (sat : Bool) (a : Nat) : Nat × FlagSet :=
  if td == ts then (if tyIsInt td then placeInt td (intOf ts a) else a % 2 ^ tyBits ts, 0) else convertNum td ts mode sat a

/-- The largest finite magnitude of a floating-point or tapered type. -/
def largest (t : Ty) : Num :=
  if tyIsTap t then decodeTap (tapN t) (tapEs t) (2 ^ (tapN t - 1) - 1) else decodeFloat (fmtOf t) (maxBits (fmtOf t))

/-- The magnitude of a real in units of 2^e0. -/
def magAt (x : Num) (e0 : Int) : Nat :=
  match x with
  | .fin _ m e => m * 2 ^ (e - e0).toNat
  | _ => 0

/-- The exponent of a real's unit. -/
def expOf (x : Num) : Int :=
  match x with
  | .fin _ _ e => e
  | _ => 0

/-- `cvtsr` (R259): stochastic rounding by 32 random bits. -/
def convertSr (td ts : Ty) (sat : Bool) (a r : Nat) : Nat × FlagSet :=
  let x := decodeNum ts a
  let cv := convertNum td ts .rn sat a
  match x with
  | .fin neg m e =>
    if m == 0 then cv
    else if numLt (largest td) (.fin false m e) then cv
    else
      let tap := tyIsTap td
      let n := tapN td
      let es := tapEs td
      if tap && numLt (.fin false m e) (decodeTap n es 1) then (if neg then 2 ^ n - 1 else 1, fNX)
      else
        let lo := if tap then roundTapCode n es .rz neg m e else (roundFloat (fmtOf td) .rz false neg m e).1
        let dec : Nat → Num := fun c => if tap then decodeTap n es c else decodeFloat (fmtOf td) c
        if sameReal (dec lo) neg m e then (lo, 0)
        else
          let hi := if tap && neg then lo - 1 else lo + 1
          let e0 := min e (min (expOf (dec lo)) (expOf (dec hi)))
          let xl := magAt (dec lo) e0
          let t := (m * 2 ^ (e - e0).toNat - xl) * 2 ^ 32 / (magAt (dec hi) e0 - xl)
          (if 2 ^ 32 ≤ t + r then hi else lo,
            fNX ||| flagIf (!tap && isTiny (fmtOf td) .rn neg m e) fUF)
  | _ => cv

/-- The mixing function of `rhash` (R209). -/
def rhashMix (el st : BitVec 32) (seed : Word) : BitVec 32 :=
  let h : Word := seed ^^^ 0x5A17C3E90B6D24F1
  let h := h ^^^ (el.setWidth 64 + st.setWidth 64 * 0x100000000)
  let h := h * 0xC2B56E1D39A7F48B
  let h := h ^^^ (h >>> 29)
  let h := h * 0x8F3DA15CE672094D
  let h := h ^^^ (h >>> 32)
  h.setWidth 32

end Sys2Proof.Machine
end

