-- ==== Sys2Proof/Config.lean ====
section
/-! DEFINITION. What the FX-960's spec fixes for every device but leaves open in value: the free values of the
model. Each is a constant with no body, so that no proof can see its value; a theorem about the model holds for
every choice. -/
namespace Sys2Proof.Config

/-- The value a special function gives where R254 allows several: the bit pattern offered by the unit for a
function number (0 to 5 for `fexp2`, `flog2`, `frcp`, `frsq`, `fsin`, `fcos`) and an operand. Used only where it
meets the bound of R254 (log 20). -/
opaque specialFn : Nat → BitVec 32 → BitVec 32

/-- Fresh free words, indexed by a plain counter of the state that each use advances (log 6). -/
opaque freeWord : Nat → BitVec 64

/-- Fresh free bits, indexed by the same counter (log 6). -/
opaque freeBit : Nat → Bool

/-- The header of 16 bytes of a peer's message, as its two words (R392): the rules do not lay it out. A function of the
number of the word, of what the message asks for and of its address (log 62). -/
opaque peerHeader : Nat → Nat → Nat → BitVec 64

/-- Fresh free numbers, indexed by the same counter (log 6). -/
opaque freeNat : Nat → Nat

end Sys2Proof.Config
end

