-- ==== Sys2Proof/Machine/Table.lean ====
section
/-! DEFINITION. Sparse tables: lists of (key, value) pairs in one canonical form, keys strictly rising and no entry
equal to the default that an unlisted key reads as. Memory, tags and the register files are such tables. -/
namespace Sys2Proof.Machine

/-- The value at a key: the default where the key is not listed. -/
def tget {α : Type} (d : α) : List (Nat × α) → Nat → α
  | [], _ => d
  | (k, v) :: t, n => if k = n then v else tget d t n

/-- The table without a key. -/
def terase {α : Type} : List (Nat × α) → Nat → List (Nat × α)
  | [], _ => []
  | (k, v) :: t, n => if k = n then terase t n else (k, v) :: terase t n

/-- The table with an entry put before the first greater key. -/
def tinsert {α : Type} : List (Nat × α) → Nat → α → List (Nat × α)
  | [], n, x => [(n, x)]
  | (k, v) :: t, n, x => if n < k then (n, x) :: (k, v) :: t else (k, v) :: tinsert t n x

/-- The table with a key set to a value: setting the default removes the entry. -/
def tset {α : Type} [DecidableEq α] (d : α) (t : List (Nat × α)) (n : Nat) (x : α) : List (Nat × α) :=
  if x = d then terase t n else tinsert (terase t n) n x

/-- The table with the keys from `n` on set to the listed values. -/
def tsetList {α : Type} [DecidableEq α] (d : α) : List (Nat × α) → Nat → List α → List (Nat × α)
  | t, _, [] => t
  | t, n, x :: xs => tsetList d (tset d t n x) (n + 1) xs

/-- Every key of the table is above a bound. -/
def tabove {α : Type} (b : Nat) : List (Nat × α) → Bool
  | [] => true
  | (k, _) :: t => b < k && tabove b t

/-- The canonical form: keys strictly rising, no default listed. -/
def twf {α : Type} [DecidableEq α] (d : α) : List (Nat × α) → Bool
  | [] => true
  | (k, v) :: t => v ≠ d && tabove k t && twf d t

/-- The canonical form of a memory: addresses rising, no byte listed that an unlisted address reads as, which is zero
(log 3, log 4). -/
def Memory.wf (m : List (Nat × BitVec 8)) : Bool := twf 0 m

/-- The table without the keys in [lo, hi). -/
def tclear {α : Type} (t : List (Nat × α)) (lo hi : Nat) : List (Nat × α) :=
  t.filter (fun e => !(lo ≤ e.1 && e.1 < hi))

end Sys2Proof.Machine
end

