-- ==== Sys2Proof/Machine/State.lean ====
section
/-! DEFINITION. The state of the FX-960, as plain data: the groups with their registers, trap registers, fences,
crews and waits; the local memories of the cores; the shared memory with its homes, copies and tables; the Cox, the
marshal, the connection groups and the module. Rules are cited where a field is declared. -/
namespace Sys2Proof.Machine

/-- Why the machine stops. -/
inductive Fault where
  /-- Raised by the step when a fatal error has stopped every die (R428) and nothing the outside world does is
  scheduled. Safe: the device does nothing further either. -/
  | issueStopped
  deriving DecidableEq, Repr

/-- Why the model gives no meaning. -/
inductive Refusal where
  /-- An instruction without a meaning yet, by its mnemonic. Raised by exec's arms only. Safe: nothing is proved
  about it. -/
  | notModelled (mnemonic : String)
  deriving DecidableEq, Repr

/-- An entry of the reconvergence stack (R226): JOIN or PATH, an address and a mask. -/
structure StackEntry where
  isJoin : Bool
  addr : VAddr
  mask : Mask
  deriving DecidableEq, Repr

/-- The registers that a group's instructions read and write and that a rollback restores (R132, R269). -/
structure Arch where
  /-- program counter -/
  pc : VAddr
  /-- execution mask `em` (R225) -/
  em : Mask
  /-- live lanes (R225, R227) -/
  live : Mask
  /-- LOG of `lpart` (R227) -/
  lpart : BitVec 3
  /-- reconvergence stack, top first (R226) -/
  stack : List StackEntry
  /-- scalar registers by number (R77) -/
  sregs : List (Nat × Word)
  /-- vector registers: register n, lane l at 32 n + l (R75) -/
  vregs : List (Nat × LaneWord)
  /-- predicates p0 to p6 as lane masks (R77) -/
  preds : List (Nat × Mask)
  /-- `ffl`: flag f (bit f of R236) as a lane mask -/
  ffl : List (Nat × Mask)
  deriving DecidableEq, Repr

/-- What trap entry saves (R349): `em`, `lpart`, s56 to s63 and the depth of the reconvergence stack. -/
structure Shadow where
  em : Mask
  lpart : BitVec 3
  sregs : List Word
  depth : Nat
  deriving DecidableEq, Repr

/-- A role entry of the kernel header (R229, R230): allotment / 16 (0: not declared), class and entry offset. -/
structure RoleEntry where
  allot : Nat
  cls : BitVec 2
  off : BitVec 32
  deriving DecidableEq, Repr

/-- The values of the index and count registers (R221), constant for the life of a group. -/
structure Indices where
  group : Nat
  team : Nat
  cluster : Nat
  span : Nat
  grid : Nat
  ngroup : Nat
  nteam : Nat
  ncluster : Nat
  nspan : Nat
  deriving DecidableEq, Repr

/-- The causes of R348. -/
inductive Cause where
  | illegal | translation | allocation | alignment | tagSpace | fifoAccess | fifoConfig | bankInUse
  | registerRange | reconvergence | roleState | lanePartition | arithmetic | illegalScope | objectValue
  | monitorSpace | descriptor | blockSpace | blockAlignment | crewState | crewConfig | queueState
  | streamMismatch | matrixState | matrixConfig | softwareTrap | breakpoint | trapState | specialRegister
  | privilege | enqueueTarget | poison
  deriving DecidableEq, Repr

/-- A trap as its entry raises it (R349): cause, sub-cause, `tlm`, `taddr`, `tepc`. -/
structure TrapInfo where
  cause : Cause
  sub : BitVec 16
  lm : Mask
  addr : Word
  epc : VAddr
  deriving DecidableEq, Repr

/-- A queue table entry (R294), field by field. -/
structure QueueEntry where
  valid : Bool
  base : Nat
  depth : Nat
  tail : Nat
  head : Nat
  home : Nat
  full : Nat
  pend : Nat
  tok : BitVec 16
  deriving DecidableEq, Repr

/-- A reserved slot whose item is not yet visible (R295), in reservation order: the strokes left until it lands (0: it has
landed), and its value unless it is a token. -/
structure CrewItem where
  q : Nat
  slot : Nat
  lands : Nat
  isTok : Bool
  val : LaneWord
  deriving DecidableEq, Repr

/-- A seat (R297, R302): its word, the address it was read from, the stream registers, the next element, and whether
it has finished. -/
structure Seat where
  word : BitVec 128
  addr : Word
  base : Word
  count : Word
  k : Nat
  fin : Bool
  deriving DecidableEq, Repr

/-- The park slot (R77, R292). -/
structure Park where
  pc : VAddr
  em : Mask
  lpart : BitVec 3
  preds : List (Nat × Mask)
  stack : List StackEntry
  deriving DecidableEq, Repr

/-- A running crew (R291, R293, R301): its 32 seats, the items in flight, whether it is stopped at a stroke by a trap, and
whether its first control instruction has not issued yet, which does in stroke 0 (R316). The crew predicates stand in
`Arch.preds` while the SIMT predicates are parked. -/
structure Crew where
  seats : List Seat
  infl : List CrewItem
  stopped : Bool
  fresh : Bool
  deriving DecidableEq, Repr

/-- Where a checked address leads (R57, R58): device memory with its tracked attribute, a peer device's memory, host
memory, scratchpad bytes of a core, a FIFO bank of the own core, or a cluster core without a team. -/
inductive Loc where
  | dev (pa : Nat) (tracked : Bool)
  | peer (device pa : Nat)
  | host (pa : Nat)
  | smem (core off : Nat)
  | fifo (bank : Nat)
  /-- a cluster core on which no team of the launch stands (R224) -/
  | absent
  deriving DecidableEq, Repr

/-- What a posted operation does at its target (R156, R173, R218). -/
inductive PostedOp where
  /-- a store of consecutive bytes -/
  | write (bytes : List Byte)
  /-- a store of an aligned access some bytes of which a higher lane writes (R137, R139): those are none -/
  | part (bytes : List (Option Byte))
  /-- the one read-modify-write of a `red` at one address -/
  | red (op : RedOp) (ty : Ty) (v : Word)
  /-- a block accumulation into the record at the location: destination format, source format, source scale and
  the 32 source elements (R213) -/
  | bacc (fd fs : Ty) (scale : Byte) (elems : List Byte)
  deriving DecidableEq, Repr

/-- A posted operation that has not been performed at its target. The home is the one computed when it issued
(R113): a cell, or none where no region holds the address (R96). With it stand the order of its instruction, the number
of group-scope fences before it (R130), and whether it is a `red` whose contribution the reduction unit holds (R416, R417). -/
structure Posted where
  op : PostedOp
  loc : Loc
  rt : ReqTy
  cell : Option Nat
  ver : BitVec 2
  lanes : Mask
  addr : VAddr
  instr : Nat
  epoch : Nat
  merged : Bool
  deriving DecidableEq, Repr

/-- An incomplete fence (R130 to R134): its kind and scope, the registers and the queue table when it issued, the stores
held after it, the lines that speculative loads have read, the rollbacks on it, and the groups whose write to such a line
came without a notice (R128; log 72). -/
structure FenceRec where
  kind : FenceKind
  scope : Scope
  addr : VAddr
  snap : Arch
  qsnap : List QueueEntry
  held : List (List Posted)
  lines : List Nat
  rolls : Nat
  missed : List Nat
  deriving DecidableEq, Repr

/-- A monitor (R179): address, physical line, snapshot, and whether it has triggered. -/
structure Monitor where
  addr : VAddr
  line : Nat
  snapshot : Word
  triggered : Bool
  deriving DecidableEq, Repr

/-- What a group waits for. The waiting instruction stands at the pc. -/
inductive Wait where
  /-- `ldt`, `stt` (R85): the awaited tag and the words; the order of waits is by `since` (R86) -/
  | tag (want : Bool) (words : List Nat)
  /-- a FIFO access (R89): a push or a pop, the first bank that cannot be served, the items it needs there -/
  | fifo (push : Bool) (bank need : Nat)
  /-- `bobj.wait` (R178): the object's scratchpad byte and the awaited phase -/
  | object (key : Nat) (ph : Bool)
  /-- `mwait` (R180) -/
  | mwait
  /-- arrived at a barrier (R176) -/
  | bar (lvl : BarLevel)
  /-- `qwait` and the other queue waits (R312): the handle, whether it waits for free slots, how many -/
  | queue (q : Nat) (free : Bool) (n : Nat)
  /-- a copy beyond the sixteenth, or a full matrix command (R185) -/
  | engine
  /-- `mxdisarm` behind a firing of its slot, by the time at which that started (R337) -/
  | disarm (started : Nat)
  /-- `bar` whose first fence is not complete: the group has not arrived (R175, R353) -/
  | arrive
  /-- `mxspill` behind an earlier conflicting operation (R332, R341): the first scratchpad word it writes -/
  | spill (word : Nat)
  /-- `gen.bump` of an ASID, to a generation (R283) -/
  | bump (asid gen : BitVec 16)
  /-- `fence.table` (R284) behind an earlier commit, and in its own -/
  | table
  | commit
  /-- `bmode` on a bank (R165) -/
  | bank (n : Nat)
  /-- an access to a bank whose mode switch is in progress (R80) -/
  | held (n : Nat)
  /-- `sfree` of the extent at an offset (R167) -/
  | free (base : Nat)
  /-- an instruction that waits for the incomplete fence, or for room in the store buffer (R131) -/
  | fence
  /-- `crew.leave`, until the crew has drained (R309) -/
  | drain
  /-- `cwb`, `cinv`, `cflush` or a fence that waits for posted writes -/
  | posted
  deriving DecidableEq, Repr

/-- One lane of an atomic that has passed its checks (R170). -/
structure AtomLane where
  lane : Nat
  loc : Loc
  addr : VAddr
  v : Word
  e : Word
  deriving DecidableEq, Repr

/-- The repechage passes still to be made of an atomic (R170). -/
structure Passes where
  op : AtomOp
  ty : Ty
  d : VReg
  left : List AtomLane
  /-- an earlier pass has met poison, which waits as the group's deferred trap (R362) -/
  bad : Bool
  deriving DecidableEq, Repr

/-- Where a pre-emption request stands at a group (R353, R354). -/
inductive Request where
  | none
  /-- to be taken at the next pre-emption point -/
  | pending
  /-- held under masked traps -/
  | held
  /-- taken: the group has stopped -/
  | stopped
  deriving DecidableEq, Repr

/-- A resident group. -/
structure Group where
  /-- false: no group stands here (the model's own placeholder, log 2) -/
  placed : Bool
  gid : Nat
  /-- the guard of the instruction being executed (R26) -/
  guard : Guard
  /-- core number: 96 die + 12 row + column -/
  core : Nat
  pipe : Nat
  /-- team slot (R79) -/
  slot : Nat
  /-- the launch it belongs to -/
  launch : Nat
  idx : Indices
  asid : BitVec 16
  part : BitVec 3
  priv : Bool
  coresident : Bool
  /-- order of placement (R232) -/
  seq : Nat
  entry : VAddr
  roles : List RoleEntry
  role : Nat
  /-- priority class (R229) -/
  cls : BitVec 2
  /-- registers of the current allotment -/
  allot : Nat
  /-- reserved register blocks: first and count (R76) -/
  blk : Nat
  nblk : Nat
  arch : Arch
  /-- `ften`: enable f as a lane mask (R236) -/
  ften : List (Nat × Mask)
  tvec : Word
  tcause : Word
  tlm : Mask
  taddr : Word
  tepc : Word
  shadow : Shadow
  /-- R132 -/
  rbk : BitVec 32
  /-- R357 -/
  pidx : BitVec 32
  mon : Option Monitor
  wait : Option Wait
  /-- when the wait began, for the order of R86 -/
  since : Nat
  fence : Option FenceRec
  /-- group-scope fences so far (R130) -/
  epoch : Nat
  posted : List Posted
  /-- a trap that waits for the fence (R134), or a deferred poison trap (R362) -/
  pend : Option TrapInfo
  passes : Option Passes
  request : Request
  /-- the groups it gave up the pipe to, which have not issued since (R278) -/
  yielding : List Nat
  /-- ready and unissued for 4,096 cycles (R232) -/
  starved : Bool
  /-- its next instruction cannot issue at once, for a latency of R238 (the model's own: a free choice, log 6) -/
  late : Bool
  /-- where its present instruction has arrived (R226) and has not completed, so that its restart is no second arrival (the
  model's own; log 84) -/
  came : Option VAddr
  crew : Option Crew
  park : Option Park
  /-- queue table: 16 entries (R294) -/
  queues : List QueueEntry
  deriving DecidableEq, Repr

/-- A FIFO bank's contents (R88 to R91). An item is a word or an end-of-stream token (none). -/
structure Fifo where
  cfg : BitVec 32
  items : List (Option LaneWord)
  /-- credits held by a producer end -/
  cred : Nat
  /-- the link was broken -/
  brk : Bool
  /-- the link is active -/
  lnk : Bool
  /-- items in transit to this end, in push order -/
  inItems : List (Option LaneWord)
  /-- credit messages in transit to this end -/
  inCred : List Nat
  /-- pops whose credit has not been returned (R90) -/
  owed : Nat
  /-- the other end has left; the link breaks when all that is in transit has arrived (R91) -/
  left : Bool
  /-- where the peer bank's core is, if a restored link has moved it from where `cfg` names it (R356) -/
  moved : Option Nat
  deriving DecidableEq, Repr

/-- A local SRAM bank (R78, R80). -/
structure Bank where
  mode : BankMode
  /-- the mode a switch in progress goes to, and the group that asked -/
  next : Option (BankMode × Nat)
  /-- owning team slot in FIFO mode -/
  owner : Nat
  fifo : Fifo
  deriving DecidableEq, Repr

/-- A scratchpad extent (R82): number 0 to 3, base and size in bytes. -/
structure Extent where
  num : Nat
  base : Nat
  size : Nat
  deriving DecidableEq, Repr

/-- A team on a core (R79, R223): its context, its launch, its place in the launch, the cores of its cluster, its
extents. -/
structure Team where
  core : Nat
  slot : Nat
  asid : BitVec 16
  part : BitVec 3
  launch : Nat
  span : Nat
  cluster : Nat
  pos : Nat
  nteam : Nat
  exts : List Extent
  deriving DecidableEq, Repr

/-- A word of a core's event queue with the team it belongs to (R92), and the engine that appends it: copy engine e is
e + 1, the matrix engine of core c is 1000 + c, and 0 is the marshal. -/
structure EvWord where
  core : Nat
  slot : Nat
  eng : Nat
  word : Word
  deriving DecidableEq, Repr

/-- How a client holds a line (R97, R102, R124): a recorded read copy, a held copy, an unrecorded copy. -/
inductive CopyKind where
  | shared | held | unrecorded
  deriving DecidableEq, Repr

/-- A client's copy of a line, and with it what the home's directory entry records (R98, R100): clients 0 to 383 are
the cores, 384 is the host port. The list of copies is in order of last use, latest first (R81). A `monitor` record
without data is a copy with no valid byte. -/
structure Copy where
  client : Nat
  /-- physical line: home cell / 128 -/
  line : Nat
  /-- physical address of the line -/
  pa : Nat
  kind : CopyKind
  r : LineMask
  w : LineMask
  dirty : BitVec 32
  data : LineData
  /-- owner tag of the context whose store last made the line dirty here (R360) -/
  owner : BitVec 18
  stale : Bool
  /-- the SRAM bank, a way of the L1, that holds it (R81) -/
  way : Nat
  deriving DecidableEq, Repr

/-- A TLB entry (R65): ASID, generation, first address and size of the page, and the leaf. -/
structure TlbEntry where
  asid : BitVec 16
  gen : BitVec 16
  base : Nat
  size : Nat
  leaf : BitVec 64
  deriving DecidableEq, Repr

/-- What the L2 knows of a line (R93, R112, R360): way, valid and dirty sectors, owner tag, suspect mark. The data
stand in `State.mem`, which holds the home's latest value of every cell. -/
structure L2Line where
  line : Nat
  way : Nat
  valid : BitVec 4
  dirty : BitVec 4
  owner : BitVec 18
  suspect : Bool
  deriving DecidableEq, Repr

/-- An uncorrectable error in a sector that no read has found (R362, R419): home cell / 32, the physical address of the
line, whether the owner tag is lost too, and whether it stands in HBM, not in the L2. -/
structure LatentError where
  sector : Nat
  pa : Nat
  otu : Bool
  hbm : Bool
  deriving DecidableEq, Repr

/-- An uncorrectable error that a read has found (R361): with it the way of the line, whether the sector was dirty, and
the owner tag. -/
structure FoundError where
  sector : Nat
  pa : Nat
  way : Nat
  dirty : Bool
  owner : BitVec 18
  otu : Bool
  hbm : Bool
  deriving DecidableEq, Repr

/-- A die's fault record (R73). -/
structure FaultRec where
  die : Nat
  asid : BitVec 16
  page : Nat
  kind : Nat
  count : Nat
  deriving DecidableEq, Repr

/-- A dimension of a tensor descriptor (R182): extent and signed strides. -/
structure Dim where
  ext : Nat
  sstr : Int
  dstr : Int
  deriving DecidableEq, Repr

/-- Where a copy stands (R184 to R189). -/
inductive CopySt where
  /-- issued, not started -/
  | queued
  /-- waits for the consumed event of the region at its trigger base (R186) -/
  | armed
  | running
  /-- stopped with its team switched out (R355) -/
  | stopped
  deriving DecidableEq, Repr

/-- A copy command (R182 to R187): its team, its context, its descriptor, the 256-byte blocks already written and
counted, and the order of issue for the scoreboard (R332). -/
structure CopyOp where
  core : Nat
  slot : Nat
  ident : Nat
  asid : BitVec 16
  part : BitVec 3
  desc : VAddr
  src : VAddr
  dst : VAddr
  srt : ReqTy
  drt : ReqTy
  esize : Nat
  dims : List Dim
  obj : VAddr
  ev : Bool
  trigger : Option VAddr
  st : CopySt
  blocks : List VAddr
  bytes : Nat
  issued : Nat
  /-- the copy engine of the die that runs it, once it has started (R387) -/
  engine : Option Nat
  /-- destination words of blocks not yet complete that are already written (R137, R138) -/
  early : List VAddr
  deriving DecidableEq, Repr

/-- A matrix operation (R336). -/
structure MxOp where
  mx : Bool
  ty : Ty
  m : Nat
  n : Nat
  k : Nat
  obj : VAddr
  deriving DecidableEq, Repr

/-- A queued `sacc` (R338): the addresses of its scale bytes, its place in the order of commands, the configuration and the
operation of its slot when it issued, whether it has started, and the elements (32 i + j) that it has written (R138). -/
structure MxCmd where
  sa : VAddr
  sb : VAddr
  issued : Nat
  cfg : List Word
  op : MxOp
  running : Bool
  early : List Nat
  deriving DecidableEq, Repr

/-- The states of a matrix slot (R321). -/
inductive SlotSt where
  | free | set | loaded | armed | firing | suspended
  deriving DecidableEq, Repr

/-- A matrix slot (R320): owner, configuration block, operation, progress index, bank, pending disarm, what it has
fired on and consumed since the last consumed events of A and B (R324, R325), flag tile (R339), accumulator image
(element 32 i + j; R341), queued `sacc` commands, and the elements of D that the present firing has written (R138). -/
structure Slot where
  core : Nat
  num : Nat
  st : SlotSt
  team : Nat
  cfg : List Word
  cfgAddr : Word
  op : Option MxOp
  prog : Nat
  bank : Option Nat
  disarm : Bool
  firedA : Bool
  firedB : Bool
  consA : Bool
  consB : Bool
  /-- when the conditions of R324 began to hold, and when the firing started -/
  ready : Nat
  started : Nat
  rows : BitVec 32
  flags : BitVec 5
  acc : List (Nat × LaneWord)
  cmds : List MxCmd
  early : List Nat
  deriving DecidableEq, Repr

/-- An entry of a queue's pipeline table (R377). -/
structure PipeEntry where
  pipe : Nat
  grid : Nat
  span : Nat
  cluster : Nat
  team : Nat
  group : Nat
  nseat : Nat
  deriving DecidableEq, Repr

/-- A stream of a BIND packet (R378), whether it has been taken, and by which group (R379). -/
structure Stream where
  base : VAddr
  count : Nat
  seat : Nat
  pipe : Nat
  sink : Bool
  taken : Option Nat
  /-- ASID and partition of that group's context (R380) -/
  taker : Option (BitVec 16 × Nat)
  /-- a sink stream's seat has popped its token -/
  done : Bool
  bytes : Nat
  deriving DecidableEq, Repr

/-- A packet that its thread has taken and CPL has not passed: sequence, units, INT, its status code once given. -/
structure Pkt where
  seq : Nat
  units : Nat
  int : Bool
  status : Option Nat
  /-- streams of a BIND -/
  streams : List Stream
  /-- the status word has been written in the ring (R371) -/
  written : Bool
  /-- a SIGNAL that has not acted: OP, ADDR, VALUE (R374) -/
  signal : Option (Nat × Word × Nat)
  deriving DecidableEq, Repr

/-- A queue and its Cox thread (R364 to R374). STATE: 0 disabled, 1 running, 2 blocked on WAIT, 3 stopped. -/
structure Queue where
  host : Bool
  base : Nat
  asid : BitVec 16
  admin : Bool
  devenq : Bool
  en : Bool
  part : Nat
  size : Nat
  submit : Nat
  cpl : Nat
  /-- the first sequence not yet read -/
  next : Nat
  fseq : Nat
  fault : Nat
  state : Nat
  /-- the SUBMIT writes kept while the queue is stopped, oldest first (R366) -/
  kept : List Nat
  /-- the WAIT that blocks the thread: ADDR, VALUE, COND (R373) -/
  waits : Option (Word × Word × Nat)
  /-- the value that the WAIT last read at ADDR (R401) -/
  seen : Word
  /-- a PART packet has been refused, and the thread blocks (R372) -/
  refused : Bool
  pkts : List Pkt
  pipes : List PipeEntry
  deriving DecidableEq, Repr

/-- Where a span of a launch stands. -/
inductive SpanSt where
  /-- handed to its die's marshal -/
  | waiting
  | placed
  /-- saved and awaiting restore (R356, R383) -/
  | saved
  /-- parked by rung 1 (R391) -/
  | parked
  | done
  deriving DecidableEq, Repr

/-- A span (R220), its die, and its candidate's age and reservation (R385). -/
structure Span where
  num : Nat
  die : Nat
  st : SpanSt
  age : Nat
  resv : List Nat
  /-- a pre-emption that is to park (rung 1) -/
  toPark : Bool
  deriving DecidableEq, Repr

/-- A launch (R375, R381): the packet it came from, its fields, its spans. -/
structure Launch where
  id : Nat
  queue : Nat
  seq : Nat
  entry : VAddr
  data : VAddr
  tvec : VAddr
  save : VAddr
  groups : Nat
  w : Nat
  h : Nat
  clusters : Nat
  smem : Nat
  regs : Nat
  pclass : Nat
  cor : Bool
  priv : Bool
  asid : BitVec 16
  grid : Nat
  part : Nat
  /-- T and LEAD of a TIMED packet (R381) -/
  timed : Option (Nat × Nat)
  /-- still in the stakeboat -/
  held : Bool
  /-- its groups may issue (R382) -/
  started : Bool
  late : Option Nat
  /-- a queue reset has passed its status word (R391) -/
  orphan : Bool
  spans : List Span
  deriving DecidableEq, Repr

/-- A saved gang (R355 to R359): the groups, teams and everything their team records hold. -/
structure Saved where
  launch : Nat
  span : Nat
  groups : List Group
  teams : List Team
  smem : List (Nat × Byte)
  tags : List (Nat × Bool)
  banks : List (Nat × Bank)
  copies : List CopyOp
  slots : List Slot
  evq : List EvWord
  deriving DecidableEq, Repr

/-- A packet accepted by a die's enqueue buffer (R286, R287). -/
structure EnqPkt where
  die : Nat
  queue : Nat
  words : List Word
  deriving DecidableEq, Repr

/-- A hard partition's controls and rings (R388 to R393). -/
structure Part where
  elBase : Nat
  rpBase : Nat
  recBase : Nat
  recSize : Nat
  elSeq : Nat
  rpSeq : Nat
  recPos : Nat
  grace : Nat
  agemax : Nat
  uexp : Nat
  record : Bool
  replay : Bool
  replayPos : Nat
  /-- the place in the ring from which the next recorded peer message is looked for (R393) -/
  replayMsg : Nat
  /-- likewise of the next recorded interrupt, and the interrupts whose cause has come and whose turn has not (R393) -/
  replayInt : Nat
  heldInts : List Nat
  watchdog : Nat
  /-- the waiters that the umpire watches, each as what tells it from another, with the time since which it has not changed,
  and the set last reported, none once one of it has changed (R390) -/
  still : List (List Nat × Nat)
  reported : List (List Nat)
  deriving DecidableEq, Repr

/-- A connection-table entry (R409). STATE: 0 DOWN, 1 SETUP, 2 UP, 3 DRAIN, 4 FAULT. -/
structure Conn where
  peer : Nat
  pport : Nat
  part : Nat
  errth : Nat
  errcnt : Nat
  lanes : Nat
  req : Bool
  state : Nat
  deriving DecidableEq, Repr

/-- An open entry of the reduction unit (R416): address, op, type, accumulated value, contributions held, the partition
of the first contributor (R430), the cores that have contributed (R97), whether a peer has, the home computed for the
contributions and its version (R113), and whether a contribution came through a tracked mapping (R109). -/
structure RedEntry where
  pa : Nat
  cell : Option Nat
  op : RedOp
  ty : Ty
  acc : Nat
  count : Nat
  part : Nat
  cores : List Nat
  peer : Bool
  ver : BitVec 2
  tracked : Bool
  deriving DecidableEq, Repr

/-- What the Cox does in order and has still to do. -/
inductive HeldWrite where
  /-- a byte of device memory, with its owner tag, whose line waits for the host port's acknowledgement, or which a pending
  commit holds (R102, R113) -/
  | byte (pa : Nat) (b : Byte) (owner : BitVec 18)
  /-- a byte of a ring in host memory -/
  | host (pa : Nat) (b : Byte)
  /-- a release at system scope: what follows waits until the host port has acknowledged everything (R107) -/
  | release
  /-- the status word of a packet is written: CPL may pass it (R371) -/
  | status (queue seq : Nat)
  /-- CPL comes to a sequence, at the reset of a queue (R391) -/
  | cpl (queue upto : Nat)
  /-- an interrupt for a partition that follows the write it announces (R418) -/
  | interrupt (part v : Nat)
  deriving DecidableEq, Repr

/-- The sideband status (R426, R428). -/
inductive Boot where
  | off | boot | badblob | ready | dumped
  deriving DecidableEq, Repr

/-- The machine. -/
structure State where
  /-- the group that issues -/
  cur : Group
  /-- the other resident groups, by gid -/
  groups : List Group
  /-- the steps of the device and the outside world that fall before the next instruction (log 1) -/
  sched : List Instr
  /-- counter of the free values used (log 6) -/
  free : Nat
  /-- counter that orders waits and placements -/
  tick : Nat
  /-- device memory by home cell: (64 die + slice) * 2^31 + channel offset (R94, R96) -/
  mem : List (Nat × Byte)
  hostMem : List (Nat × Byte)
  /-- peer memory: device * 2^52 + physical address -/
  peerMem : List (Nat × Byte)
  /-- scratchpad data: core * 0x180000 + offset (R58) -/
  smem : List (Nat × Byte)
  /-- full/empty tags: core * 0x60000 + word; true is FULL (R84) -/
  tags : List (Nat × Bool)
  /-- SRAM banks: 48 core + bank (R78) -/
  banks : List (Nat × Bank)
  teams : List Team
  evq : List EvWord
  copies : List Copy
  /-- first-level TLBs by core and second-level TLBs by die, entries with their owner (R65) -/
  tlb1 : List (Nat × TlbEntry)
  tlb2 : List (Nat × TlbEntry)
  /-- active and shadow region table (R95), version and pending commit (R113) -/
  regions : List (BitVec 128)
  shadowRegions : List (BitVec 128)
  ver : BitVec 2
  commitPend : Bool
  /-- GO of the table-commit register (R406): 0, 1 asked for and waiting, 2 running -/
  commitGo : Nat
  /-- further commits asked for by writes of GO while it read 1 -/
  goMore : Nat
  /-- copies of the host whose invalidation or recall the host port has not acknowledged (R105): the host's caches still
  hold them (R108) -/
  hostAcks : List Copy
  /-- writes of the device itself that wait for such a line or for a commit, and what follows them, oldest first (R102, R113) -/
  heldWrites : List HeldWrite
  /-- current generation by ASID (R67) -/
  gens : List (Nat × BitVec 16)
  /-- generation bumps of the Cox that have not completed (R68): ASID, new generation, and when they began -/
  coxBumps : List (BitVec 16 × BitVec 16 × Nat)
  /-- ASID-table base register (R406) -/
  asidBase : Word
  /-- cached ASID-table entries by die: ASID, generation, root (R70) -/
  asidCache : List (Nat × TlbEntry)
  l2 : List L2Line
  /-- quarantined ways: 16 (64 die + slice) + way (R361) -/
  quarantine : List Nat
  /-- poisoned sectors by home cell / 32 (R361) -/
  poison : List Nat
  /-- uncorrectable errors that no read has found yet, and those found whose recovery has not begun (R361, R419) -/
  latent : List LatentError
  found : List FoundError
  /-- correctable errors counted (R360) -/
  corrected : Nat
  /-- retired 64 KiB pages by physical address / 65536 (R361) -/
  retired : List Nat
  faults : List FaultRec
  /-- fault records dropped, by die (R73) -/
  faultDrops : List (Nat × Nat)
  /-- MCBASE, MCWPTR, MCCONS, the next SEQ and the overflow counter (R363, R406) -/
  mcBase : Nat
  mcWptr : Nat
  mcCons : Nat
  mcSeq : Nat
  mcDrops : Nat
  /-- interrupts raised to the host, oldest first (R418) -/
  interrupts : List Nat
  /-- the device clock in nanoseconds, as last read, and whether it is locked (R285) -/
  clock : Nat
  clockLock : Bool
  /-- instruction words that a core's instruction cache holds: (65536 core + ASID) * 2^57 + address (R25) -/
  icache : List (Nat × BitVec 32)
  /-- copies that have not completed, oldest first (R185) -/
  copyOps : List CopyOp
  /-- matrix slots that are not FREE (R320) -/
  slots : List Slot
  /-- the 32 queues -/
  queues : List Queue
  launches : List Launch
  saves : List Saved
  /-- the candidates that the last placement round of their die left: die and launch; and the dies on which a team has
  retired or a reservation has been released since their last round (R385) -/
  known : List (Nat × Nat)
  roundDue : List Nat
  /-- completions whose status word waits for the host port: queue, sequence, code (R107, R371) -/
  dueStatus : List (Nat × Nat × Nat)
  enqBuf : List EnqPkt
  /-- the eight hard partitions -/
  parts : List Part
  /-- owners of cores, slices (64 die + slice) and copy engines; partition 0 unless listed (R387) -/
  coreOwner : List (Nat × Nat)
  sliceOwner : List (Nat × Nat)
  engineOwner : List (Nat × Nat)
  /-- contexts whose STEP is set: ASID + 65536 * partition (R282) -/
  stepped : List Nat
  /-- DEVNO (R414) and the RATIO of each die (R407) -/
  devno : Nat
  ratios : List Nat
  conns : List Conn
  /-- peers whose want of a group has been recorded since the set last changed (R413) -/
  noRoute : List Nat
  /-- reduction windows (R415) and open entries, oldest first (R416) -/
  windows : List (BitVec 128)
  redUnit : List RedEntry
  /-- Cox SRAM: the words of the firmware image that the host has written, by offset (R426) -/
  coxSram : List (Nat × Word)
  /-- a fatal error has stopped the device, which waits for rung 4 or 5 (R428, R429) -/
  halted : Bool
  /-- sideband status, junction temperatures in tenths of a degree, dump region, cause and count of fatal errors
  (R425 to R429) -/
  boot : Boot
  temps : List Nat
  dumpBase : Nat
  dumpSize : Nat
  fatals : Nat
  /-- times at which the board-management controller logged an input-voltage event (R424) -/
  bmcLog : List Nat
  /-- the words that the last read by the host returned, lowest address first (the model's own: what the host is told) -/
  hostRead : List Word
  /-- what the last request of a peer was answered, and the fault records that the Cox has read last (likewise) -/
  peerRead : List Word
  faultsRead : List FaultRec
  /-- count of group identities given out -/
  gids : Nat
  deriving DecidableEq, Repr

/-- A fence, a wait or a crew of no group: the registers of a group that is not placed (log 2). -/
def emptyArch : Arch := ⟨0, 0, 0, 0, [], [], [], [], []⟩

/-- What stands in `cur` while no group does (log 2). -/
def noGroup : Group :=
  { placed := false, gid := 0, guard := ⟨false, 7⟩, core := 0, pipe := 0, slot := 0, launch := 0, idx := ⟨0, 0, 0, 0, 0, 0, 0, 0, 0⟩,
    asid := 0, part := 0, priv := false, coresident := false, seq := 0, entry := 0, roles := [], role := 0, cls := 0, allot := 0,
    blk := 0, nblk := 0, arch := emptyArch, ften := [], tvec := 0, tcause := 0, tlm := 0, taddr := 0, tepc := 0,
    shadow := ⟨0, 0, [0, 0, 0, 0, 0, 0, 0, 0], 0⟩, rbk := 0, pidx := 0, mon := none, wait := none, since := 0, fence := none,
    epoch := 0, posted := [], pend := none, passes := none, request := .none, yielding := [], starved := false, late := false, came := none, crew := none, park := none,
    queues := [] }

/-- A queue after device reset (R364): SIZE 4, all else zero. -/
def newQueue : Queue :=
  { host := false, base := 0, asid := 0, admin := false, devenq := false, en := false, part := 0, size := 4, submit := 0,
    cpl := 0, next := 0, fseq := 0, fault := 0, state := 0, kept := [], waits := none, seen := 0, refused := false, pkts := [], pipes := [] }

/-- A partition's controls after device reset: GRACE 100 µs, AGEMAX 8, umpire exponent 20 (R354, R388); bases 0 (log 5). -/
def newPart : Part :=
  { elBase := 0, rpBase := 0, recBase := 0, recSize := 0, elSeq := 0, rpSeq := 0, recPos := 0, grace := 100000, agemax := 8,
    uexp := 20, record := false, replay := false, replayPos := 0, replayMsg := 0, replayInt := 0, heldInts := [], watchdog := 0, still := [], reported := [] }

/-- A connection-table entry after device reset (R409). -/
def newConn : Conn := { peer := 0, pport := 0, part := 0, errth := 0, errcnt := 0, lanes := 0, req := false, state := 0 }

/-- The device right after reset (R79, R364, R387, R406 to R409, R415, R426): nothing resident, all banks in cache mode,
partition 0 owns everything, every register at its reset value, sideband status BOOT. -/
def State.reset : State :=
  { cur := noGroup, groups := [], sched := [], free := 0, tick := 0, mem := [], hostMem := [], peerMem := [], smem := [],
    tags := [], banks := [], teams := [], evq := [], copies := [], tlb1 := [], tlb2 := [],
    regions := List.replicate 16 0, shadowRegions := List.replicate 16 0, ver := 0, commitPend := false, commitGo := 0, goMore := 0,
    hostAcks := [], heldWrites := [], gens := [], coxBumps := [], asidBase := 0, asidCache := [], l2 := [], quarantine := [], poison := [], latent := [], found := [], corrected := 0, retired := [],
    faults := [], faultDrops := [], mcBase := 0, mcWptr := 0, mcCons := 0, mcSeq := 0, mcDrops := 0, interrupts := [],
    clock := 0, clockLock := false, icache := [], copyOps := [], slots := [], queues := List.replicate 32 newQueue,
    launches := [], saves := [], known := [], roundDue := [], dueStatus := [], enqBuf := [], parts := List.replicate 8 newPart, coreOwner := [], sliceOwner := [],
    engineOwner := [], stepped := [], devno := 0, ratios := [4, 4, 4, 4], conns := List.replicate 96 newConn, noRoute := [],
    windows := List.replicate 16 0, redUnit := [], coxSram := [], halted := false, boot := .boot, temps := [0, 0, 0, 0], dumpBase := 0, dumpSize := 0,
    fatals := 0, bmcLog := [], hostRead := [], peerRead := [], faultsRead := [], gids := 0 }

end Sys2Proof.Machine
end

