-- ==== Sys2Proof/Machine/Regions.lean ====
section
/-! DEFINITION. The region table (R95), homing (R96), byte order, and plain reads and writes of the memories. -/
namespace Sys2Proof.Machine

/-- Bits [lo + n - 1 : lo] of a 128-bit table entry. -/
def entryBits (e : BitVec 128) (lo n : Nat) : Nat := e.toNat / 2 ^ lo % 2 ^ n

/-- A valid region with an accepted DIEMASK and GRAN (R95). -/
def regionValid (e : BitVec 128) : Bool := e.getLsbD 99 && entryBits e 105 4 != 0 && entryBits e 103 2 != 3
/-- First physical address of a region. -/
def regionBase (e : BitVec 128) : Nat := entryBits e 20 32 * 2 ^ 20
/-- One past the last physical address of a region. -/
def regionEnd (e : BitVec 128) : Nat := regionBase e + entryBits e 64 20 * 2 ^ 20
/-- PART of a region. -/
def regionPart (e : BitVec 128) : Nat := entryBits e 100 3
/-- The dies of a region, in increasing order. -/
def regionDies (e : BitVec 128) : List Nat := (List.range 4).filter (fun d => e.getLsbD (105 + d))
/-- The interleave granule in bytes. -/
def regionGran (e : BitVec 128) : Nat := 256 * 16 ^ entryBits e 103 2

/-- The first valid region that holds a physical address (R95). -/
def regionAt (tbl : List (BitVec 128)) (a : Nat) : Option (BitVec 128) :=
  tbl.find? (fun e => regionValid e && regionBase e ≤ a && a < regionEnd e)

/-- The cell of an address in a region (R96): (64 die + slice) * 2^31 + channel offset. R95 requires a channel range to
end within 2 GiB and says nothing of an entry that does not: its offset runs on into the next slice's cells (DESIGN
CHOICE, log 83). -/
def cellIn (e : BitVec 128) (a : Nat) : Nat :=
  let g := (a - regionBase e) / regionGran e
  let dies := regionDies e
  let d := dies.length
  let die := dies.getD (g % d) 0
  let slice := g / d % 64
  let offset := entryBits e 84 15 * 65536 + g / (64 * d) * regionGran e + a % regionGran e
  (64 * die + slice) * 2 ^ 31 + offset

/-- The home cell of a physical address, none where no region holds it (R96). -/
def homeCell (tbl : List (BitVec 128)) (a : Nat) : Option Nat := (regionAt tbl a).map (fun e => cellIn e a)

/-- The next address after `a` at which the region that holds an address may change. -/
def regionStep (tbl : List (BitVec 128)) (e : BitVec 128) (a : Nat) : Nat :=
  tbl.foldl (fun n r => if regionValid r && a < regionBase r then min n (regionBase r) else n) (regionEnd e)

/-- Every byte from `lo` to `hi - 1` lies in a valid region of a partition (R71, R96); the fuel bounds the pieces. -/
def coveredBy (tbl : List (BitVec 128)) (part : Nat) (hi : Nat) : Nat → Nat → Bool
  | 0, _ => false
  | fuel + 1, lo =>
    if hi ≤ lo then true
    else match regionAt tbl lo with
      | none => false
      | some e => regionPart e == part && coveredBy tbl part hi fuel (regionStep tbl e lo)

/-- The n bytes of a value, lowest first (R7). -/
def leBytes : Nat → Nat → List Byte
  | 0, _ => []
  | n + 1, v => BitVec.ofNat 8 v :: leBytes n (v / 256)

/-- The value of bytes, lowest first (R7). -/
def leVal : List Byte → Nat
  | [] => 0
  | b :: r => b.toNat + 256 * leVal r

/-- n bytes of a table of bytes from a key on. -/
def tbytes (t : List (Nat × Byte)) (a n : Nat) : List Byte := (List.range n).map (fun i => tget 0 t (a + i))

/-- Every group of the device changed. -/
def mapGroups (f : Group → Group) (s : State) : State := { s with cur := f s.cur, groups := s.groups.map f }

/-- The group with an identity, the issuing one included. -/
def findGroup (gid : Nat) (s : State) : Option Group :=
  if s.cur.placed && s.cur.gid = gid then some s.cur else s.groups.find? (fun g => g.placed && g.gid = gid)

/-- Every placed group. -/
def allGroups (s : State) : List Group := (s.cur :: s.groups).filter (fun g => g.placed)

/-- An operation on the issuing group made on the group with an identity; the group that issues stands among the others
meanwhile. -/
def onGroup (gid : Nat) (f : State → State) (s : State) : State :=
  if s.cur.placed && s.cur.gid = gid then f s
  else match s.groups.find? (fun g => g.placed && g.gid = gid) with
    | none => s
    | some g =>
      let s1 := f { s with cur := g, groups := s.cur :: s.groups.filter (fun x => !(x.gid = gid)) }
      let back := s1.groups.find? (fun x => x.gid = s.cur.gid)
      let rest := s1.groups.filter (fun x => !(x.gid = s.cur.gid))
      { s1 with cur := back.getD { s.cur with placed := false },
                groups := if s1.cur.placed then s1.cur :: rest else rest }

end Sys2Proof.Machine
end

