-- ==== Sys2Proof/Machine/Home.lean ====
section
/-! DEFINITION. The home slices: the L2, the directory's transitions (R100 to R103), the L1 copies of the cores and the
copies of the host port (R105), and what an invalidation does at a core (R132, R179). A line is a home cell / 128. -/
namespace Sys2Proof.Machine

/-- The host port as a client (R105). -/
def hostClient : Nat := 384

/-- n bytes from offset `off` of a line. -/
def maskRange (off n : Nat) : LineMask := BitVec.ofNat 128 ((2 ^ n - 1) * 2 ^ off)
/-- The words any byte of which is in a mask. -/
def wordsOf (m : LineMask) : BitVec 32 :=
  (List.range 32).foldl (fun w i => if m.extractLsb' (4 * i) 4 = 0 then w else w ||| BitVec.twoPow 32 i) 0
/-- The bytes of some words. -/
def bytesOf (w : BitVec 32) : LineMask :=
  (List.range 32).foldl (fun m i => if w.getLsbD i then m ||| maskRange (4 * i) 4 else m) 0
/-- The sectors any byte of which is in a mask (R93). -/
def sectorsOf (m : LineMask) : BitVec 4 :=
  (List.range 4).foldl (fun w i => if m.extractLsb' (32 * i) 32 = 0 then w else w ||| BitVec.twoPow 4 i) 0
/-- Byte k of a line. -/
def lineByte (d : LineData) (k : Nat) : Byte := d.extractLsb' (8 * k) 8
/-- A line with byte k set. -/
def setByte (d : LineData) (k : Nat) (b : Byte) : LineData :=
  (d &&& ~~~(0xFF#1024 <<< (8 * k))) ||| (b.setWidth 1024 <<< (8 * k))
/-- A line with the bytes of a mask taken from another. -/
def mergeLine (m : LineMask) (new old : LineData) : LineData :=
  (List.range 128).foldl (fun d k => if m.getLsbD k then setByte d k (lineByte new k) else d) old
/-- Bytes placed from offset `off` of a line. -/
def lineOfBytes (off : Nat) (bs : List Byte) : LineData := BitVec.ofNat 1024 (leVal bs * 2 ^ (8 * off))
/-- n bytes of a line from an offset. -/
def bytesFrom (d : LineData) (off n : Nat) : List Byte := (List.range n).map (fun i => lineByte d (off + i))

/-- The home's data of a line. -/
def memLine (s : State) (line : Nat) : LineData := lineOfBytes 0 (tbytes s.mem (128 * line) 128)

/-- The home's data written in the bytes of a mask. -/
def putLine (m : LineMask) (d : LineData) (line : Nat) (s : State) : State :=
  let mem := (List.range 128).foldl (fun t k => if m.getLsbD k then tset 0 t (128 * line + k) (lineByte d k) else t) s.mem
  { s with mem := mem }

/-- The L2 set of a line and its slice (R93): bits [16:7] of the channel offset. -/
def l2Same (a b : Nat) : Bool := a / 2 ^ 24 == b / 2 ^ 24 && a % 1024 == b % 1024

/-- A line's L2 entry after an access to some sectors, with the owner tag where it writes (R93, R360). -/
def l2Mark (sec : BitVec 4) (owner : Option (BitVec 18)) (e : L2Line) : L2Line :=
  { e with valid := e.valid ||| sec, dirty := if owner.isSome then e.dirty ||| sec else e.dirty,
           owner := owner.getD e.owner }

/-- The ways of a line's slice that are not quarantined (R361). -/
def l2Ways (s : State) (line : Nat) : List Nat :=
  (List.range 16).filter (fun w => !(s.quarantine.contains (16 * (line / 2 ^ 24) + w)))

/-- The sectors that a mask covers whole. -/
def wholeSectors (m : LineMask) : BitVec 4 :=
  (List.range 4).foldl (fun w i => if m.extractLsb' (32 * i) 32 = BitVec.allOnes 32 then w ||| BitVec.twoPow 4 i else w) 0

/-- The error of a sector as a read finds it (R361). -/
def foundError (s : State) (x : LatentError) : FoundError :=
  match s.l2.find? (fun e => e.line = x.sector / 4) with
  | some e => ⟨x.sector, x.pa, e.way, e.dirty.getLsbD (x.sector % 4), e.owner, x.otu, x.hbm⟩
  | none => ⟨x.sector, x.pa, 0, false, 0, x.otu, x.hbm⟩

/-- A latent error stands in one of some sectors of a line. -/
def errorIn (line : Nat) (sec : BitVec 4) (x : LatentError) : Bool := x.sector / 4 == line && sec.getLsbD (x.sector % 4)

/-- The slice reads some sectors of a line (R419): the errors in them are found. -/
def readSectors (line : Nat) (sec : BitVec 4) (s : State) : State :=
  { s with latent := s.latent.filter (fun x => !(errorIn line sec x)),
           found := s.found ++ (s.latent.filter (errorIn line sec)).map (foundError s) }

/-- Bytes of a line are written (R419): a sector overwritten whole loses its error, any other is read to merge them. -/
def writeSectors (line : Nat) (m : LineMask) (s : State) : State :=
  readSectors line (sectorsOf m &&& ~~~(wholeSectors m))
    { s with latent := s.latent.filter (fun x => !(errorIn line (wholeSectors m) x)) }

/-- A line leaves the L2: its dirty sectors are read to be written to HBM, and an error in another is never found
(R419). -/
def leaveL2 (e : L2Line) (s : State) : State :=
  let s := readSectors e.line e.dirty s
  { s with l2 := s.l2.filter (fun x => !(x.line = e.line)), latent := s.latent.filter (fun x => x.hbm || !(x.sector / 4 = e.line)) }

/-- The line of a slice that stands in a way of the set of a line. -/
def inWay (line way : Nat) (e : L2Line) : Bool := l2Same e.line line && e.way == way

/-- An access to sectors of a line at its slice (R93): the line is allocated in an invalid way, the lowest of several
(DESIGN CHOICE: no rule says which; log 14), or in the place of a line that the policy chooses (a free value); with
every way quarantined nothing is allocated (R361). -/
def l2Touch (line : Nat) (sec : BitVec 4) (owner : Option (BitVec 18)) (s : State) : State :=
  if s.l2.any (fun e => e.line = line) then
    { s with l2 := s.l2.map (fun e => if e.line = line then l2Mark sec owner e else e) }
  else
    let ways := l2Ways s line
    let used := s.l2.filter (fun e => l2Same e.line line)
    match ways.filter (fun w => !(used.any (fun e => e.way = w))) with
    | w :: _ => { s with l2 := l2Mark sec owner ⟨line, w, 0, 0, 0, false⟩ :: s.l2 }
    | [] =>
      if ways.isEmpty then s
      else
        let w := ways.getD (Config.freeNat s.free % ways.length) 0
        let s := (s.l2.filter (inWay line w)).foldl (fun s e => leaveL2 e s) s
        { s with free := s.free + 1, l2 := l2Mark sec owner ⟨line, w, 0, 0, 0, false⟩ :: s.l2 }

/-- The owner tag of a context (R360). -/
def ctxTag (asid : BitVec 16) : BitVec 18 := 1#2 ++ asid
/-- The owner tag of the host port. -/
def hostTag : BitVec 18 := 2#2 ++ 0#16
/-- The owner tag of the peer port and the Cox. -/
def peerTag : BitVec 18 := 3#2 ++ 0#16

/-- A fence acquires. -/
def acquires : FenceKind → Bool
  | .acq | .full => true
  | .rel => false

/-- A fence releases. -/
def releases : FenceKind → Bool
  | .rel | .full => true
  | .acq => false

/-- A read-modify-write: it also reads (R117). -/
def isRmw (p : Posted) : Bool :=
  match p.op with
  | .write _ | .part _ => false
  | .red _ _ _ | .bacc _ _ _ _ => true

/-- Two groups lie in one instance of a scope (R116). -/
def inScope (sc : Scope) (g h : Group) : Bool :=
  match sc with
  | .group => g.gid = h.gid
  | .team => g.launch = h.launch && g.core = h.core && g.slot = h.slot
  | .cluster => g.launch = h.launch && g.idx.span = h.idx.span && g.idx.cluster = h.idx.cluster
  | .span => g.launch = h.launch && g.idx.span = h.idx.span
  | .device | .domain | .system => true

/-- The rollback of a group to its incomplete fence (R132): the registers and the queue table of the fence, no held
store, `rbk` counted; a trap that was waiting is dropped (R134), but for the poison trap of an access before the fence
(R362). A load after the fence leaves none behind, since one that meets poison waits for the fence. -/
def rollback (g : Group) : Group :=
  match g.fence with
  | none => g
  | some f =>
    { g with arch := f.snap, queues := f.qsnap, fence := some { f with held := [], lines := [], rolls := f.rolls + 1, missed := [] },
             rbk := g.rbk + 1, wait := none, since := 0, came := none,
             pend := g.pend.filter (fun t => t.cause == .poison && t.sub == 1) }

/-- A group's monitor triggered by something that reaches a line (R179). -/
def triggerOn (line : Nat) (g : Group) : Group :=
  { g with mon := g.mon.map (fun m => if m.line = line then { m with triggered := true } else m) }

/-- A group that has read a line past its incomplete fence rolls back (R132). -/
def rolledBy (line : Nat) (g : Group) : Group := if g.fence.any (fun f => f.lines.contains line) then rollback g else g

/-- What an invalidation, recall or stale notice of a line does to a group (R132, R179). -/
def noticed (core line : Nat) (g : Group) : Group := if g.core = core then rolledBy line (triggerOn line g) else g

/-- A write of which a group's core is not told reaches a line that the group has read past its incomplete fence: its core
has evicted the line or holds no copy that its home records (DEDUCED from R127, R128 and R133; log 72). A release lets the
read stand. An acquire lets it stand where no read of the group is outstanding. A full fence orders it against a writer's own
full fence at the same scope alone, which may already stand or may yet come; a write of no group counts as one. -/
def unseenBy (w : Option Group) (line : Nat) (g : Group) : Group :=
  match g.fence with
  | none => g
  | some f =>
    if !(f.lines.contains line) || w.any (fun h => h.gid = g.gid) then g
    else if acquires f.kind && g.posted.any isRmw then rollback g
    else if f.kind != .full then g
    else match w with
      | none => rollback g
      | some h =>
        if inScope f.scope g h && h.fence.any (fun e => e.kind == .full && e.scope == f.scope) then rollback g
        else { g with fence := some { f with missed := h.gid :: f.missed } }

/-- A group comes to a full fence of a scope (R128): a group at an incomplete one of the same instance that has missed a write
of it rolls back. -/
def meetsFull (sc : Scope) (h g : Group) : Group :=
  if g.gid != h.gid && inScope sc g h && g.fence.any (fun f => f.kind == .full && f.scope == sc && f.missed.contains h.gid)
  then rollback g else g

/-- An invalidation, recall or stale notice of a line arrives at a client. -/
def notice (client line : Nat) (s : State) : State := mapGroups (noticed client line) s

/-- A write of a group, or of something else, reaches a line from a core: it triggers the monitors of that core's groups
(R179), and groups that have read the line past an incomplete fence and are not told of it learn of it (log 72). -/
def seenFrom (w : Option Group) (core line : Nat) (s : State) : State :=
  mapGroups (fun g => unseenBy w line (if g.core = core then triggerOn line g else g)) s

/-- A store or atomic of a core reaches a line: the issuing group's where it stands on that core. -/
def storeSeen (core line : Nat) (s : State) : State :=
  seenFrom (if s.cur.placed && s.cur.core = core then some s.cur else none) core line s

/-- The dirty words of a copy in the bytes of a mask are written back (R98), the copy kept. -/
def writeBack (m : LineMask) (c : Copy) (s : State) : State :=
  let w := c.dirty &&& wordsOf m
  if w = 0 then s
  else
    let s := putLine (bytesOf w) c.data c.line (writeSectors c.line (bytesOf w) s)
    l2Touch c.line (sectorsOf (bytesOf w)) (some c.owner) s

/-- A copy replaced in the list. -/
def setCopy (client line : Nat) (f : Copy → Copy) (s : State) : State :=
  { s with copies := s.copies.map (fun c => if c.client = client && c.line = line then f c else c) }

/-- A copy taken out of the list. -/
def removeCopy (client line : Nat) (s : State) : State :=
  { s with copies := s.copies.filter (fun c => !(c.client = client && c.line = line)) }

/-- A client's copy of a line. -/
def copyOf (client line : Nat) (s : State) : Option Copy := s.copies.find? (fun c => c.client = client && c.line = line)

/-- The copies of a line that its home records. -/
def recorded (line : Nat) (s : State) : List Copy := s.copies.filter (fun c => c.line = line && c.kind != .unrecorded)

/-- The holders of a line (R100). -/
def holders (line : Nat) (s : State) : List Copy := s.copies.filter (fun c => c.line = line && c.kind == .held)

/-- A copy is invalidated or recalled whole: dirty words written back, the copy dropped; the host port's
acknowledgement is awaited (R105). -/
def takeBack (c : Copy) (s : State) : State :=
  let s := writeBack (BitVec.allOnes 128) c s
  let s := notice c.client c.line (removeCopy c.client c.line s)
  if c.client = hostClient then { s with hostAcks := c :: s.hostAcks } else s

/-- Several copies recalled. -/
def recallAll : List Copy → State → State
  | [], s => s
  | c :: cs, s => recallAll cs (takeBack c s)

/-- A group of a core monitors a line (R179). -/
def monitored (core line : Nat) (s : State) : Bool :=
  (allGroups s).any (fun g => g.core = core && g.mon.any (fun m => m.line = line && !m.triggered))

/-- A sharer without a byte, which a monitor's home records (R179). -/
def monitorCopy (core line pa : Nat) : Copy := ⟨core, line, pa / 128 * 128, .shared, 0, 0, 0, 0, 0, false, 0⟩

/-- A copy evicted by its own client (R102): dirty words written back, the copy dropped. The home keeps the record of
a monitored line (R179). -/
def evict (c : Copy) (s : State) : State :=
  let s := removeCopy c.client c.line (writeBack (BitVec.allOnes 128) c s)
  if monitored c.client c.line s then { s with copies := monitorCopy c.client c.line c.pa :: s.copies } else s

/-- A store to the bytes of a mask concerns a holder (R102, R103): its masks hold a touched byte, or it may write another
byte of a touched word. It would later write that whole word back over the store (R98; DEDUCED, log 10). -/
def holdsTouched (m : LineMask) (c : Copy) : Bool := (c.r ||| c.w) &&& m != 0 || wordsOf c.w &&& wordsOf m != 0

/-- The touched words leave a holder's copy (R102): written back if dirty, dropped from the masks; a copy without a
byte goes. -/
def dropWords (m : LineMask) (c : Copy) (s : State) : State :=
  if !(holdsTouched m c) then s
  else
    let gone := bytesOf (wordsOf m)
    let s := writeBack gone c s
    let r := c.r &&& ~~~gone
    let w := c.w &&& ~~~gone
    let s := if r ||| w = 0 then removeCopy c.client c.line s
      else setCopy c.client c.line (fun x => { x with r := r, w := w, dirty := x.dirty &&& ~~~(wordsOf m) }) s
    let s := notice c.client c.line s
    if c.client = hostClient then
      { s with hostAcks := { c with r := c.r &&& gone, w := c.w &&& gone, dirty := 0 } :: s.hostAcks }
    else s

/-- The touched words leave the copies of several holders. -/
def dropWordsAll (m : LineMask) : List Copy → State → State
  | [], s => s
  | c :: cs, s => dropWordsAll m cs (dropWords m c s)

/-- Dirty words of the holders whose W covers a byte of a mask are written back and kept, clean (R102). -/
def cleanFor (m : LineMask) : List Copy → State → State
  | [], s => s
  | c :: cs, s =>
    let s := if c.w &&& m = 0 then s
      else setCopy c.client c.line (fun x => { x with dirty := x.dirty &&& ~~~(wordsOf m) }) (writeBack m c s)
    cleanFor m cs s

/-- A bank is no way of its core's L1: it is in another mode, or a switch of its mode is in progress, while which it takes
no new line (R80, R81). -/
def notWay (b : Bank) : Bool := b.mode != .cache || b.next.isSome

/-- Ways of a core's L1: its banks in cache mode (R81). -/
def l1Ways (core : Nat) (s : State) : Nat := 48 - (s.banks.filter (fun e => e.1 / 48 == core && notWay e.2)).length

/-- A bank of a core that is leaving cache mode (R80): its lines are served no longer. -/
def leavingWay (core way : Nat) (s : State) : Bool :=
  s.banks.any (fun e => e.1 = 48 * core + way && e.2.mode == .cache && e.2.next.isSome)

/-- An access to a line that stands in a bank which leaves cache mode is held until the switch is done (R80). -/
def wayHeld (line : Nat) (s : State) : Bool :=
  s.copies.any (fun c => c.client < hostClient && c.line = line && c.r ||| c.w != 0 && leavingWay c.client c.way s)

/-- The copies in a core's L1 in the set of a line: bits [14:7] of the physical address (R81); latest in use first. -/
def l1Set (core pa : Nat) (s : State) : List Copy :=
  s.copies.filter (fun c => c.client = core && c.pa / 128 % 256 == pa / 128 % 256 && c.r ||| c.w != 0)

/-- A bank of a core is a way of its L1 that holds no line in the set of a line. -/
def freeWay (core pa : Nat) (s : State) (b : Nat) : Bool :=
  !(s.banks.any (fun e => e.1 = 48 * core + b && notWay e.2)) && !((l1Set core pa s).any (fun c => c.way = b))

/-- The way that a line takes in its client's L1 (R81): an invalid one, the lowest of several (DESIGN CHOICE; log 14), or
that of the least recently used line of the set, which is evicted. The host port has no ways. -/
def l1Place (client pa : Nat) (s : State) : State × Nat :=
  if client = hostClient then (s, 0)
  else match (List.range 48).find? (freeWay client pa s) with
    | some b => (s, b)
    | none => match ((l1Set client pa s).filter (fun c => !(leavingWay client c.way s))).getLast? with
      | some c => (evict c s, c.way)
      | none => (s, 0)

/-- A copy filled from the home, latest in use. A fill requests the whole line: all four sectors are valid in the L2 after
it (DESIGN CHOICE: R93 leaves open which sectors a fill requests; log 14). -/
def fill (client line pa : Nat) (kind : CopyKind) (r w : LineMask) (s : State) : State :=
  let d := memLine s line
  let p := l1Place client pa (l2Touch line 0xF none (readSectors line 0xF (removeCopy client line s)))
  { p.1 with copies := ⟨client, line, pa / 128 * 128, kind, r, w, 0, d, 0, false, p.2⟩ :: p.1.copies }

/-- The bytes of masks conflict with a holder (R101); words that both write conflict too (R103). -/
def conflicts (r w : LineMask) (x : Copy) : Bool :=
  w &&& (x.r ||| x.w) != 0 || r &&& x.w != 0 || wordsOf w &&& wordsOf x.w != 0

/-- The bytes in which two lines differ. -/
def lineDiff (a b : LineData) : LineMask :=
  (List.range 128).foldl (fun m k => if lineByte a k = lineByte b k then m else m ||| maskRange k 1) 0

/-- The bytes that a holder takes from the home as its masks grow (R98, R100): the words that the access touches, each
whole, but for those that it may already write, so that no word mixes the bytes of two contexts (R110); of them, since a
fill has brought the whole line, those that a store at the home has changed. -/
def missing (c : Copy) (r w : LineMask) (s : State) : LineMask :=
  bytesOf (wordsOf (r ||| w) &&& ~~~(wordsOf c.w)) &&& lineDiff (memLine s c.line) c.data

/-- A holder's masks extended (R100, R102). -/
def extend (c : Copy) (r w : LineMask) (s : State) : State :=
  let new := missing c r w s
  let d := mergeLine new (memLine s c.line) c.data
  setCopy c.client c.line (fun x => { x with r := c.r ||| r, w := c.w ||| w, data := d }) (readSectors c.line (sectorsOf new) s)

/-- A copy moved to the front of the order of use (R81). -/
def useCopy (client line : Nat) (s : State) : State :=
  match copyOf client line s with
  | none => s
  | some c => { s with copies := c :: (removeCopy client line s).copies }

/-- An `.own` access at the home, or a holder's access outside its masks (R102). -/
def ownAccess (client line pa : Nat) (r w : LineMask) (s : State) : State :=
  let hs := holders line s
  let others := hs.filter (fun c => c.client != client)
  match hs.find? (fun c => c.client = client) with
  | some mine =>
    if others.any (conflicts r w) then fill client line pa .held r w (recallAll hs s) else useCopy client line (extend mine r w s)
  | none =>
    if others.isEmpty then
      fill client line pa .held r w (recallAll ((recorded line s).filter (fun c => c.client != client)) s)
    else if others.any (conflicts r w) || 8 ≤ others.length then fill client line pa .held r w (recallAll others s)
    else fill client line pa .held r w s

/-- A line with a poisoned sector, or whose page is not to be kept: served and not retained. -/
def linePoisoned (line : Nat) (s : State) : Bool := s.poison.any (fun p => p / 4 == line)

/-- A line that no L1 keeps: a poisoned one, or one whose slice has no way left, which is served as `.unc` (R361). -/
def notKept (line : Nat) (s : State) : Bool := linePoisoned line s || (l2Ways s line).isEmpty

/-- A cell range touches a poisoned sector. -/
def cellPoisoned (s : State) (cell n : Nat) : Bool :=
  s.poison.contains (cell / 32) || s.poison.contains ((cell + n - 1) / 32)

/-- A client keeps no copy of a line: no bank of its core is a way of its L1 (R81), or no L1 keeps it. -/
def keepsNone (client line : Nat) (s : State) : Bool := (l1Ways client s = 0 && client < hostClient) || notKept line s

/-- The sectors of a line that the slice reads for an `.own` access (R419): those of a fill, or what a holder takes from the
home. -/
def ownSectors (client line : Nat) (r w : LineMask) (s : State) : BitVec 4 :=
  match (holders line s).find? (fun c => c.client = client) with
  | some mine =>
    if ((holders line s).filter (fun c => c.client != client)).any (conflicts r w) then 0xF else sectorsOf (missing mine r w s)
  | none => 0xF

/-- A load at the home (R102) after the holders' write-backs: the bytes of the mask are served from the L2. -/
def homeServe (line : Nat) (m : LineMask) (s : State) : State :=
  l2Touch line (sectorsOf m) none (readSectors line (sectorsOf m) (cleanFor m (holders line s) s))

/-- A load that misses in the L1 of its client (R97, R102): what is filled. -/
def homeLoad (client line pa : Nat) (rt : ReqTy) (m : LineMask) (s : State) : State :=
  if keepsNone client line s then homeServe line m s
  else
    let mine := copyOf client line s
    let held := mine.any (fun c => c.kind == .held)
    match rt with
    | .own => ownAccess client line pa m 0 s
    | .wt =>
      if held then ownAccess client line pa m 0 s
      else if (holders line s).isEmpty then fill client line pa .shared (BitVec.allOnes 128) 0 s
      else homeServe line m s
    | .si =>
      if held then ownAccess client line pa m 0 s
      else if mine.any (fun c => c.kind == .shared) then
        (if (holders line s).isEmpty then fill client line pa .shared (BitVec.allOnes 128) 0 s else homeServe line m s)
      else fill client line pa .unrecorded (BitVec.allOnes 128) 0 (homeServe line m s)
    | .unc | .none => if held then ownAccess client line pa m 0 s else homeServe line m s

/-- The sectors of a line that the slice reads for a load that misses in the L1 of its client (R93, R419). -/
def loadSectors (client line : Nat) (rt : ReqTy) (m : LineMask) (s : State) : BitVec 4 :=
  let mine := copyOf client line s
  if keepsNone client line s then sectorsOf m
  else if rt == .own || mine.any (fun c => c.kind == .held) then ownSectors client line m 0 s
  else if rt == .wt then (if (holders line s).isEmpty then 0xF else sectorsOf m)
  else if rt == .si then
    (if mine.any (fun c => c.kind == .shared) && !(holders line s).isEmpty then sectorsOf m else 0xF)
  else sectorsOf m

/-- The recalls that a store, atomic or block atomic at the home needs (R102): other recorded copies are invalidated;
holders lose the touched words. The client's own held copy loses them too, as R102 says of each holder, where R97 has
the core's own copy updated (DEDUCED; log 73). -/
def homePrepare (client line : Nat) (m : LineMask) (s : State) : State :=
  dropWordsAll m (holders line s)
    (recallAll (s.copies.filter (fun c => c.line = line && c.kind == .shared && c.client != client)) s)

/-- A store, atomic or block atomic performed at the home (R97, R102): after the recalls the client's own copy is
updated and the bytes are written with an owner tag (R360). -/
def homeStore (client line : Nat) (m : LineMask) (d : LineData) (owner : BitVec 18) (s : State) : State :=
  let s := homePrepare client line m s
  let s := setCopy client line (fun c => { c with data := mergeLine m d c.data }) s
  let s := l2Touch line (sectorsOf m) (some owner) (putLine m d line (writeSectors line m s))
  storeSeen client line s

/-- A store served in the L1 of its core: the words become dirty (R97, R98). -/
def l1Store (core line : Nat) (m : LineMask) (d : LineData) (owner : BitVec 18) (s : State) : State :=
  storeSeen core line (setCopy core line (fun c =>
    { c with data := mergeLine m d c.data, dirty := c.dirty ||| wordsOf m, owner := owner }) s)

/-- A store of a core to a tracked line (R97, R98): within the masks of a held copy it is served in the L1, `.own`
asks for the line, any other type is performed at the home. -/
def coreStore (core line pa : Nat) (rt : ReqTy) (m : LineMask) (d : LineData) (owner : BitVec 18) (s : State) : State :=
  let hit := (copyOf core line s).any (fun c => c.kind == .held && m &&& ~~~c.w == 0)
  if hit then l1Store core line m d owner (useCopy core line s)
  else if rt == .own && !(keepsNone core line s) then
    let s := useCopy core line (ownAccess core line pa 0 m s)
    if (copyOf core line s).isSome then l1Store core line m d owner s else homeStore core line m d owner s
  else homeStore core line m d owner s

/-- A copy serves a load of a type in the L1 (R97, R98): a held copy whose masks cover the bytes serves any type, a
recorded read copy `.wt` and `.si`, an unrecorded one `.si` alone; any other load follows its own type. -/
def servesLoad (rt : ReqTy) (m : LineMask) (c : Copy) : Bool :=
  m &&& ~~~(c.r ||| c.w) == 0 &&
    match c.kind with
    | .held => true
    | .shared => rt == .wt || rt == .si
    | .unrecorded => rt == .si

/-- A load of a core from a tracked line (R97, R98): the state after it and the line it reads. -/
def coreLoad (core line pa : Nat) (rt : ReqTy) (m : LineMask) (s : State) : State × LineData :=
  match (copyOf core line s).filter (servesLoad rt m) with
  | some c => (useCopy core line s, c.data)
  | none =>
    let s := homeLoad core line pa rt m s
    match (copyOf core line s).filter (servesLoad rt m) with
    | some c => (useCopy core line s, c.data)
    | none => (s, memLine s line)

/-- A store through an untracked mapping (R109): performed at the slice, a stale notice to each recorded client. -/
def untrackedStore (client line : Nat) (m : LineMask) (d : LineData) (owner : BitVec 18) (s : State) : State :=
  let cs := recorded line s
  let s := storeSeen client line (l2Touch line (sectorsOf m) (some owner) (putLine m d line (writeSectors line m s)))
  cs.foldl (fun s c => notice c.client line (setCopy c.client line (fun x => { x with stale := true }) s)) s

/-- The copies that an acquire of a core drops (R97, R109, R130): unrecorded ones, and stale ones at a scope of device
or wider. -/
def acquireDrop (core : Nat) (device : Bool) (s : State) : State :=
  recallAll (s.copies.filter (fun c => c.client = core && (c.kind == .unrecorded || (device && c.stale)))) s

/-- A line waits for the host port's acknowledgement (R102, R105). -/
def hostWaits (s : State) (line : Nat) : Bool := s.hostAcks.any (fun c => c.line = line)

/-- A request to a line cannot be acted on yet: the host port has not acknowledged (R102), or a commit drains (R113). -/
def lineBusy (s : State) (line : Nat) : Bool := s.commitPend || hostWaits s line

/-- The dirty words of a core's held copies written back and kept, clean (R98, R107). -/
def cleanCore (core : Nat) (s : State) : State :=
  (s.copies.filter (fun c => c.client = core && c.dirty != 0)).foldl (fun s c =>
    setCopy c.client c.line (fun x => { x with dirty := 0 }) (writeBack (BitVec.allOnes 128) c s)) s

end Sys2Proof.Machine
end

