-- ==== Sys2Proof/Machine/Records.lean ====
section
/-! DEFINITION. Writes of the device itself: event-log records (R389, R412), machine-check records (R363, R430), fault
records (R73), event-queue records (R92), and the device clock (R285). -/
namespace Sys2Proof.Machine

/-- The device clock read (R285): it never goes back; how far it has moved is a free value (log 6). -/
def tickClock (s : State) : State := { s with clock := max s.clock (min (s.clock + Config.freeNat s.free) (2 ^ 64 - 1)), free := s.free + 1 }

/-- A byte written to device memory by the Cox at its home (R106, R360). One in no region is dropped. -/
def putByte (owner : BitVec 18) (a : Nat) (b : Byte) (s : State) : State :=
  match homeCell s.regions a with
  | none => s
  | some cell => homeStore 385 (cell / 128) (maskRange (cell % 128) 1) (lineOfBytes (cell % 128) [b]) owner s

/-- A write of the Cox must wait: for what it has still to do before it, for a commit (R113), or for the host port (R102). -/
def writeWaits (s : State) (a : Nat) : Bool :=
  !s.heldWrites.isEmpty || s.commitPend || (homeCell s.regions a).any (fun cell => hostWaits s (cell / 128))

/-- Bytes written to device memory by the Cox from a physical address, with an owner tag, each as soon as it need not
wait. -/
def putPhys (owner : BitVec 18) : Nat → List Byte → State → State
  | _, [], s => s
  | a, b :: bs, s =>
    let s := if writeWaits s a then { s with heldWrites := s.heldWrites ++ [.byte a b owner] } else putByte owner a b s
    putPhys owner (a + 1) bs s

/-- What a read of device memory at its home returns (R102, R103): dirty words of holders included; all ones in no
region (R96). -/
def peekPhys (s : State) (a : Nat) : Byte :=
  match homeCell s.regions a with
  | none => 0xFF
  | some cell =>
    match s.copies.find? (fun c => c.line = cell / 128 && c.kind == .held && c.dirty.getLsbD (cell % 128 / 4)) with
    | some c => lineByte c.data (cell % 128)
    | none => tget 0 s.mem cell

/-- n bytes of device memory as `peekPhys` reads them. -/
def peekBytes (s : State) (a n : Nat) : List Byte := (List.range n).map (fun i => peekPhys s (a + i))

/-- Bytes written to host memory. -/
def putHost (a : Nat) (bs : List Byte) (s : State) : State := { s with hostMem := tsetList 0 s.hostMem a bs }

/-- Bytes of a ring in host memory, behind what the Cox has still to do. -/
def putHostRing (a : Nat) (bs : List Byte) (s : State) : State :=
  if s.heldWrites.isEmpty then putHost a bs s
  else { s with heldWrites := s.heldWrites ++ (List.range bs.length).map (fun i => .host (a + i) (bs.getD i 0)) }

/-- A partition's controls. -/
def partOf (s : State) (p : Nat) : Part := s.parts.getD p newPart
/-- A partition's controls changed. -/
def setPart (p : Nat) (f : Part → Part) (s : State) : State := { s with parts := s.parts.modify p f }

/-- An event-log record (R389): written in host memory at its ring position, the first with SEQ 0. -/
def logEvent (part kind queue code : Nat) (data : Word) (s : State) : State :=
  let s := tickClock s
  let p := partOf s part
  let q := p.elSeq
  let w : Word := BitVec.ofNat 64 (code % 65536 * 65536 + queue % 32 * 256 + kind)
  let bs := leBytes 8 q ++ leBytes 8 s.clock ++ leBytes 8 w.toNat ++ leBytes 8 data.toNat
  putHost (p.elBase + 32 * (q % 1024)) bs (setPart part (fun x => { x with elSeq := q + 1 }) s)

/-- Bytes written to a recorder ring from a position on (R392): it wraps at the ring's size. -/
def ringBytes (base size : Nat) : Nat → List Byte → State → State
  | _, [], s => s
  | at_, b :: r, s => ringBytes base size (at_ + 1) r (putHost (base + at_ % size) [b] s)

/-- A number rounded up to a multiple of 16. -/
def pad16 (n : Nat) : Nat := (n + 15) / 16 * 16

/-- A record of the wake recorder (R392), while the partition's record control is set: a head of 16 bytes, and the body
padded to 16 bytes. -/
def recordWake (part kind port : Nat) (body : List Byte) (s : State) : State :=
  let p := partOf s part
  if p.record && p.recSize != 0 then
    let s := tickClock s
    let n := body.length
    let bs := leBytes 8 (n % 65536 * 65536 + port % 256 * 256 + kind) ++ leBytes 8 s.clock ++ body ++
      List.replicate (pad16 n - n) 0
    ringBytes p.recBase p.recSize p.recPos bs (setPart part (fun x => { x with recPos := (x.recPos + 16 + pad16 n) % x.recSize }) s)
  else s

/-- n bytes of a recorder ring from a position. -/
def ringRead (s : State) (p : Part) (at_ n : Nat) : List Byte :=
  (List.range n).map (fun i => tget 0 s.hostMem (p.recBase + (at_ + i) % p.recSize))

/-- A record of a recorder ring at a position (R392): KIND, QUEUE or port, and the length of its body; KIND 0 where the
ring holds none. -/
def recordAt (s : State) (p : Part) (at_ : Nat) : Nat × Nat × Nat :=
  let h := leVal (ringRead s p at_ 8)
  (h % 256, h / 256 % 256, h / 65536 % 65536)

/-- The position after a record with a body of n bytes. -/
def afterRecord (p : Part) (at_ n : Nat) : Nat := (at_ + 16 + pad16 n) % p.recSize

/-- The next record of a kind from a position on (R393): its port, its body, and the position after it. -/
def nextOf (s : State) (p : Part) (kind : Nat) : Nat → Nat → Option (Nat × List Byte × Nat)
  | 0, _ => none
  | fuel + 1, at_ =>
    let r := recordAt s p at_
    if r.1 = 0 then none
    else if r.1 = kind then some (r.2.1, ringRead s p (at_ + 16) r.2.2, afterRecord p at_ r.2.2)
    else nextOf s p kind fuel (afterRecord p at_ r.2.2)

/-- A partition replays a recorder ring (R393). -/
def replaying (p : Part) : Bool := p.replay && p.recSize != 0

/-- A host interrupt with a vector (R418), on behalf of a partition (R392). -/
def raiseInt (part v : Nat) (s : State) : State :=
  recordWake part 4 (if v < 32 then v else 0) (leBytes 8 v) { s with interrupts := s.interrupts ++ [v] }

/-- The interrupts of a partition under replay whose turn has come are raised (R393): those in the recorded order, and, once
the ring records no further one, the rest (DESIGN CHOICE: R393 does not say what becomes of an interrupt that comes out of
the recorded order, or that the ring does not hold; log 62). -/
def raiseTurn (part : Nat) : Nat → State → State
  | 0, s => s
  | n + 1, s =>
    let p := partOf s part
    match p.heldInts with
    | [] => s
    | v :: r =>
      match (if replaying p then nextOf s p 4 (p.recSize / 16) p.replayInt else none) with
      | none => raiseTurn part n (raiseInt part v (setPart part (fun x => { x with heldInts := r }) s))
      | some (_, body, at_) =>
        if p.heldInts.contains (leVal body) then
          raiseTurn part n (raiseInt part (leVal body)
            (setPart part (fun x => { x with heldInts := x.heldInts.erase (leVal body), replayInt := at_ }) s))
        else s

/-- An interrupt whose cause has come (R418): raised at once, but under replay in its turn (R393). -/
def interrupt (part v : Nat) (s : State) : State :=
  if replaying (partOf s part) then
    let s := setPart part (fun x => { x with heldInts := x.heldInts ++ [v] }) s
    raiseTurn part (partOf s part).heldInts.length s
  else raiseInt part v s

/-- A queue by number. -/
def queueAt (s : State) (q : Nat) : Queue := s.queues.getD q newQueue
/-- A queue changed. -/
def setQueue (q : Nat) (f : Queue → Queue) (s : State) : State := { s with queues := s.queues.modify q f }

/-- Packets at the head of a queue whose status word is written: CPL passes them (R371). -/
def passDone : List Pkt → Nat → List Pkt × Nat
  | [], c => ([], c)
  | p :: r, c => if p.written then passDone r (p.seq + p.units) else (p :: r, c)

/-- The status word of a packet is written: CPL advances as far as it may (R371). -/
def passStatus (q seq : Nat) (s : State) : State :=
  setQueue q (fun k =>
    let r := passDone (k.pkts.map (fun x => if x.seq = seq then { x with written := true } else x)) k.cpl
    { k with pkts := r.1, cpl := r.2 }) s

/-- What the Cox does at its turn. A release that must wait keeps its place, and so what follows it. -/
def doHeld (h : HeldWrite) (s : State) : State :=
  match h with
  | .byte a b owner => putPhys owner a [b] s
  | .host a b => putHostRing a [b] s
  | .release => if s.heldWrites.isEmpty && s.hostAcks.isEmpty then s else { s with heldWrites := s.heldWrites ++ [h] }
  | .status q seq => if s.heldWrites.isEmpty then passStatus q seq s else { s with heldWrites := s.heldWrites ++ [h] }
  | .cpl q n => if s.heldWrites.isEmpty then setQueue q (fun k => { k with cpl := n }) s else { s with heldWrites := s.heldWrites ++ [h] }
  | .interrupt part v => if s.heldWrites.isEmpty then interrupt part v s else { s with heldWrites := s.heldWrites ++ [h] }

/-- What the Cox has still to do is tried again, in order. -/
def retryHeld (s : State) : State := s.heldWrites.foldl (fun s h => doHeld h s) { s with heldWrites := [] }

/-- The words of a machine-check record (R363), but for TIME and SEQ: word 0, PADDR, and the word at 0x18. -/
def mcWord0 (owner : BitVec 18) (ndirty : Nat) (otu conf : Bool) (sect : BitVec 4) (ver : BitVec 2)
    (set way slice die kind : Nat) : Word :=
  owner ++ BitVec.ofNat 8 ndirty ++ BitVec.ofBool otu ++ BitVec.ofBool conf ++ sect ++ ver ++ BitVec.ofNat 10 set ++
    BitVec.ofNat 4 way ++ BitVec.ofNat 6 slice ++ BitVec.ofNat 2 die ++ BitVec.ofNat 8 kind

/-- A machine-check record of something detected at a time written or dropped, and announced (R363, R430). -/
def machineCheckAt (time : Nat) (w0 : Word) (pa : Nat) (kv : Bool) (part : Nat) (asid : BitVec 16) (s : State) : State :=
  let kind := w0.toNat % 256
  let seq := s.mcSeq
  let w3 : Word := 0#44 ++ BitVec.ofBool kv ++ BitVec.ofNat 3 part ++ asid
  let s := { s with mcSeq := seq + 1 }
  if s.mcWptr - s.mcCons = 1024 then
    logEvent part 7 0 kind (BitVec.ofNat 64 seq) { s with mcDrops := min (s.mcDrops + 1) (2 ^ 32 - 1) }
  else
    let bs := leBytes 8 w0.toNat ++ leBytes 8 pa ++ leBytes 8 time ++ leBytes 8 w3.toNat ++ leBytes 8 seq ++ leBytes 24 0
    let s := putPhys peerTag (s.mcBase + 64 * (s.mcWptr % 1024)) bs { s with mcWptr := s.mcWptr + 1 }
    doHeld (.interrupt part 33) (logEvent part 7 0 kind (BitVec.ofNat 64 seq) s)

/-- A machine-check record of something detected now. -/
def machineCheck (w0 : Word) (pa : Nat) (kv : Bool) (part : Nat) (asid : BitVec 16) (s : State) : State :=
  let s := tickClock s
  machineCheckAt s.clock w0 pa kv part asid s

/-- The record of a physical access in no region (R96), of kind 4, for a partition (R430). -/
def noRegionCheck (pa part : Nat) (s : State) : State :=
  machineCheck (mcWord0 0 0 false false 0 s.ver 0 0 0 0 4) pa false part 0 s

/-- A fault record of a die (R73): merged with a pending record of the same keys, or new while the buffer of 512 has
room, or counted as dropped. -/
def faultRecord (die : Nat) (asid : BitVec 16) (a : VAddr) (kind : Nat) (s : State) : State :=
  let page := a.toNat / 4096
  if s.faults.any (fun r => r.die = die && r.asid = asid && r.page = page && r.kind = kind) then
    { s with faults := s.faults.map (fun r =>
        if r.die = die && r.asid = asid && r.page = page && r.kind = kind then { r with count := min (r.count + 1) 65535 } else r) }
  else if (s.faults.filter (fun r => r.die = die)).length < 512 then
    { s with faults := s.faults ++ [⟨die, asid, page, kind, 1⟩] }
  else { s with faultDrops := tset 0 s.faultDrops die (tget 0 s.faultDrops die + 1) }

/-- A core's event-queue words, held records included, oldest first. -/
def evWords (s : State) (core : Nat) : List EvWord := s.evq.filter (fun e => e.core = core)

/-- Words of a core's event queue that are not held back: whole records within the 512 words (R92). -/
def evVisible (s : State) (core : Nat) : Nat :=
  let n := (evWords s core).length
  if n ≤ 512 then n else n - 2 * ((n - 512 + 1) / 2)

/-- The matrix engine of a core as an engine that appends records. -/
def arrayEngine (core : Nat) : Nat := 1000 + core

/-- An engine holds a record that does not fit in the 512 words of a core's queue (R92): it starts no further command. -/
def engineHolds (s : State) (eng : Nat) : Bool :=
  s.evq.any (fun e => e.eng = eng && ((evWords s e.core).drop (evVisible s e.core)).contains e)

/-- A completion record appended to a core's event queue by an engine, or held until it fits (R92). -/
def eventPush (eng core slot id src stat bytes : Nat) (addr : VAddr) (s : State) : State :=
  let h := BitVec.ofNat 64 (id % 65536 * 2 ^ 48 + src * 2 ^ 44 + slot * 2 ^ 41 + stat * 2 ^ 32 + min bytes 0xFFFFFFFF)
  { s with evq := s.evq ++ [⟨core, slot, eng, h⟩, ⟨core, slot, eng, addr.setWidth 64⟩] }

end Sys2Proof.Machine
end

