-- ==== Sys2Proof/Machine/Banks.lean ====
section
/-! DEFINITION. SRAM banks (R78 to R80): their modes, and what a switch of mode does. -/
namespace Sys2Proof.Machine

/-- A FIFO bank at its reset values (R88). -/
def resetFifo : Fifo := ⟨4, [], 0, false, false, [], [], 0, false, none⟩
/-- A bank as device reset leaves it (R79): cache mode. -/
def resetBank : Bank := ⟨.cache, none, 0, resetFifo⟩
/-- A bank of a core. -/
def bankOf (s : State) (core b : Nat) : Bank := tget resetBank s.banks (48 * core + b)
/-- A bank of a core changed. -/
def setBank (core b : Nat) (f : Bank → Bank) (s : State) : State :=
  { s with banks := tset resetBank s.banks (48 * core + b) (f (bankOf s core b)) }
/-- The FIFO of a bank changed. -/
def setFifo (core b : Nat) (f : Fifo → Fifo) (s : State) : State := setBank core b (fun x => { x with fifo := f x.fifo }) s

/-- DEPTH: the capacity of a FIFO (R88). -/
def fifoCap (f : Fifo) : Nat := 2 ^ (f.cfg.toNat % 16)
/-- END = 1: a consumer end. -/
def isConsumer (f : Fifo) : Bool := f.cfg.getLsbD 25
/-- LEN = 1. -/
def wantsLink (f : Fifo) : Bool := f.cfg.getLsbD 24
/-- CMODE. -/
def creditMode (f : Fifo) : Nat := f.cfg.toNat / 2 ^ 30
/-- The peer bank that a configuration names (R88): core on the same die, and bank; the core may have moved (R356). -/
def peerOf (core : Nat) (f : Fifo) : Nat × Nat :=
  (f.moved.getD (core / 96 * 96 + f.cfg.toNat / 2 ^ 17 % 8 * 12 + f.cfg.toNat / 2 ^ 20 % 16), f.cfg.toNat / 2 ^ 11 % 64)

/-- A core's scratchpad bytes cleared and their words tagged EMPTY (R80, R166). -/
def clearScratch (core b size : Nat) (s : State) : State :=
  { s with smem := tclear s.smem (core * 0x180000 + b) (core * 0x180000 + b + size),
           tags := tclear s.tags (core * 0x60000 + b / 4) (core * 0x60000 + (b + size) / 4) }

/-- A bank leaves FIFO mode (R80, R91): its items and what is in transit to it are discarded; what is in transit to the
other end goes on, and that end breaks when it has arrived. -/
def leaveFifo (core b : Nat) (s : State) : State :=
  let f := (bankOf s core b).fifo
  let p := peerOf core f
  let s := if f.lnk && (bankOf s p.1 p.2).mode == .fifo && (bankOf s p.1 p.2).fifo.lnk then
      setFifo p.1 p.2 (fun x => { x with left := true }) s
    else s
  setFifo core b (fun _ => resetFifo) s

/-- A bank of a core leaves cache mode (R80): the lines it holds, one way of the L1 (R81), are written back and
invalidated. -/
def leaveCache (core b : Nat) (s : State) : State :=
  (s.copies.filter (fun c => c.client = core && c.way = b && c.r ||| c.w != 0)).foldl (fun s c => evict c s) s

/-- Steps 3 to 5 of R80: a bank takes a mode, for a team slot. -/
def switchBank (core b : Nat) (m : BankMode) (slot : Nat) (s : State) : State :=
  let k := bankOf s core b
  if k.mode == m then setBank core b (fun x => { x with next := none }) s
  else
    let s := if k.mode == .fifo then leaveFifo core b s else if k.mode == .cache then leaveCache core b s else s
    let s := setBank core b (fun x =>
      { x with mode := m, next := none, owner := if m == .fifo then slot else 0, fifo := resetFifo }) s
    if m == .scratch then clearScratch core (0x8000 * b) 0x8000 s else s

end Sys2Proof.Machine
end

