-- ==== Sys2Proof/Machine/Queues.lean ====
section
/-! DEFINITION. Queues: their rings (R365), status words and CPL (R371), queue faults (R370), and the completion of
launches and binds. -/
namespace Sys2Proof.Machine

/-- The physical address of the unit with a sequence (R365). -/
def unitPhys (k : Queue) (seq : Nat) : Nat := k.base + 64 * (seq % 2 ^ k.size)

/-- A physical access of the Cox that meets no region is recorded (R96). -/
def coxCheck (pa part : Nat) (s : State) : State :=
  if (homeCell s.regions pa).isNone then noRegionCheck pa part s else s

/-- Bytes written to a ring. -/
def writeRing (k : Queue) (a : Nat) (bs : List Byte) (s : State) : State :=
  if k.host then putHostRing a bs s else putPhys peerTag a bs (coxCheck a k.part s)

/-- A packet completes (R371): its status word, and once that is written the advance of CPL, and the interrupt that INT asks
for. A packet that CPL has passed gets nothing. -/
def finishPkt (q seq code : Nat) (s : State) : State :=
  let k := queueAt s q
  match k.pkts.find? (fun p => p.seq = seq && p.status.isNone) with
  | none => s
  | some p =>
    let s := writeRing k (unitPhys k seq + 0x38) (leBytes 8 (code + 65536 * seq)) s
    let s := setQueue q (fun k => { k with pkts := k.pkts.map (fun x => if x.seq = seq then { x with status := some code } else x) }) s
    let s := doHeld (.status q seq) s
    if p.int then doHeld (.interrupt k.part q) s else s

/-- A release of the Cox at system scope is complete: what it has written has been, and the host port has acknowledged
everything (R107). -/
def released (s : State) : Bool := s.hostAcks.isEmpty && s.heldWrites.isEmpty

/-- The work of a packet is done (R371): its status word is a release at system scope of the writes of the work, which
waits until the host port has acknowledged what they caused (R107). The first code given stands. -/
def finishWork (q seq code : Nat) (s : State) : State :=
  if released s then finishPkt q seq code s
  else if s.dueStatus.any (fun d => d.1 = q && d.2.1 = seq) then s
  else { s with dueStatus := s.dueStatus ++ [(q, seq, code)] }

/-- The waiting status words written, once the host port has acknowledged everything. -/
def retryStatus (s : State) : State :=
  if released s then s.dueStatus.foldl (fun s d => finishPkt d.1 d.2.1 d.2.2 s) { s with dueStatus := [] } else s

/-- A queue stops with a fault at a sequence (R370, R389). -/
def queueFault (q fault fseq : Nat) (s : State) : State :=
  let k := queueAt s q
  logEvent k.part 1 q fault (BitVec.ofNat 64 fseq)
    (setQueue q (fun k => { k with state := 3, fault := fault, fseq := fseq }) s)

/-- A launch changed. -/
def setLaunch (id : Nat) (f : Launch → Launch) (s : State) : State :=
  { s with launches := s.launches.map (fun l => if l.id = id then f l else l) }

/-- The dies on which a launch holds a reservation (R385). -/
def reservedDies (l : Launch) : List Nat := (l.spans.filter (fun x => !x.resv.isEmpty)).map Span.die

/-- A launch leaves the device with a status (R224, R371): none is written for one that a queue reset passed (R391). -/
def finishLaunch (l : Launch) (code : Nat) (s : State) : State :=
  let s := { s with launches := s.launches.filter (fun x => !(x.id = l.id)) }
  if l.orphan then s else finishWork l.queue l.seq code s

/-- Sequences of the BIND packets of a queue that have not completed. -/
def pendingBinds (k : Queue) : List Pkt := k.pkts.filter (fun p => p.status.isNone && !p.streams.isEmpty)

end Sys2Proof.Machine
end

