-- ==== Sys2Proof/Machine/Context.lean ====
section
/-! DEFINITION. The end of a context (R352, R421) and the freeing of a team's place (R224). -/
namespace Sys2Proof.Machine

/-- A team leaves its core (R224): its extents, its slots of the matrix engine (R320), its copies and event-queue words
(R92) go, and each FIFO bank it owns is switched to cache mode. -/
def freeTeam (core slot : Nat) (s : State) : State :=
  let mine := fun (c t : Nat) => c == core && t == slot
  let own := (List.range 48).filter (fun b => (bankOf s core b).mode == .fifo && (bankOf s core b).owner = slot)
  let s := own.foldl (fun s b => switchBank core b .cache 0 s) s
  { s with teams := s.teams.filter (fun t => !(mine t.core t.slot)),
           slots := s.slots.filter (fun k => !(mine k.core k.team)),
           copyOps := s.copyOps.filter (fun c => !(mine c.core c.slot)),
           evq := s.evq.filter (fun e => !(mine e.core e.slot)) }

/-- The lowest queue of a partition whose ASID register holds an ASID (R389). -/
def queueOfAsid (s : State) (asid : BitVec 16) (part : Nat) : Option Nat :=
  (List.range 32).find? (fun q => (queueAt s q).asid = asid && (queueAt s q).part = part)

/-- The context-end record (R389). -/
def endRecord (code : Nat) (c : BitVec 8) (sub : BitVec 16) (asid : BitVec 16) (part : Nat) (s : State) : State :=
  let q := queueOfAsid s asid part
  let trap := if code = 0x81 || code = 0x82 then c.toNat * 2 ^ 16 + sub.toNat * 2 ^ 24 else 0
  logEvent part 3 (q.getD 0) code (BitVec.ofNat 64 (asid.toNat + trap + if q.isNone then 2 ^ 40 else 0)) s

/-- The BINDs that end with a context (R380): those of its queues, and those a stream of which one of its groups has
taken, resident or not. -/
def endBinds (code : Nat) (asid : BitVec 16) (part : Nat) (s : State) : State :=
  (List.range 32).foldl (fun s q =>
    let k := queueAt s q
    ((pendingBinds k).filter (fun p => (k.asid = asid && k.part = part) ||
        p.streams.any (fun x => x.taker = some (asid, part)))).foldl (fun s p => finishWork q p.seq code s) s) s

/-- The Cox ends a context (R352), and with it the reservations of its candidates (R385): its groups, engine operations and
saved gangs go, its launches complete with the end code, and each running queue of its ASID stops. -/
def endContext (code : Nat) (cause : BitVec 8) (sub : BitVec 16) (asid : BitVec 16) (part : BitVec 3) (s : State) : State :=
  let pn := part.toNat
  let mine := fun (g : Group) => g.asid == asid && g.part == part
  let ls := s.launches.filter (fun l => l.asid = asid && l.part = pn)
  let ts := s.teams.filter (fun t => t.asid = asid && t.part = part)
  let freed := ls.flatMap reservedDies
  let s := { s with
    roundDue := s.roundDue ++ freed,
    groups := s.groups.filter (fun g => !(mine g)),
    cur := if mine s.cur then { s.cur with placed := false } else s.cur,
    saves := s.saves.filter (fun v => !(ls.any (fun l => l.id = v.launch))) }
  let s := ts.foldl (fun s t => freeTeam t.core t.slot s) s
  let s := endRecord code cause sub asid pn s
  let s := endBinds code asid pn s
  let s := ls.foldl (fun s l => finishLaunch l code s) s
  (List.range 32).foldl (fun s q =>
    let k := queueAt s q
    if k.asid = asid && k.part = pn && k.state != 0 then queueFault q 4 k.next s else s) s

end Sys2Proof.Machine
end

