-- ==== Sys2Proof/Machine/Errors.lean ====
section
/-! DEFINITION. Uncorrectable errors in the L2 (R361, R362, R419 to R421): what the slice and the Cox do about one that a
read has found. -/
namespace Sys2Proof.Machine

/-- The partition that the region of a physical address names, or 0 (R430). -/
def pagePart (s : State) (pa : Nat) : Nat := ((regionAt s.regions pa).map regionPart).getD 0

/-- Word 0 of a machine-check record about a line in a way (R363). -/
def wayWord0 (s : State) (line way kind : Nat) (owner : BitVec 18) (ndirty : Nat) (otu conf : Bool) (sect : BitVec 4) : Word :=
  mcWord0 owner ndirty otu conf sect s.ver (line % 1024) way (line / 2 ^ 24 % 64) (line / 2 ^ 24 / 64) kind

/-- Word 0 of a machine-check record about a line where the L2 holds it. -/
def lineWord0 (s : State) (line kind : Nat) (owner : BitVec 18) (ndirty : Nat) (otu conf : Bool) (sect : BitVec 4) : Word :=
  wayWord0 s line (((s.l2.find? (fun e => e.line = line)).map L2Line.way).getD 0) kind owner ndirty otu conf sect

/-- ASIDs of the contexts of a partition, rising (R352): those with a launch. -/
def contextsOf (s : State) (part : Nat) : List Nat :=
  (s.launches.filter (fun l => l.part = part)).foldl (fun t l => (tinsert (terase t l.asid.toNat) l.asid.toNat ())) [] |>.map Prod.fst

/-- Some contexts of a partition end with code 0x84 (R361). -/
def endLost (part : Nat) : List Nat → State → State
  | [], s => s
  | a :: r, s => endLost part r (endContext 0x84 0 0 (BitVec.ofNat 16 a) (BitVec.ofNat 3 part) s)

/-- Step 5 of R361: every line of a way is written back and leaves the L2, and the way leaves replacement. -/
def quarantineWay (line way : Nat) (s : State) : State :=
  let s := (s.l2.filter (fun e => e.line / 2 ^ 24 = line / 2 ^ 24 && e.way = way)).foldl (fun s e => leaveL2 e s) s
  { s with quarantine := (16 * (line / 2 ^ 24) + way) :: s.quarantine }

/-- Steps 5 and 6 of R361, with the record that the earlier steps decided, and that of a slice with no way left. -/
def endLineError (pa line way time : Nat) (w0 : Word) (kv : Bool) (part : Nat) (asid : BitVec 16) (s : State) : State :=
  let s := machineCheckAt time w0 (pa / 128 * 128) kv part asid (quarantineWay line way s)
  if (l2Ways s line).isEmpty then
    machineCheck (mcWord0 0 0 false false 0 s.ver 0 0 (line / 2 ^ 24 % 64) (line / 2 ^ 24 / 64) 7) (pa / 128 * 128) false (pagePart s pa) 0 s
  else s

/-- An error after step 1 of R361: the recalled words have left the line's owner tag as the last of their contexts (R360). -/
def afterRecall (s : State) (x : FoundError) : FoundError :=
  { x with owner := ((s.l2.find? (fun e => e.line = x.sector / 4)).map L2Line.owner).getD x.owner }

/-- The contexts that step 4 of R361 ends: the one that the owner tag names, or every context of the partition where the
tag is lost. -/
def lostContexts (s : State) (x : FoundError) : List Nat :=
  let all := contextsOf s (pagePart s x.pa)
  if x.otu then all
  else if x.owner.extractLsb' 16 2 = 1 then all.filter (fun a => a = x.owner.toNat % 65536) else []

/-- Steps 3 and 4 of R361: the other dirty sectors are written to HBM, the sector is poisoned, the contexts end, and the
page is retired. -/
def loseSector (x : FoundError) (s : State) : State :=
  let line := x.sector / 4
  let dirty := ((s.l2.find? (fun e => e.line = line)).map L2Line.dirty).getD 0 &&& ~~~(BitVec.twoPow 4 (x.sector % 4))
  let s := readSectors line dirty s
  endLost (pagePart s x.pa) (lostContexts s x) { s with
    poison := x.sector :: s.poison, retired := (x.pa / 65536) :: s.retired,
    l2 := s.l2.map (fun e => if e.line = line then { e with dirty := 0 } else e) }

/-- Step 1 of R361: every L1 copy of the line is recalled; the words that came back dirty. -/
def recalledWords (line : Nat) (s : State) : BitVec 32 :=
  (s.copies.filter (fun c => c.line = line)).foldl (fun w c => w ||| c.dirty) 0

/-- An uncorrectable HBM error on a fill (R362): poison in the L2, and a record that names no owner. -/
def fillPoison (x : FoundError) (s : State) : State :=
  let line := x.sector / 4
  let sect := BitVec.twoPow 4 (x.sector % 4)
  let s := l2Touch line sect none { s with poison := x.sector :: s.poison }
  machineCheck (lineWord0 s line 5 0 0 false false sect) (x.pa / 128 * 128) false (pagePart s x.pa) 0 s

/-- What the slice does about an error of the L2 that a read has found (R361), at the time of its detection (R422). A clean
sector, or one that the recalled words cover, loses no data. -/
def recoverSector (x : FoundError) (s : State) : State :=
  let s := tickClock s
  let line := x.sector / 4
  let got := recalledWords line s
  let sect := BitVec.twoPow 4 (x.sector % 4)
  let part := pagePart s x.pa
  let time := s.clock
  let s := recallAll (s.copies.filter (fun c => c.line = line)) s
  let x := afterRecall s x
  let tag := if x.otu then 0 else x.owner
  if !x.dirty || got.extractLsb' (8 * (x.sector % 4)) 8 = 0xFF then
    endLineError x.pa line x.way time (wayWord0 s line x.way 2 tag 0 x.otu false sect) false part 0 s
  else
    let ends := lostContexts s x
    endLineError x.pa line x.way time (wayWord0 s line x.way 1 tag 0 x.otu false sect) (!ends.isEmpty) part
      (if x.otu then 0 else BitVec.ofNat 16 (ends.headD 0)) (loseSector x s)

/-- What the slice does about an error that a read has found. -/
def recoverError (x : FoundError) (s : State) : State := if x.hbm then fillPoison x s else recoverSector x s

/-- Errors that have been found are dealt with one after the other, with fuel for those that their write-backs find. -/
def settleSome : Nat → State → State
  | 0, s => s
  | n + 1, s => match s.found with
    | [] => s
    | x :: r => settleSome n (recoverError x { s with found := r })

/-- Every error that has been found is dealt with. -/
def settleErrors (s : State) : State := settleSome (s.latent.length + s.found.length) s

/-- The slice reads sectors of a line for a request, which is held until what the read finds is dealt with (R361, R419,
R420). -/
def checkSectors (line : Nat) (sec : BitVec 4) (s : State) : State := settleErrors (readSectors line sec s)

/-- Bytes of a mask lie in a poisoned sector or a retired page (R362). -/
def meetsPoison (s : State) (pa line : Nat) (m : LineMask) : Bool :=
  s.retired.contains (pa / 65536) ||
    (List.range 4).any (fun i => (sectorsOf m).getLsbD i && s.poison.contains (4 * line + i))

/-- A port's request that meets poison (R362): a record of kind 6, and nothing else. -/
def portPoison (pa line : Nat) (s : State) : State :=
  machineCheck (lineWord0 s line 6 0 0 false false 0) pa false (pagePart s pa) 0 s

end Sys2Proof.Machine
end

