-- ==== Sys2Proof/Machine/Ops.lean ====
section
/-! DEFINITION. The named operations over the issuing group's registers, the guard and the active lanes, waiting, and
taking a trap and returning from one (R349, R351). -/
namespace Sys2Proof.Machine

/-- What a step answers. -/
abbrev Result := Host.Outcome State Fault Refusal

/-- All 32 lanes. -/
def allLanes : Mask := 0xFFFFFFFF

/-- The issuing group with its register state changed. -/
def updArch (f : Arch → Arch) (s : State) : State := { s with cur := { s.cur with arch := f s.cur.arch } }

/-- The issuing group changed. -/
def updCur (f : Group → Group) (s : State) : State := { s with cur := f s.cur }

/-- SReg(n). -/
def getS (s : State) (n : SReg) : Word := tget 0 s.cur.arch.sregs n.toNat
/-- SReg(n) := v. -/
def setS (n : SReg) (v : Word) (s : State) : State := updArch (fun a => { a with sregs := tset 0 a.sregs n.toNat v }) s

/-- The bits of register n in lane l. -/
def getV (s : State) (n l : Nat) : LaneWord := tget 0 s.cur.arch.vregs (32 * n + l)

/-- Register n of a vector file written in the lanes of a mask. -/
def writeLanes (act : Mask) (n : Nat) (val : Nat → LaneWord) (t : List (Nat × LaneWord)) : List (Nat × LaneWord) :=
  (List.range 32).foldl (fun t l => if act.getLsbD l then tset 0 t (32 * n + l) (val l) else t) t

/-- VReg(l, n) := val l in the lanes of a mask. -/
def setV (act : Mask) (n : Nat) (val : Nat → LaneWord) (s : State) : State :=
  updArch (fun a => { a with vregs := writeLanes act n val a.vregs }) s

/-- The mask of the lanes where a condition holds. -/
def laneMask (P : Nat → Bool) : Mask :=
  (List.range 32).foldl (fun m l => if P l then m ||| BitVec.twoPow 32 l else m) 0

/-- The lanes of a mask, lowest first. -/
def lanesOf (m : Mask) : List Nat := (List.range 32).filter m.getLsbD

/-- The lowest lane of a mask (0 for none). -/
def lowLane (m : Mask) : Nat := (lanesOf m).headD 0

/-- Predicate p as a lane mask: `p7` is true in every lane (R12). -/
def getP (s : State) (p : PReg) : Mask := if p = 7 then allLanes else tget 0 s.cur.arch.preds p.toNat

/-- Predicate p written in the lanes of a mask: a write to `p7` has no effect (R12). -/
def setP (act : Mask) (p : PReg) (val : Mask) (s : State) : State :=
  if p = 7 then s
  else updArch (fun a => { a with preds := tset 0 a.preds p.toNat ((tget 0 a.preds p.toNat &&& ~~~act) ||| (val &&& act)) }) s

/-- The lanes where the guard holds (R14). -/
def guardMask (s : State) : Mask := if s.cur.guard.neg then ~~~(getP s s.cur.guard.p) else getP s s.cur.guard.p

/-- The group is in crew mode (R291). -/
def inCrew (s : State) : Bool := s.cur.crew.isSome

/-- Active() (R19): the lanes where `em` is set and the guard holds; in crew mode all lanes or none (R293). -/
def active (s : State) : Mask :=
  if inCrew s then (if (guardMask s).getLsbD 0 then allLanes else 0) else s.cur.arch.em &&& guardMask s

/-- The lanes that a group-wide trap names: `em`, and every lane in crew mode (R268, R305). -/
def groupMask (s : State) : Mask := if inCrew s then allLanes else s.cur.arch.em

/-- The program counter moved past an instruction of n bytes; a wait is over. -/
def advance (n : Nat) (s : State) : State :=
  updCur (fun g => { g with arch := { g.arch with pc := g.arch.pc + BitVec.ofNat 57 n }, since := 0, wait := none, came := none }) s

/-- Continues at an address. -/
def goto (a : VAddr) (s : State) : State :=
  updCur (fun g => { g with arch := { g.arch with pc := a }, since := 0, wait := none, came := none }) s

/-- The kind of a wait: its constructor. -/
def waitKind : Wait → Nat
  | .tag _ _ => 0 | .fifo _ _ _ => 1 | .object _ _ => 2 | .mwait => 3 | .bar _ => 4 | .queue _ _ _ => 5 | .engine => 6
  | .spill _ => 7 | .bump _ _ => 8 | .table => 9 | .commit => 10 | .bank _ => 11 | .free _ => 12 | .fence => 13 | .drain => 14
  | .posted => 15 | .held _ => 16 | .disarm _ => 17 | .arrive => 18

/-- The group already waits in a wait of the same kind. -/
def sameWait (w : Wait) (s : State) : Bool := s.cur.since != 0 && (s.cur.wait.map waitKind == some (waitKind w))

/-- The instruction at the pc waits and restarts later. A wait that goes on keeps its place in the order of R86; one of
another kind begins now. -/
def block (w : Wait) (s : State) : State :=
  if !(sameWait w s) then { s with cur := { s.cur with wait := some w, since := s.tick + 1 }, tick := s.tick + 1 }
  else { s with cur := { s.cur with wait := some w } }

/-- The next free values (log 6). -/
def nextFree (s : State) : State := { s with free := s.free + 1 }

/-- The cause codes of R348. -/
def causeCode : Cause → BitVec 8
  | .illegal => 0x01 | .translation => 0x02 | .allocation => 0x03 | .alignment => 0x04 | .tagSpace => 0x05
  | .fifoAccess => 0x06 | .fifoConfig => 0x07 | .bankInUse => 0x08 | .registerRange => 0x09 | .reconvergence => 0x0A
  | .roleState => 0x0B | .lanePartition => 0x0C | .arithmetic => 0x0D | .illegalScope => 0x0E | .objectValue => 0x0F
  | .monitorSpace => 0x10 | .descriptor => 0x11 | .blockSpace => 0x12 | .blockAlignment => 0x13 | .crewState => 0x14
  | .crewConfig => 0x15 | .queueState => 0x16 | .streamMismatch => 0x17 | .matrixState => 0x18 | .matrixConfig => 0x19
  | .softwareTrap => 0x1A | .breakpoint => 0x1B | .trapState => 0x1C | .specialRegister => 0x1D | .privilege => 0x1E
  | .enqueueTarget => 0x1F | .poison => 0x20

/-- MASK of `tcause` (R347). -/
def masked (g : Group) : Bool := g.tcause.getLsbD 33

/-- `tcause` as trap entry writes it: MASK 1, CREW, SUB, CAUSE (R347). -/
def causeWord (crew : Bool) (c : Cause) (sub : BitVec 16) : Word :=
  0#30 ++ 1#1 ++ BitVec.ofBool crew ++ sub ++ 0#8 ++ causeCode c

/-- The handler address in `tvec`: bits [56:2] (R347). -/
def handlerOf (g : Group) : VAddr := g.tvec.setWidth 57 &&& ~~~3#57

/-- The scalar registers s56 to s63 (R349). -/
def topScalars (a : Arch) : List Word := (List.range 8).map (fun k => tget 0 a.sregs (56 + k))

/-- An entry of a queue table (R294) that is not defined. -/
def noQueue : QueueEntry := ⟨false, 0, 0, 0, 0, 0, 0, 0, 0⟩

/-- A group's queue by handle. -/
def queueOf (g : Group) (q : Nat) : QueueEntry := g.queues.getD q noQueue

/-- The items that become visible, and those that do not (R295): an item that has landed is visible unless one reserved
ahead of it in its queue is not. -/
def settle (held : List Nat) : List CrewItem → List CrewItem × List CrewItem
  | [] => ([], [])
  | x :: xs =>
    if x.lands = 0 && !(held.contains x.q) then
      let r := settle held xs
      (x :: r.1, r.2)
    else
      let r := settle (x.q :: held) xs
      (r.1, x :: r.2)

/-- A landed item writes its slot register in the queue's home lane; a token writes none (R295). -/
def landItem (g : Group) (t : List (Nat × LaneWord)) (x : CrewItem) : List (Nat × LaneWord) :=
  let e := queueOf g x.q
  if x.isTok || x.lands != 0 then t else tset 0 t (32 * (e.base + x.slot) + e.home) x.val

/-- An item becomes visible: it moves from PEND to FULL, and its slot's TOK bit says whether it is a token (R294, R295). -/
def showItem (qs : List QueueEntry) (x : CrewItem) : List QueueEntry :=
  qs.modify x.q (fun e =>
    { e with full := e.full + 1, pend := e.pend - 1,
             tok := if x.isTok then e.tok ||| BitVec.twoPow 16 x.slot else e.tok &&& ~~~(BitVec.twoPow 16 x.slot) })

/-- Every item of a crew that has landed is written and, where it can be, made visible (R295). -/
def landed (g : Group) : Group :=
  match g.crew with
  | none => g
  | some c =>
    let r := settle [] c.infl
    { g with arch := { g.arch with vregs := c.infl.foldl (landItem g) g.arch.vregs },
             queues := r.1.foldl showItem g.queues, crew := some { c with infl := r.2 } }

/-- Every reserved result of a crew lands (R305, R306). -/
def landAll (g : Group) : Group :=
  landed { g with crew := g.crew.map (fun c => { c with infl := c.infl.map (fun x => { x with lands := 0 }) }) }

/-- Trap entry (R349): in crew mode the reserved results have landed and the crew stops (R305). It ends the context under MASK = 1 or without a handler; otherwise writes the trap registers, saves
the shadow and continues at the handler, in SIMT mode over the live lanes and one lane set. -/
def takeTrap (t : TrapInfo) (s : State) : State :=
  let g := landAll s.cur
  if masked g then endContext 0x82 (causeCode t.cause) t.sub g.asid g.part s
  else if handlerOf g = 0 then endContext 0x81 (causeCode t.cause) t.sub g.asid g.part s
  else
    let a := g.arch
    let a' := if g.crew.isSome then { a with pc := handlerOf g }
      else { a with pc := handlerOf g, em := a.live, lpart := 5 }
    { s with cur := { g with
        tcause := causeWord g.crew.isSome t.cause t.sub, tlm := t.lm, taddr := t.addr, tepc := t.epc.setWidth 64,
        shadow := ⟨a.em, a.lpart, topScalars a, a.stack.length⟩, arch := a',
        crew := g.crew.map (fun c => { c with stopped := true }), wait := none, since := 0, pend := none, came := none } }

/-- A trap of the group must wait: while a fence is incomplete (R134), and in crew mode until the earlier stream stores
are performed (R305). -/
def trapWaits (g : Group) : Bool := g.fence.isSome || (g.crew.isSome && !g.posted.isEmpty)

/-- A trap raised by the instruction at the pc, taken at once or as soon as it need not wait. -/
def raise (t : TrapInfo) (s : State) : State :=
  if trapWaits s.cur then updCur (fun g => { g with pend := some (g.pend.getD t) }) s
  else takeTrap t s

/-- A group-wide trap of the instruction at the pc: `tlm` is `em` (R268). -/
def raiseGroup (c : Cause) (addr : Word) (s : State) : State := raise ⟨c, 0, groupMask s, addr, s.cur.arch.pc⟩ s

/-- A group-wide trap whose entry names no address or value for `taddr`: the value is free (log 21). -/
def raiseOpen (c : Cause) (s : State) : State := raiseGroup c (Config.freeWord s.free) (nextFree s)

/-- The state after `tret` (R351): `em`, `lpart` and s56 to s63 from the shadow, the reconvergence stack cut to the
shadowed depth, MASK cleared, the pc at `tepc`; a crew runs again. -/
def returnTrap (s : State) : State :=
  let g := s.cur
  let sh := g.shadow
  let a := g.arch
  { s with cur := { g with
      tcause := g.tcause &&& ~~~(1#64 <<< 33),
      arch := { a with
        pc := g.tepc.setWidth 57, em := sh.em &&& a.live, lpart := sh.lpart,
        sregs := tsetList 0 a.sregs 56 sh.sregs,
        stack := a.stack.drop (a.stack.length - sh.depth) },
      crew := g.crew.map (fun c => { c with stopped := false }), since := 0, wait := none, came := none } }

/-- An instruction that is no part of a crew's control stream (R293). -/
def notCrew (s : State) (k : State → State) : State :=
  if inCrew s then raiseOpen .crewState s else k s

/-- The least of a list of register numbers that lies at or above the allotment. -/
def lowestOut (allot : Nat) : List Nat → Option Nat
  | [] => none
  | r :: rs =>
    match lowestOut allot rs with
    | some q => some (if allot ≤ r then min r q else q)
    | none => if allot ≤ r then some r else none

/-- The register check of R231, made before guards and `em` are applied. -/
def regCheck (named : List Nat) (s : State) (k : State → State) : State :=
  match lowestOut s.cur.allot named with
  | some r => raise ⟨.registerRange, 0, groupMask s, BitVec.ofNat 64 r, s.cur.arch.pc⟩ s
  | none => k s

/-- An instruction that waits for an incomplete fence (R131). -/
def afterFence (s : State) (k : State → State) : State :=
  if s.cur.fence.isSome then block .fence s else k s

/-- The group runs on as it was: it has not rolled back (R132), and its context has not ended (R352). -/
def stillRuns (g : Group) (s : State) : Bool := s.cur.rbk == g.rbk && s.cur.placed == g.placed

/-- What an instruction does after a part of it that could roll its group back or end its context: nothing then. -/
def ifRuns (g : Group) (s : State) (k : State → State) : State := if stillRuns g s then k s else s

/-- An instruction that acts once for the group, of n bytes: without an active lane it only advances (R155, R268). -/
def onceForGroup (n : Nat) (s : State) (k : State → State) : State :=
  if active s = 0 then advance n s else k s

end Sys2Proof.Machine
end

