-- ==== Sys2Proof/Machine/Operands.lean ====
section
/-! DEFINITION. Operand forms: how registers, pairs, literals and addresses are read (R13, R32, R33, R190). -/
namespace Sys2Proof.Machine

/-- The registers a type's operand names: a pair for a 64-bit type (R32, R190). -/
def regsOf (t : Ty) (r : VReg) : List Nat := if tyBits t = 64 then [r.toNat, r.toNat + 1] else [r.toNat]

/-- The value of a vector operand in lane l as the bits of its type (R190): a pair for 64 bits, the low bits for a
narrow type. -/
def laneVal (s : State) (t : Ty) (r : VReg) (l : Nat) : Nat :=
  if tyBits t = 64 then (getV s r.toNat l).toNat + (getV s (r.toNat + 1) l).toNat * 2 ^ 32
  else (getV s r.toNat l).toNat % 2 ^ tyBits t

/-- The value of a literal operand (R33): sign-extended for `.i64`, zero-extended for `.n64` and `.b64`, otherwise the
bit pattern in the low bits. -/
def litVal (t : Ty) (lit : BitVec 32) : Nat :=
  match t with
  | .i64 => (lit.signExtend 64).toNat
  | .n64 | .b64 => lit.toNat
  | _ => lit.toNat % 2 ^ tyBits t

/-- Word i of a result (R190): the low word stands in the even register. -/
def wordOf (v i : Nat) : LaneWord := BitVec.ofNat 32 (v / 2 ^ (32 * i))

/-- The immediate of layout F32-I, sign-extended (R28). -/
def imm6 (i : BitVec 6) : Word := i.signExtend 64
/-- The immediate of a shift in layout F32-I, unsigned (R28). -/
def imm6u (i : BitVec 6) : Word := i.setWidth 64
/-- A scalar literal, sign-extended (R33, R42). -/
def simm (l : BitVec 32) : Word := l.signExtend 64

/-- The 57-bit address of lane l (R13): SReg(B) + ZeroExt(VReg(l, X)) + SignExt(imm), modulo 2^57. -/
def laneAddr (s : State) (b : MBase) (off : BitVec 32) (l : Nat) : VAddr :=
  let x : Word := match b.vx with
    | some r => (getV s r.toNat l).setWidth 64
    | none => 0
  (getS s b.sb + x + off.signExtend 64).setWidth 57

/-- The vector registers that a memory operand names. -/
def baseRegs (b : MBase) : List Nat :=
  match b.vx with
  | some r => [r.toNat]
  | none => []

end Sys2Proof.Machine
end

