-- ==== Sys2Proof/Machine/Combine.lean ====
section
/-! DEFINITION. The operations of atomics, reductions and scans on bit patterns (R169, R172, R173, R264). -/
namespace Sys2Proof.Machine

/-- A sum in `.f32`, rounded to nearest, or an integer sum modulo 2^w (R169, R264): the result and its flags. -/
def sumOp (t : Ty) (a b : Nat) : Nat × FlagSet :=
  if t == .f32 then floatAdd fmtF32 .rn a b else ((a + b) % 2 ^ tyBits t, 0)

/-- The operation of a `red`, `redl` or `scan` (R169, R173, R264): the result and its flags. -/
def redOpFl (op : RedOp) (t : Ty) (a b : Nat) : Nat × FlagSet :=
  match op with
  | .add => sumOp t a b
  | .min => (if intOf t a ≤ intOf t b then a else b, 0)
  | .max => (if intOf t a ≤ intOf t b then b else a, 0)
  | .and => (a &&& b, 0)
  | .or => (a ||| b, 0)
  | .xor => (a ^^^ b, 0)

/-- The value of a `red` operation (R173). -/
def redVal (op : RedOp) (t : Ty) (a b : Nat) : Nat := (redOpFl op t a b).1

/-- Op(old, v) of an atomic, with the desired value e of `acas` (R169). -/
def atomVal (op : AtomOp) (t : Ty) (old v e : Nat) : Nat :=
  match op with
  | .add => (sumOp t old v).1
  | .min => redVal .min t old v
  | .max => redVal .max t old v
  | .and => old &&& v
  | .or => old ||| v
  | .xor => old ^^^ v
  | .xchg => v
  | .cas => if old = v then e else old
  | .inc => if old = 2 ^ tyBits t - 1 then old else old + 1

/-- One level of the tree of R173: adjacent pairs, an unpaired last element kept. -/
def treeLevel (op : RedOp) (t : Ty) : List Nat → List Nat × FlagSet
  | a :: b :: r =>
    let h := redOpFl op t a b
    let q := treeLevel op t r
    (h.1 :: q.1, h.2 ||| q.2)
  | l => (l, 0)

/-- The tree of R173, level after level, with fuel for the levels: the one element left, and the flags of all nodes. -/
def treeFold (op : RedOp) (t : Ty) : Nat → List Nat → Nat × FlagSet
  | 0, l => (l.headD 0, 0)
  | k + 1, l =>
    if l.length ≤ 1 then (l.headD 0, 0)
    else
      let q := treeLevel op t l
      let r := treeFold op t k q.1
      (r.1, q.2 ||| r.2)

/-- The tree over at most 32 values. -/
def treeOf (op : RedOp) (t : Ty) (l : List Nat) : Nat × FlagSet := treeFold op t 6 l

/-- The inclusive scan of a list (R264): the values after the first, and the flags of its nodes. -/
def scanFrom (op : RedOp) (t : Ty) (acc : Nat) : List Nat → List Nat × FlagSet
  | [] => ([], 0)
  | a :: r =>
    let h := redOpFl op t acc a
    let q := scanFrom op t h.1 r
    (h.1 :: q.1, h.2 ||| q.2)

/-- The inclusive scan (R264). -/
def scanList (op : RedOp) (t : Ty) : List Nat → List Nat × FlagSet
  | [] => ([], 0)
  | a :: r => let q := scanFrom op t a r; (a :: q.1, q.2)

/-- The identity of an exclusive scan (R264). -/
def scanIdentity (op : RedOp) (t : Ty) : Nat :=
  match op with
  | .add | .or | .xor => 0
  | .and => 0xFFFFFFFF
  | .min => if t == .i32 then 0x7FFFFFFF else 0xFFFFFFFF
  | .max => if t == .i32 then 0x80000000 else 0

end Sys2Proof.Machine
end

