-- ==== Sys2Proof/Machine/Translate.lean ====
section
/-! DEFINITION. Windows (R57 to R59), page tables (R60 to R64), TLBs (R65), ASIDs (R66 to R70) and `Translate`
(R71). -/
namespace Sys2Proof.Machine

/-- On whose behalf an address is translated: core, ASID, partition, team slot, cores of the cluster (R58, R66). -/
structure Who where
  core : Nat
  asid : BitVec 16
  part : BitVec 3
  slot : Nat
  nteam : Nat
  deriving DecidableEq, Repr

/-- The issuing group as an accessor. -/
def whoOf (g : Group) : Who := ⟨g.core, g.asid, g.part, g.slot, g.idx.nteam⟩

/-- The kinds of access of R71. An engine operation reads or writes. -/
inductive AccKind where
  | load | store | atomic | fetch | engineRead | engineWrite
  deriving DecidableEq, Repr

/-- The access writes (R71). -/
def kindWrites : AccKind → Bool
  | .store | .atomic | .engineWrite => true
  | .load | .fetch | .engineRead => false

/-- The access is an engine's, which has no first-level TLB (R65). -/
def ofEngine : AccKind → Bool
  | .engineRead | .engineWrite => true
  | .load | .store | .atomic | .fetch => false

/-- A result of `Translate`: a fault kind (1 to 7; 0 stands for "poison"), where the address leads, or that the walk
waits: for a line (R102), for a commit (R113), or for good since its context has ended (R420). -/
inductive Xlat where
  | fault (kind : Nat)
  | ok (loc : Loc)
  | wait
  deriving DecidableEq, Repr

/-- First local address (R57). -/
def localBase : Nat := 0x1FF000000000000

/-- The team of a core and slot. -/
def teamAt (s : State) (core slot : Nat) : Option Team := s.teams.find? (fun t => t.core = core && t.slot = slot)

/-- The team of the same launch on cluster core c (R58, R83). -/
def clusterTeam (w : Who) (c : Nat) (s : State) : Option Team :=
  (teamAt s w.core w.slot).bind (fun me =>
    s.teams.find? (fun t => t.launch = me.launch && t.span = me.span && t.cluster = me.cluster && t.pos = c))

/-- A local address (R58). -/
def localLoc (w : Who) (o : Nat) (s : State) : Xlat :=
  if o < 0x180000 then .ok (.smem w.core o)
  else if 0x100000000 ≤ o && o < 0x101800000 then
    let c := (o - 0x100000000) / 0x200000
    let off := (o - 0x100000000) % 0x200000
    if c < w.nteam && off < 0x180000 then
      match clusterTeam w c s with
      | some t => .ok (.smem t.core off)
      | none => .ok .absent
    else .fault 1
  else if 0x200000000 ≤ o && o < 0x200180000 then .ok (.fifo ((o - 0x200000000) / 0x8000))
  else .fault 1

/-- log2 of the page size of a size code (R62); 0 for a code that is not accepted. -/
def sizeLog (code : Nat) : Nat := [12, 14, 16, 18, 20, 21, 24, 26, 28, 30].getD code 0

/-- The level at which a size code may stand (R60, R62). -/
def sizeLevel (code : Nat) : Nat := if code ≤ 4 then 0 else if code ≤ 8 then 1 else if code = 9 then 2 else 9

/-- Bits of a page-table entry. -/
def pteBits (x : BitVec 64) (lo n : Nat) : Nat := x.toNat / 2 ^ lo % 2 ^ n

/-- An entry that breaks R61 or R62 at a level. -/
def badPte (lev : Nat) (x : BitVec 64) : Bool :=
  if x.getLsbD 1 then
    pteBits x 60 4 != 0 || x.getLsbD 5 || pteBits x 10 2 == 3 || (pteBits x 10 2 != 1 && pteBits x 52 8 != 0)
      || sizeLevel (pteBits x 6 4) != lev || pteBits x 12 40 * 4096 % 2 ^ sizeLog (pteBits x 6 4) != 0
  else lev == 0 || pteBits x 52 12 != 0 || pteBits x 2 10 != 0

/-- A TLB entry matches an access (R65). -/
def tlbHit (w : Who) (gen : BitVec 16) (a : VAddr) (e : TlbEntry) : Bool :=
  e.asid == w.asid && e.gen == gen && e.base ≤ a.toNat && a.toNat < e.base + e.size && e.leaf.getLsbD 1

/-- A table of entries with owners after a fill: the owner's entries in order of fill, at most n. -/
def tlbInsert (n owner : Nat) (e : TlbEntry) (t : List (Nat × TlbEntry)) : List (Nat × TlbEntry) :=
  (owner, e) :: (t.filter (fun x => x.1 = owner)).take (n - 1) ++ t.filter (fun x => !(x.1 = owner))

/-- The die of a core. -/
def dieOf (core : Nat) : Nat := core / 96

/-- What a look-up of an address gives: a fault kind, that the walk waits, or the leaf with its page, and the pointer
entries read on the way. -/
inductive Walked where
  | fault (kind : Nat)
  | wait
  | leaf (e : TlbEntry) (ptrs : List TlbEntry)
  deriving DecidableEq, Repr

/-- Teams of the context that requests stand on the device. -/
def contextStands (w : Who) (s : State) : Bool := s.teams.any (fun t => t.asid == w.asid && t.part == w.part)

/-- The context that requests has ended in between (R352, R420). -/
def goneIn (w : Who) (s s1 : State) : Bool :=
  (s.cur.placed && !s1.cur.placed && w == whoOf s.cur) || (contextStands w s && !(contextStands w s1))

/-- A walk's read of 8 bytes at their home slice, uncached (R64, R102): none while it waits; all ones where no region
holds the address (R96), and where it meets poison (DESIGN CHOICE: no rule says what a walk reads there; log 75). -/
def walkRead (w : Who) (a : Nat) (s : State) : State × Option Nat :=
  match homeCell s.regions a with
  | none => if s.commitPend then (s, none) else (noRegionCheck a w.part.toNat s, some (2 ^ 64 - 1))
  | some cell =>
    let line := cell / 128
    let m := maskRange (cell % 128) 8
    if lineBusy s line then (s, none)
    else
      let s1 := checkSectors line (sectorsOf m) s
      if goneIn w s s1 then (s1, none)
      else if cellPoisoned s1 cell 8 then (s1, some (2 ^ 64 - 1))
      else
        let s2 := homeServe line m s1
        (s2, some (leVal (tbytes s2.mem cell 8)))

/-- A die's cached ASID-table entry replaced (R70). -/
def cacheRoot (die : Nat) (w : Who) (gen : BitVec 16) (r : Nat) (s : State) : State :=
  { s with asidCache := (die, ⟨w.asid, gen, 0, 0, BitVec.ofNat 64 r⟩) ::
      s.asidCache.filter (fun x => !(x.1 = die && x.2.asid = w.asid)) }

/-- The root of an ASID's tables (R67, R70): from a die's cached entry of the current generation, or from the table in
device memory; where an entry is cached, either (log 6). None while the read waits. -/
def rootOf (w : Who) (gen : BitVec 16) (s : State) : State × Option Nat :=
  let die := dieOf w.core
  let read := fun (s : State) =>
    match walkRead w (s.asidBase.toNat + 16 * w.asid.toNat) s with
    | (s, none) => (s, none)
    | (s, some v) => (cacheRoot die w gen (v / 4096 % 2 ^ 40 * 4096) s, some (v / 4096 % 2 ^ 40 * 4096))
  match s.asidCache.find? (fun x => x.1 = die && x.2.asid = w.asid && x.2.gen = gen) with
  | some c => if Config.freeBit s.free then (nextFree s, some c.2.leaf.toNat) else read (nextFree s)
  | none => read s

/-- The second level's pointer entry of an address at a level (R65). -/
def pointerAt (w : Who) (gen : BitVec 16) (base span : Nat) (s : State) : Option TlbEntry :=
  (s.tlb2.find? (fun x => x.1 = dieOf w.core && x.2.asid == w.asid && x.2.gen == gen && x.2.base == base &&
    x.2.size == span && !(x.2.leaf.getLsbD 1))).map Prod.snd

/-- The walk from a level down (R71): each entry from the second-level TLB where it is cached there (R65), else read
at its home; `ps` are the pointer entries read so far. -/
def walk (w : Who) (gen : BitVec 16) (a : VAddr) : Nat → Nat → List TlbEntry → State → State × Walked
  | 0, _, _, s => (s, .fault 3)
  | lev + 1, t, ps, s =>
    let span := 2 ^ (12 + 9 * lev)
    let base := a.toNat / span * span
    match pointerAt w gen base span s with
    | some p => walk w gen a lev (pteBits p.leaf 12 40 * 4096) ps s
    | none =>
      match walkRead w (t + 8 * (a.toNat / span % 512)) s with
      | (s, none) => (s, .wait)
      | (s, some v) =>
        let x : BitVec 64 := BitVec.ofNat 64 v
        if !(x.getLsbD 0) then (s, .fault 2)
        else if badPte lev x then (s, .fault 3)
        else if x.getLsbD 1 then
          let size := 2 ^ sizeLog (pteBits x 6 4)
          (s, .leaf ⟨w.asid, gen, a.toNat / size * size, size, x⟩ ps)
        else walk w gen a lev (pteBits x 12 40 * 4096) (⟨w.asid, gen, base, span, x⟩ :: ps) s

/-- A core's first-level TLB filled with an entry (R65). -/
def fillTlb1 (core : Nat) (e : TlbEntry) (s : State) : State := { s with tlb1 := tlbInsert 256 core e s.tlb1 }

/-- A die's second-level TLB filled with entries, the first last (R65). -/
def fillTlb2 (die : Nat) (es : List TlbEntry) (s : State) : State :=
  { s with tlb2 := es.foldr (tlbInsert 16384 die) s.tlb2 }

/-- The TLB entry of an address (R65, R71): first level, second level, or a walk that fills both; a walk that ends in a
fault fills none. An engine's access knows the second level only. -/
def lookup (w : Who) (k : AccKind) (a : VAddr) (s : State) : State × Walked :=
  let gen := tget 0 s.gens w.asid.toNat
  let first := fun (e : TlbEntry) (s : State) => if ofEngine k then s else fillTlb1 w.core e s
  match s.tlb1.find? (fun x => x.1 = w.core && !(ofEngine k) && tlbHit w gen a x.2) with
  | some e => (s, .leaf e.2 [])
  | none =>
    match s.tlb2.find? (fun x => x.1 = dieOf w.core && tlbHit w gen a x.2) with
    | some e => (first e.2 s, .leaf e.2 [])
    | none =>
      match rootOf w gen s with
      | (s, none) => (s, .wait)
      | (s, some t) =>
        match walk w gen a 5 t [] s with
        | (s, .leaf e ps) => (first e (fillTlb2 (dieOf w.core) (e :: ps) s), .leaf e [])
        | r => r

/-- The target code that a window's pages must have (R57, R61). -/
def windowTarget (a : VAddr) : Nat :=
  if a.toNat < 0x100000000000000 then 0 else if a.toNat < 0x180000000000000 then 1 else 2

/-- The checks of R71 after the leaf is found, and where the address leads. -/
def leafLoc (w : Who) (k : AccKind) (a : VAddr) (e : TlbEntry) (s : State) : Xlat :=
  let frame := pteBits e.leaf 12 40 * 4096
  let target := pteBits e.leaf 10 2
  let pa := frame + a.toNat % e.size
  if target != windowTarget a then .fault 4
  else if target == 0 && !(coveredBy s.regions w.part.toNat (frame + e.size) 40 frame) then .fault 5
  else if kindWrites k && !(e.leaf.getLsbD 2) then .fault 6
  else if k == .fetch && !(e.leaf.getLsbD 3) then .fault 7
  else if target = 0 then .ok (.dev pa (e.leaf.getLsbD 4))
  else if target = 1 then .ok (.peer (pteBits e.leaf 52 8) pa)
  else .ok (.host pa)

/-- `Translate(a, k)` (R71). -/
def translate (w : Who) (k : AccKind) (a : VAddr) (s : State) : State × Xlat :=
  let n := a.toNat
  if 0x1C0000000000000 ≤ n && n < localBase then (s, .fault 1)
  else if k == .fetch && 0x100000000000000 ≤ n then (s, .fault 7)
  else if localBase ≤ n then (s, localLoc w (n - localBase) s)
  else
    match lookup w k a s with
    | (s, .fault f) => (s, .fault f)
    | (s, .wait) => (s, .wait)
    | (s, .leaf e _) => (s, leafLoc w k a e s)

/-- A device address in a retired page (R362). -/
def inRetired (s : State) (l : Loc) : Bool :=
  match l with
  | .dev pa _ => s.retired.contains (pa / 65536)
  | _ => false

/-- `Translate` with the check for retired pages of stage 1 of R154: kind 0 stands for "poison". -/
def translateP (w : Who) (k : AccKind) (a : VAddr) (s : State) : State × Xlat :=
  match translate w k a s with
  | (s, .ok l) => if inRetired s l then (s, .fault 0) else (s, .ok l)
  | r => r

/-- Translation of n bytes from an address: the first byte decides, and the page of the last byte where the access
crosses a 4 KiB boundary (R159). Answers the locations in both pages, or the fault with the address that met it. -/
def translateSpan (w : Who) (k : AccKind) (a : VAddr) (n : Nat) (s : State) : State × Xlat × Xlat × VAddr :=
  match translateP w k a s with
  | (s, .fault f) => (s, .fault f, .fault f, a)
  | (s, .wait) => (s, .wait, .wait, a)
  | (s, .ok l) =>
    let b := a + BitVec.ofNat 57 (n - 1)
    if a.toNat / 4096 = b.toNat / 4096 then (s, .ok l, .ok l, a)
    else
      let p := BitVec.ofNat 57 (b.toNat / 4096 * 4096)
      match translateP w k p s with
      | (s, .fault f) => (s, .fault f, .fault f, p)
      | (s, .wait) => (s, .wait, .wait, a)
      | (s, .ok l2) => (s, .ok l, .ok l2, a)

/-- A location moved by some bytes. -/
def locAdd (l : Loc) (i : Nat) : Loc :=
  match l with
  | .dev pa t => .dev (pa + i) t
  | .peer d pa => .peer d (pa + i)
  | .host pa => .host (pa + i)
  | .smem c o => .smem c (o + i)
  | .fifo b => .fifo b
  | .absent => .absent

/-- The locations of the n bytes of an access from address a, given those of its first page and of its second. -/
def spanLocs (a : VAddr) (n : Nat) (l1 l2 : Loc) : List Loc :=
  (List.range n).map (fun i =>
    let left := 4096 - a.toNat % 4096
    if i < left then locAdd l1 i else locAdd l2 (i - left))

/-- Bytes a to a + n - 1 of a core's scratchpad lie in one extent of a team (R83). -/
def inExtent (t : Option Team) (off n : Nat) : Bool :=
  match t with
  | none => false
  | some t => t.exts.any (fun e => e.base ≤ off && off + n ≤ e.base + e.size)

/-- The check of R83 on a local access: the accessing team for the own scratchpad window, the team of the same launch
on cluster core c for the cluster window. -/
def allocOk (w : Who) (a : VAddr) (n : Nat) (s : State) : Bool :=
  let o := a.toNat - localBase
  if o < 0x180000 then inExtent (teamAt s w.core w.slot) o n
  else if 0x100000000 ≤ o && o < 0x101800000 then
    inExtent (clusterTeam w ((o - 0x100000000) / 0x200000) s) ((o - 0x100000000) % 0x200000) n
  else true

end Sys2Proof.Machine
end

