-- ==== Sys2Proof/Machine/Access.lean ====
section
/-! DEFINITION. One access at its target: reads, writes and read-modify-writes of device memory, peer memory, host
memory and scratchpads (R97 to R109, R171, R362, R413), and the check stages of a memory instruction (R154). -/
namespace Sys2Proof.Machine

/-- A location as a key, in the device of a number: accesses to one byte have equal keys. The peer window looped back leads
to the device's own memory (R413). -/
def locKey (devno : Nat) (l : Loc) : Nat × Nat :=
  match l with
  | .dev pa _ => (0, pa)
  | .peer d pa => if d = devno then (0, pa) else (1, d * 2 ^ 52 + pa)
  | .host pa => (2, pa)
  | .smem c o => (3, c * 0x180000 + o)
  | .fifo b => (4, b)
  | .absent => (5, 0)

/-- The access leads to tracked device memory. -/
def isTracked (l : Loc) : Bool :=
  match l with
  | .dev _ t => t
  | _ => false

/-- The physical address in this device that a location names: its own memory, or the peer window looped back (R413). -/
def homeAddr (s : State) (l : Loc) : Option Nat :=
  match l with
  | .dev pa _ => some pa
  | .peer d pa => if d = s.devno then some pa else none
  | _ => none

/-- The home cell of a location under the active region table. -/
def locCell (s : State) (l : Loc) : Option Nat := (homeAddr s l).bind (homeCell s.regions)

/-- The line of a location waits for the host port's acknowledgement of an earlier transition (R102, R105), or stands in a
bank that leaves cache mode (R80). -/
def locWaits (s : State) (l : Loc) : Bool := (locCell s l).any (fun c => hostWaits s (c / 128) || wayHeld (c / 128) s)

/-- A new request to a location must wait: for the host port, or for a home while a commit drains (R113). -/
def locBusy (s : State) (l : Loc) : Bool := locWaits s l || (s.commitPend && (homeAddr s l).isSome)

/-- Wavelengths lit towards a peer (R412). -/
def litTo (s : State) (peer : Nat) : Nat := (s.conns.filter (fun c => c.state = 2 && c.peer = peer)).foldl (fun n c => n + c.lanes) 0

/-- The entries UP towards a peer, in increasing number (R413). -/
def upGroups (s : State) (peer : Nat) : List Nat :=
  (List.range s.conns.length).filter (fun i => (s.conns[i]?).any (fun c => c.state = 2 && c.peer = peer))

/-- The group that takes a request to a peer (R413): among those UP, by bits [51:7] of the line's address. -/
def peerGroup (s : State) (peer pa : Nat) : Option Nat :=
  (upGroups s peer)[pa / 128 % 2 ^ 45 % (upGroups s peer).length]?

/-- What is recorded of a request for which no group to its peer is UP (R413). -/
def noPeerRoute (peer pa part : Nat) (s : State) : State :=
  let s := noRegionCheck pa part s
  if s.noRoute.contains peer then s
  else interrupt part 32 (logEvent part 6 0 0 (BitVec.ofNat 64 (127 + peer * 256)) { s with noRoute := peer :: s.noRoute })

/-- What an access gives: its bytes, and whether it met poison (R362). -/
structure Got where
  bytes : List Byte
  poison : Bool
  deriving DecidableEq, Repr

/-- n bytes of ones (R96, R362). -/
def allOnesBytes (n : Nat) : List Byte := List.replicate n 0xFF

/-- A load is served in the L1 of a core (R97, R98). -/
def l1Serves (core line : Nat) (rt : ReqTy) (m : LineMask) (s : State) : Bool := (copyOf core line s).any (servesLoad rt m)

/-- A read of n bytes in one line of this device's memory (R97, R109, R362): what its sectors hide is dealt with first. -/
def readDev (w : Who) (rt : ReqTy) (tracked : Bool) (pa cell n : Nat) (s : State) : State × Got :=
  let line := cell / 128
  let m := maskRange (cell % 128) n
  let hit := tracked && l1Serves w.core line rt m s
  let s := if hit then s else checkSectors line (if tracked then loadSectors w.core line rt m s else sectorsOf m) s
  if s.retired.contains (pa / 65536) || !hit && cellPoisoned s cell n then (s, ⟨allOnesBytes n, true⟩)
  else if tracked then
    let r := coreLoad w.core line pa rt m s
    (r.1, ⟨bytesFrom r.2 (cell % 128) n, false⟩)
  else (l2Touch line (sectorsOf m) none s, ⟨tbytes s.mem cell n, false⟩)

/-- A request of a peer port at its home (R106, R362): poison is answered with a record and no access. -/
def peerServed (pa cell n : Nat) (s : State) (k : State → State × Got) : State × Got :=
  let line := cell / 128
  let m := maskRange (cell % 128) n
  let s := checkSectors line (sectorsOf m) s
  if meetsPoison s pa line m then (portPoison pa line s, ⟨allOnesBytes n, false⟩) else k s

/-- A read of n bytes that lie in one line, at a location of whose page the checks are done. -/
def readLoc (w : Who) (rt : ReqTy) (l : Loc) (n : Nat) (s : State) : State × Got :=
  match l with
  | .dev pa tracked =>
    match homeCell s.regions pa with
    | none => (noRegionCheck pa w.part.toNat s, ⟨allOnesBytes n, false⟩)
    | some cell => readDev w rt tracked pa cell n s
  | .peer d pa =>
    if d = s.devno then
      match homeCell s.regions pa with
      | none => (noRegionCheck pa w.part.toNat s, ⟨allOnesBytes n, false⟩)
      | some cell => peerServed pa cell n s fun s =>
        let s := homeServe (cell / 128) (maskRange (cell % 128) n) s
        (s, ⟨tbytes s.mem cell n, false⟩)
    else match peerGroup s d pa with
      | some _ => (s, ⟨tbytes s.peerMem (d * 2 ^ 52 + pa) n, false⟩)
      | none => (noPeerRoute d pa w.part.toNat s, ⟨allOnesBytes n, false⟩)
  | .host pa => (s, ⟨tbytes s.hostMem pa n, false⟩)
  | .smem c o => (s, ⟨tbytes s.smem (c * 0x180000 + o) n, false⟩)
  | .fifo _ | .absent => (s, ⟨List.replicate n 0, false⟩)

/-- Tags of the words that n bytes of a scratchpad touch (R84). -/
def tagWords (core off n : Nat) (full : Bool) (s : State) : State :=
  let first := core * 0x60000 + off / 4
  let count := (off % 4 + n + 3) / 4
  { s with tags := tsetList false s.tags first (List.replicate count full) }

/-- Scratchpad bytes written, their words tagged FULL (R84). -/
def putSmem (core off : Nat) (bs : List Byte) (s : State) : State :=
  tagWords core off bs.length true { s with smem := tsetList 0 s.smem (core * 0x180000 + off) bs }

/-- A write of a peer port at its home, on behalf of a core that loops back (R106, R413): the core's unrecorded copy takes it
too (R97). -/
def loopStore (core line : Nat) (m : LineMask) (d : LineData) (s : State) : State :=
  storeSeen core line (setCopy core line (fun c => { c with data := mergeLine m d c.data }) (homeStore 385 line m d peerTag s))

/-- The sectors of a line that the slice reads for a store that its core's L1 does not serve (R419): what an `.own` access
fills, or those that the bytes cover in part. -/
def storeSectors (core line : Nat) (rt : ReqTy) (m : LineMask) (s : State) : BitVec 4 :=
  if rt == .own && !(keepsNone core line s) then ownSectors core line 0 m s else sectorsOf m &&& ~~~(wholeSectors m)

/-- A write of bytes in one line of this device's memory (R97, R109, R362, R419): the state, and whether its page has been
retired, where it is dropped. -/
def writeDev (w : Who) (rt : ReqTy) (tracked : Bool) (pa cell : Nat) (bs : List Byte) (s : State) : State × Bool :=
  let line := cell / 128
  let m := maskRange (cell % 128) bs.length
  let d := lineOfBytes (cell % 128) bs
  let hit := tracked && (copyOf w.core line s).any (fun c => c.kind == .held && m &&& ~~~c.w == 0)
  let sec := if tracked then storeSectors w.core line rt m s else sectorsOf m &&& ~~~(wholeSectors m)
  let s1 := if hit then s else checkSectors line sec s
  if goneIn w s s1 then (s1, false)
  else if s1.retired.contains (pa / 65536) then (s1, true)
  else if tracked then (coreStore w.core line pa rt m d (ctxTag w.asid) s1, false)
  else (untrackedStore w.core line m d (ctxTag w.asid) s1, false)

/-- A write of bytes that lie in one line, at its target: the state, and whether it met a retired page (R362). A dropped
write changes nothing. The home is the one computed when the access issued (R113). -/
def writeLoc (w : Who) (rt : ReqTy) (l : Loc) (cell : Option Nat) (bs : List Byte) (s : State) : State × Bool :=
  match l with
  | .dev pa tracked =>
    match cell with
    | none => (noRegionCheck pa w.part.toNat s, false)
    | some cell => writeDev w rt tracked pa cell bs s
  | .peer d pa =>
    if d = s.devno then
      match cell with
      | none => (noRegionCheck pa w.part.toNat s, false)
      | some cell => ((peerServed pa cell bs.length s fun s =>
        (loopStore w.core (cell / 128) (maskRange (cell % 128) bs.length) (lineOfBytes (cell % 128) bs) s, ⟨[], false⟩)).1, false)
    else match peerGroup s d pa with
      | some _ => ({ s with peerMem := tsetList 0 s.peerMem (d * 2 ^ 52 + pa) bs }, false)
      | none => (noPeerRoute d pa w.part.toNat s, false)
  | .host pa => (putHost pa bs s, false)
  | .smem c o => (putSmem c o bs s, false)
  | .fifo _ | .absent => (s, false)

/-- A read-modify-write of n bytes in one line of this device's memory at its home (R99, R171, R362): the state and the
old bytes. -/
def rmwDev (w : Who) (tracked : Bool) (pa cell n : Nat) (f : List Byte → List Byte) (s : State) : State × Got :=
  let line := cell / 128
  let off := cell % 128
  let m := maskRange off n
  let s1 := checkSectors line (sectorsOf m) s
  if goneIn w s s1 then (s1, ⟨allOnesBytes n, false⟩)
  else if s1.retired.contains (pa / 65536) || cellPoisoned s1 cell n then (s1, ⟨allOnesBytes n, true⟩)
  else
    let s := if tracked then homePrepare w.core line (bytesOf (wordsOf m)) s1 else s1
    let old := tbytes s.mem cell n
    let d := lineOfBytes off (f old)
    if tracked then (homeStore w.core line m d (ctxTag w.asid) s, ⟨old, false⟩)
    else (untrackedStore w.core line m d (ctxTag w.asid) s, ⟨old, false⟩)

/-- A read-modify-write of a peer port at its home (R106, R171), on behalf of a core that loops back. -/
def peerRmw (core cell n : Nat) (f : List Byte → List Byte) (s : State) : State × Got :=
  let m := maskRange (cell % 128) n
  let s := homePrepare 385 (cell / 128) (bytesOf (wordsOf m)) s
  let old := tbytes s.mem cell n
  (loopStore core (cell / 128) m (lineOfBytes (cell % 128) (f old)) s, ⟨old, false⟩)

/-- A read-modify-write of n bytes in one line at its home (R99, R171): the state and the old bytes. Where it meets
poison its write is dropped and its old value is all ones (R362). -/
def rmwLoc (w : Who) (l : Loc) (cell : Option Nat) (n : Nat) (f : List Byte → List Byte) (s : State) : State × Got :=
  match l with
  | .dev pa tracked =>
    match cell with
    | none => (noRegionCheck pa w.part.toNat s, ⟨allOnesBytes n, false⟩)
    | some cell => rmwDev w tracked pa cell n f s
  | .peer d pa =>
    if d = s.devno then
      match cell with
      | none => (noRegionCheck pa w.part.toNat s, ⟨allOnesBytes n, false⟩)
      | some cell => peerServed pa cell n s (peerRmw w.core cell n f)
    else match peerGroup s d pa with
      | some _ =>
        let old := tbytes s.peerMem (d * 2 ^ 52 + pa) n
        ({ s with peerMem := tsetList 0 s.peerMem (d * 2 ^ 52 + pa) (f old) }, ⟨old, false⟩)
      | none => (noPeerRoute d pa w.part.toNat s, ⟨allOnesBytes n, false⟩)
  | .host pa =>
    let old := tbytes s.hostMem pa n
    (putHost pa (f old) s, ⟨old, false⟩)
  | .smem c o =>
    let old := tbytes s.smem (c * 0x180000 + o) n
    (putSmem c o (f old) s, ⟨old, false⟩)
  | .fifo _ | .absent => (s, ⟨allOnesBytes n, false⟩)

/-- A lane of a memory instruction after translation: its address, its locations in its first and second page, and the
address that a fault met. -/
structure LaneAcc where
  lane : Nat
  addr : VAddr
  x1 : Xlat
  x2 : Xlat
  fa : VAddr
  deriving DecidableEq, Repr

/-- Every lane translated, lowest lane first (R72). -/
def translateLanes (w : Who) (k : AccKind) (n : Nat) : List (Nat × VAddr) → State → State × List LaneAcc
  | [], s => (s, [])
  | (l, a) :: r, s =>
    let x := translateSpan w k a n s
    let q := translateLanes w k n r x.1
    (q.1, ⟨l, a, x.2.1, x.2.2.1, x.2.2.2⟩ :: q.2)

/-- The fault kind of a lane (0: poison), if it faulted. -/
def laneFault (x : LaneAcc) : Option Nat :=
  match x.x1 with
  | .fault k => some k
  | .ok _ | .wait => none

/-- The location of a lane's first byte. -/
def laneLoc (x : LaneAcc) : Loc :=
  match x.x1 with
  | .ok l => l
  | .fault _ | .wait => .absent

/-- The locations of a lane's n bytes. -/
def laneLocs (x : LaneAcc) (n : Nat) : List Loc :=
  match x.x1, x.x2 with
  | .ok a, .ok b => spanLocs x.addr n a b
  | _, _ => []

/-- The mask of some lanes. -/
def accMask (xs : List LaneAcc) : Mask := xs.foldl (fun m x => m ||| BitVec.twoPow 32 x.lane) 0

/-- One fault record for each page and kind that an instruction's lanes met, counted once for the instruction and not once for
each lane (DESIGN CHOICE: R73's example shows one page only; log 86). -/
def recordFaults (w : Who) : List LaneAcc → List (Nat × Nat) → State → State
  | [], _, s => s
  | x :: r, seen, s =>
    match laneFault x with
    | none | some 0 => recordFaults w r seen s
    | some k =>
      let key := (x.fa.toNat / 4096, k)
      if seen.contains key then recordFaults w r seen s
      else recordFaults w r (key :: seen) (faultRecord (dieOf w.core) w.asid x.fa k s)

/-- The trap of the first failing lane of a stage (R154). -/
def stageTrap (c : Cause) (sub : BitVec 16) (bad : List LaneAcc) (lm : Mask) (s : State) : State :=
  raise ⟨c, sub, lm, ((bad.head?.map LaneAcc.addr).getD 0).setWidth 64, s.cur.arch.pc⟩ s

/-- Stage 1 of R154: translation faults and poison, under the cause of the lowest failing lane. An instruction whose walk
waits does so too, and one that would trap past an incomplete fence waits for it (R134). -/
def stage1 (xs : List LaneAcc) (s : State) (k : State → State) : State :=
  let bad := xs.filter (fun x => (laneFault x).isSome)
  if xs.any (fun x => x.x1 == .wait) then block .posted s
  else if !bad.isEmpty && s.cur.fence.isSome then block .fence s
  else match bad.head?.bind laneFault with
  | none => k s
  | some 0 => stageTrap .poison 0 bad (accMask bad) (recordFaults (whoOf s.cur) bad [] s)
  | some f => stageTrap .translation (BitVec.ofNat 16 f) bad (accMask bad) (recordFaults (whoOf s.cur) bad [] s)

/-- The FIFO bank of a location. -/
def bankLoc (l : Loc) : Option Nat :=
  match l with
  | .fifo b => some b
  | _ => none

/-- The bank that a lane addresses. -/
def laneBank (x : LaneAcc) : Option Nat := bankLoc (laneLoc x)

/-- The banks that lanes address, each once, lowest first. -/
def banksOf (xs : List LaneAcc) : List Nat := (List.range 48).filter (fun b => xs.any (fun x => laneBank x == some b))

/-- An addressed bank whose mode switch is in progress, which holds the access (R80). -/
def anySwitching (xs : List LaneAcc) (s : State) : Option Nat :=
  (banksOf xs).find? (fun b => (bankOf s s.cur.core b).next.isSome)

/-- Stage 2 of R154: a space that the instruction may not use, under the mode that a bank has after its switch (R80). A
"FIFO access" failure names the active lanes (R89). -/
def stage2 (space : LaneAcc → Option Cause) (xs : List LaneAcc) (s : State) (k : State → State) : State :=
  let bad := xs.filter (fun x => (space x).isSome)
  match anySwitching xs s with
  | some b => block (.held b) s
  | none =>
    match bad.head?.bind space with
    | none => k s
    | some c => stageTrap c 0 bad (if c == .fifoAccess then active s else accMask bad) s

/-- Stage 3 of R154: the allocation (R83). -/
def stage3 (n : Nat) (xs : List LaneAcc) (s : State) (k : State → State) : State :=
  let bad := xs.filter (fun x => localBase ≤ x.addr.toNat && !(allocOk (whoOf s.cur) x.addr n s))
  if bad.isEmpty then k s else stageTrap .allocation 0 bad (accMask bad) s

/-- Stage 4 of R154 and R212: alignment. -/
def stage4 (c : Cause) (aligned : LaneAcc → Bool) (xs : List LaneAcc) (s : State) (k : State → State) : State :=
  let bad := xs.filter (fun x => !(aligned x))
  if bad.isEmpty then k s else stageTrap c 0 bad (accMask bad) s

/-- The lane's address is a multiple of a size. -/
def alignedTo (n : Nat) (x : LaneAcc) : Bool := x.addr.toNat % n == 0

/-- The active lanes with their addresses (R13). -/
def laneAddrs (b : MBase) (off : BitVec 32) (s : State) : List (Nat × VAddr) :=
  (lanesOf (active s)).map (fun l => (l, laneAddr s b off l))

/-- The stages of R154 over the active lanes, then the instruction. -/
def checkLanes (k : AccKind) (n : Nat) (c4 : Cause) (aligned : List LaneAcc → LaneAcc → Bool)
    (space : List LaneAcc → State → LaneAcc → Option Cause)
    (addrs : List (Nat × VAddr)) (s : State) (cont : List LaneAcc → State → State) : State :=
  let t := translateLanes (whoOf s.cur) k n addrs s
  stage1 t.2 t.1 fun s => stage2 (space t.2 s) t.2 s fun s => stage3 n t.2 s fun s => stage4 c4 (aligned t.2) t.2 s fun s => cont t.2 s

/-- The trap of a group-wide instruction on its own address (R155): `tlm` is `em`. -/
def oneTrap (c : Cause) (sub : BitVec 16) (taddr : Word) (s : State) : State := raise ⟨c, sub, groupMask s, taddr, s.cur.arch.pc⟩ s

/-- The stages of R154 on one address of a group-wide instruction, and its location: t bytes are translated (R71), n bytes
checked by R83. -/
def checkOne (k : AccKind) (t n : Nat) (a : VAddr) (taddr : Word) (space : Loc → Option Cause) (c4 : Cause)
    (aligned : Bool) (s : State) (cont : Loc → Loc → State → State) : State :=
  match translateSpan (whoOf s.cur) k a t s with
  | (s, .ok l1, .ok l2, _) =>
    match space l1 with
    | some c => oneTrap c 0 taddr s
    | none =>
      if localBase ≤ a.toNat && !(allocOk (whoOf s.cur) a n s) then oneTrap .allocation 0 taddr s
      else if !aligned then oneTrap c4 0 taddr s
      else cont l1 l2 s
  | (s, x, _, fa) =>
    match x with
    | .fault 0 => oneTrap .poison 0 taddr s
    | .fault f => oneTrap .translation (BitVec.ofNat 16 f) taddr (faultRecord (dieOf s.cur.core) s.cur.asid fa f s)
    | .ok _ | .wait => block .posted s

/-- The lowest lane of a mask, of two lanes' masks with addresses: its address. -/
def lowerAddr (m n : Mask) (a b : Word) : Word := if lowLane n < lowLane m then b else a

/-- More lanes of the access whose poison is already noted (R362). -/
def addPoison (lm : Mask) (a : VAddr) (t : TrapInfo) : TrapInfo :=
  { t with lm := t.lm ||| lm, addr := lowerAddr t.lm lm t.addr (a.setWidth 64) }

/-- A deferred poison trap noted (R362): the first found is reported. -/
def notePoison (lm : Mask) (a : VAddr) (s : State) : State :=
  updCur (fun g => { g with pend := some (g.pend.getD ⟨.poison, 1, lm, a.setWidth 64, g.arch.pc⟩) }) s

end Sys2Proof.Machine
end

