-- ==== Sys2Proof/Machine/Fifo.lean ====
section
/-! DEFINITION. SRAM banks (R78 to R80) and FIFO banks: configuration, links, items and credits (R88 to R91). -/
namespace Sys2Proof.Machine

/-- The producer end forwards its head items while it holds credits (R90). One whose consumer has left goes on until its
link breaks, and what it forwards is lost (DESIGN CHOICE: R91 says only that the end keeps its items after that; log
74). -/
def pump (core b : Nat) (s : State) : State :=
  let k := bankOf s core b
  let f := k.fifo
  if k.mode == .fifo && f.lnk && !(isConsumer f) then
    let n := min f.cred f.items.length
    let p := peerOf core f
    let s := setFifo core b (fun x => { x with items := x.items.drop n, cred := x.cred - n }) s
    if (bankOf s p.1 p.2).mode == .fifo && (bankOf s p.1 p.2).fifo.lnk then
      setFifo p.1 p.2 (fun x => { x with inItems := x.inItems ++ f.items.take n }) s
    else s
  else s

/-- A consumer end returns credits to its producer (R90): a message on the way. -/
def returnCredits (core b n : Nat) (s : State) : State :=
  let f := (bankOf s core b).fifo
  let p := peerOf core f
  let s := setFifo core b (fun x => { x with owed := x.owed - n }) s
  if n = 0 then s
  else if f.lnk && (bankOf s p.1 p.2).mode == .fifo && (bankOf s p.1 p.2).fifo.lnk then
    setFifo p.1 p.2 (fun x => { x with inCred := x.inCred ++ [n] }) s
  else s

/-- What a consumer end returns after pops, by CMODE (R90). -/
def settleCredits (core b : Nat) (token : Bool) (s : State) : State :=
  let f := (bankOf s core b).fifo
  if f.lnk && isConsumer f then
    match creditMode f with
    | 0 => returnCredits core b f.owed s
    | 1 =>
      let batch := 2 ^ (f.cfg.toNat / 2 ^ 26 % 16)
      if token then returnCredits core b f.owed s else returnCredits core b (f.owed / batch * batch) s
    | _ => s
  else s

/-- Items pushed into a FIFO in order (R89). -/
def pushItems (core b : Nat) (xs : List (Option LaneWord)) (s : State) : State :=
  pump core b (setFifo core b (fun x => { x with items := x.items ++ xs }) s)

/-- Items popped from a FIFO (R89): a linked consumer end owes a credit for each (R90). -/
def popItems (core b n : Nat) (token : Bool) (s : State) : State :=
  settleCredits core b token (setFifo core b (fun x =>
    { x with items := x.items.drop n, owed := if x.lnk && isConsumer x then x.owed + n else 0 }) s)

/-- Free items of a FIFO. Items on their way to a consumer end take room (DESIGN CHOICE: R89 does not say whether they
count at a local push; log 74). -/
def fifoRoom (f : Fifo) : Nat := fifoCap f - (f.items.length + f.inItems.length)

/-- The data items before any token. -/
def dataRun : List (Option LaneWord) → List LaneWord
  | some w :: r => w :: dataRun r
  | _ => []

/-- The head item is a token (EOSH, R88). -/
def headToken (f : Fifo) : Bool := f.items.head? == some none

/-- An `ld` of k lanes can be served (R89): k data items before any token, or a token at a position below k. -/
def popReady (k : Nat) (f : Fifo) : Bool :=
  let j := (dataRun f.items).length
  k ≤ j || j < f.items.length

/-- The accesses of R89. -/
inductive FifoAcc where
  | push | pop | tset | tclr | ttest | other
  deriving DecidableEq, Repr

/-- R89 and R91 refuse an access to a bank by a team: not a FIFO of the team, or a broken link but for `ld` and
`ttest` at a consumer end. -/
def fifoRefuses (acc : FifoAcc) (core slot b : Nat) (s : State) : Bool :=
  let k := bankOf s core b
  k.mode != .fifo || k.owner != slot || acc == .other ||
    (k.fifo.brk && !((acc == .pop || acc == .ttest) && isConsumer k.fifo))

/-- k_b of R89: the lanes that address a bank. -/
def lanesAt (xs : List LaneAcc) (b : Nat) : List LaneAcc := xs.filter (fun x => laneBank x == some b)

/-- The stage-2 check of an access that may address FIFO banks (R89). -/
def fifoSpace (acc : FifoAcc) (word : Bool) (xs : List LaneAcc) (s : State) (x : LaneAcc) : Option Cause :=
  match laneBank x with
  | none => none
  | some b =>
    let f := (bankOf s s.cur.core b).fifo
    if fifoRefuses acc s.cur.core s.cur.slot b s || !word ||
        ((acc == .push || acc == .pop) && fifoCap f < (lanesAt xs b).length)
    then some .fifoAccess else none

/-- A bank's condition holds (R89). -/
def bankReady (acc : FifoAcc) (xs : List LaneAcc) (s : State) (b : Nat) : Bool :=
  let f := (bankOf s s.cur.core b).fifo
  match acc with
  | .push => (lanesAt xs b).length ≤ fifoRoom f
  | .pop => popReady (lanesAt xs b).length f
  | .tset => 1 ≤ fifoRoom f
  | _ => true

/-- Items that an access needs at a bank. -/
def bankNeed (acc : FifoAcc) (xs : List LaneAcc) (b : Nat) : Nat := if acc == .tset then 1 else (lanesAt xs b).length

/-- A FIFO instruction waits until every bank it addresses can be served (R89). -/
def afterFifo (acc : FifoAcc) (xs : List LaneAcc) (s : State) (k : State → State) : State :=
  match (banksOf xs).find? (fun b => !(bankReady acc xs s b)) with
  | none => k s
  | some b => block (.fifo (acc != .pop) b (bankNeed acc xs b)) s

end Sys2Proof.Machine
end

