-- ==== Sys2Proof/Machine/Flags.lean ====
section
/-! DEFINITION. Accrued flags and arithmetic traps (R236, R237), and the mould of a register-only instruction: its
checks, its flags, its destination. -/
namespace Sys2Proof.Machine

/-- The lanes of a mask that raise flag f. -/
def raisedIn (act : Mask) (fl : Nat → FlagSet) (f : Nat) : Mask := laneMask (fun l => act.getLsbD l && (fl l).getLsbD f)

/-- `ffl` with every raised flag ORed in (R237). -/
def accrueTbl (act : Mask) (fl : Nat → FlagSet) (t : List (Nat × Mask)) : List (Nat × Mask) :=
  (List.range 7).foldl (fun t f => tset 0 t f (tget 0 t f ||| raisedIn act fl f)) t

/-- The active lanes OR the flags they raised into their `ffl` (R237). -/
def accrue (act : Mask) (fl : Nat → FlagSet) (s : State) : State :=
  updArch (fun a => { a with ffl := accrueTbl act fl a.ffl }) s

/-- `ften` of flag f: treated as zero while traps are masked (R350). -/
def enabledIn (g : Group) (f : Nat) : Mask := if masked g then 0 else tget 0 g.ften f

/-- T of R237: the active lanes in which a raised flag is enabled. -/
def trapLanes (act : Mask) (fl : Nat → FlagSet) (g : Group) : Mask :=
  (List.range 7).foldl (fun m f => m ||| (raisedIn act fl f &&& enabledIn g f)) 0

/-- The sub-cause of an arithmetic trap: the enabled flags raised over the lanes of T (R237). -/
def trapSub (act : Mask) (fl : Nat → FlagSet) (g : Group) : BitVec 16 :=
  (List.range 7).foldl (fun m f => if raisedIn act fl f &&& enabledIn g f = 0 then m else m ||| BitVec.twoPow 16 f) 0

/-- The flags of an instruction (R237): accrue them, then either go on or take the arithmetic trap with no
destination written. -/
def withFlags (act : Mask) (fl : Nat → FlagSet) (s : State) (k : State → State) : State :=
  let T := trapLanes act fl s.cur
  let s1 := accrue act fl s
  if T = 0 then k s1
  else raise ⟨.arithmetic, trapSub act fl s.cur, if inCrew s then allLanes else T, (fl (lowLane T)).setWidth 64, s.cur.arch.pc⟩ s1

/-- Several destination registers written in the lanes of a mask: value i goes to the ith. -/
def writeDests (act : Mask) (val : Nat → Nat → LaneWord) : Nat → List Nat → List (Nat × LaneWord) → List (Nat × LaneWord)
  | _, [], t => t
  | i, d :: ds, t => writeDests act val (i + 1) ds (writeLanes act d (val i) t)

/-- The destinations of a vector instruction written. -/
def setDests (act : Mask) (ds : List Nat) (val : Nat → Nat → LaneWord) (s : State) : State :=
  updArch (fun a => { a with vregs := writeDests act val 0 ds a.vregs }) s

/-- A vector instruction of n bytes that names registers and writes destinations (R231, R234, R235, R237, R293). -/
def vectorOp (n : Nat) (named ds : List Nat) (val : Nat → Nat → LaneWord) (fl : Nat → FlagSet) (s : State) : State :=
  notCrew s fun s => regCheck named s fun s => onceForGroup n s fun s =>
    withFlags (active s) fl s fun s1 => advance n (setDests (active s) ds val s1)

/-- A vector instruction of n bytes that writes a predicate. -/
def predicateOp (n : Nat) (named : List Nat) (p : PReg) (val : Nat → Bool) (fl : Nat → FlagSet) (s : State) : State :=
  notCrew s fun s => regCheck named s fun s => onceForGroup n s fun s =>
    withFlags (active s) fl s fun s1 => advance n (setP (active s) p (laneMask val) s1)

/-- A lane-by-lane instruction with one source. -/
def vecUn (n : Nat) (td ts : Ty) (d a : VReg) (f : Nat → Nat × FlagSet) (s : State) : State :=
  vectorOp n (regsOf td d ++ regsOf ts a) (regsOf td d) (fun i l => wordOf (f (laneVal s ts a l)).1 i)
    (fun l => (f (laneVal s ts a l)).2) s

/-- A lane-by-lane instruction with two sources. -/
def vecBin (n : Nat) (t : Ty) (d a b : VReg) (f : Nat → Nat → Nat × FlagSet) (s : State) : State :=
  vectorOp n (regsOf t d ++ regsOf t a ++ regsOf t b) (regsOf t d)
    (fun i l => wordOf (f (laneVal s t a l) (laneVal s t b l)).1 i)
    (fun l => (f (laneVal s t a l) (laneVal s t b l)).2) s

/-- The literal form of a lane-by-lane instruction with two sources (R30, R234). -/
def vecLit (t : Ty) (d a : VReg) (lit : BitVec 32) (f : Nat → Nat → Nat × FlagSet) (s : State) : State :=
  vectorOp 12 (regsOf t d ++ regsOf t a) (regsOf t d)
    (fun i l => wordOf (f (laneVal s t a l) (litVal t lit)).1 i)
    (fun l => (f (laneVal s t a l) (litVal t lit)).2) s

/-- A lane-by-lane instruction with three sources. -/
def vecTri (t : Ty) (d a b c : VReg) (f : Nat → Nat → Nat → Nat × FlagSet) (s : State) : State :=
  vectorOp 16 (regsOf t d ++ regsOf t a ++ regsOf t b ++ regsOf t c) (regsOf t d)
    (fun i l => wordOf (f (laneVal s t a l) (laneVal s t b l) (laneVal s t c l)).1 i)
    (fun l => (f (laneVal s t a l) (laneVal s t b l) (laneVal s t c l)).2) s

/-- A lane-by-lane compare of two registers into a predicate. -/
def vecCmp (t : Ty) (p : PReg) (a b : VReg) (f : Nat → Nat → Bool × FlagSet) (s : State) : State :=
  predicateOp 8 (regsOf t a ++ regsOf t b) p (fun l => (f (laneVal s t a l) (laneVal s t b l)).1)
    (fun l => (f (laneVal s t a l) (laneVal s t b l)).2) s

/-- A lane-by-lane compare with a literal into a predicate. -/
def vecCmpLit (t : Ty) (p : PReg) (a : VReg) (lit : BitVec 32) (f : Nat → Nat → Bool × FlagSet) (s : State) : State :=
  predicateOp 12 (regsOf t a) p (fun l => (f (laneVal s t a l) (litVal t lit)).1)
    (fun l => (f (laneVal s t a l) (litVal t lit)).2) s

/-- A scalar instruction of n bytes (R239): acts once where a lane is active; its flag is raised in every active lane. -/
def scalarOp (n : Nat) (d : SReg) (r : Word) (fl : FlagSet) (s : State) : State :=
  onceForGroup n s fun s => withFlags (active s) (fun _ => fl) s fun s1 => advance n (setS d r s1)

/-- A scalar compare of n bytes (R242): the result is written in all 32 lanes. -/
def scalarCmp (n : Nat) (p : PReg) (r : Bool) (s : State) : State :=
  onceForGroup n s fun s => advance n (setP allLanes p (if r then allLanes else 0) s)

end Sys2Proof.Machine
end

