-- ==== Sys2Proof/Machine/Block.lean ====
section
/-! DEFINITION. MX records (R205 to R207) and the arithmetic of block atomics (R214, R219). -/
namespace Sys2Proof.Machine

/-- Bytes of a record of an element format (R205): the scale and 32 elements. -/
def recordBytes (t : Ty) : Nat := 1 + 4 * tyBits t

/-- An address is the first byte of a slot of its line (R206). -/
def slotAligned (t : Ty) (a : VAddr) : Bool :=
  let o := a.toNat % 128
  o % recordBytes t == 0 && o + recordBytes t ≤ 128

/-- The bits of element i of a record. -/
def recordElem (t : Ty) (old : List Byte) (i : Nat) : Nat := leVal (old.drop 1) / 2 ^ (tyBits t * i) % 2 ^ tyBits t

/-- A record of a scale and 32 element codes. -/
def recordOf (t : Ty) (scale : Nat) (elems : List Nat) : List Byte :=
  BitVec.ofNat 8 scale ::
    leBytes (4 * tyBits t) (((List.range 32).foldl (fun v i => v + elems.getD i 0 % 2 ^ tyBits t * 2 ^ (tyBits t * i)) 0))

/-- A NaN or an infinity. -/
def notReal (x : Num) : Bool :=
  match x with
  | .fin _ _ _ => false
  | _ => true

/-- A real times 2^k. -/
def scaleNum (x : Num) (k : Int) : Num :=
  match x with
  | .fin n m e => .fin n m (e + k)
  | y => y

/-- |x|. -/
def absNum (x : Num) : Num :=
  match x with
  | .fin _ m e => .fin false m e
  | y => y

/-- The sum of two reals, exact (R18), with the zero of R193 under RN. -/
def sumNum (a b : Num) : Num := (addNum .rn a b).1

/-- S of R214: the smallest scale from 0 to 254 under which the largest magnitude fits, or 254. -/
def chooseScale (fd : Ty) (m : Num) : Nat :=
  ((List.range 255).find? (fun (k : Nat) => !(numLt (scaleNum (largest fd) ((k : Int) - 127)) m))).getD 254

/-- The element code of a real under a scale (R214): saturated at L, rounded under RN, flags discarded. -/
def blockElem (fd : Ty) (scale : Nat) (x : Num) : Nat :=
  let q := scaleNum x (127 - (scale : Int))
  let L := largest fd
  match q, L with
  | .fin n m e, .fin _ lm le =>
    if numLt L (absNum q) then (roundFloat (fmtOf fd) .rn false n lm le).1 else (roundFloat (fmtOf fd) .rn false n m e).1
  | _, _ => 0

/-- The largest magnitude of a list of reals. -/
def maxAbs (xs : List Num) : Num := xs.foldl (fun m x => if numLt m (absNum x) then absNum x else m) (.fin false 0 0)

/-- x(i) of R214. -/
def accElem (fd fs : Ty) (old : List Byte) (sd ss : Nat) (act : Mask) (elems : List Byte) (i : Nat) : Num :=
  let d := scaleNum (decodeNum fd (recordElem fd old i)) ((sd : Int) - 127)
  if act.getLsbD i then sumNum d (scaleNum (decodeNum fs (elems.getD i 0).toNat) ((ss : Int) - 127)) else d

/-- The record that `bacc` leaves (R214). -/
def accumulate (fd fs : Ty) (ss : Nat) (act : Mask) (elems : List Byte) (old : List Byte) : List Byte :=
  let sd := (old.getD 0 0).toNat
  let bad := sd = 255 || ss = 255 ||
    (List.range 32).any (fun i => notReal (decodeNum fd (recordElem fd old i))
      || (act.getLsbD i && notReal (decodeNum fs (elems.getD i 0).toNat)))
  if bad then 0xFF :: old.drop 1
  else
    let xs := (List.range 32).map (accElem fd fs old sd ss act elems)
    let scale := chooseScale fd (maxAbs xs)
    recordOf fd scale (xs.map (blockElem fd scale))

end Sys2Proof.Machine
end

