-- ==== Sys2Proof/Machine/Perform.lean ====
section
/-! DEFINITION. Posted operations performed at their targets (R98, R156, R173, R218), the reduction unit (R415 to
R417), and fences (R130, R131). -/
namespace Sys2Proof.Machine

/-- The bytes that a posted operation writes, by their place after its location. -/
def postedWrites (p : Posted) : List Bool :=
  match p.op with
  | .write bs => List.replicate bs.length true
  | .part bs => bs.map Option.isSome
  | .red _ ty _ => List.replicate (tyBits ty / 8) true
  | .bacc fd _ _ _ => List.replicate (recordBytes fd) true

/-- Bytes that a posted operation spans. -/
def postedLen (p : Posted) : Nat := (postedWrites p).length

/-- A valid reduction window with an accepted OP (R415). -/
def windowOk (e : BitVec 128) : Bool := e.getLsbD 0 && entryBits e 9 3 ≤ 5 && entryBits e 64 32 != 0

/-- The operation codes of `red` (R173). -/
def redCode : RedOp → Nat
  | .add => 0 | .min => 1 | .max => 2 | .and => 3 | .or => 4 | .xor => 5

/-- The type codes of R34 that R49 accepts. -/
def redTyCode : Ty → Nat
  | .i32 => 3 | .i64 => 4 | .n32 => 7 | .n64 => 8 | .b32 => 11 | .b64 => 12 | .f32 => 13 | _ => 0

/-- The first valid window that holds a physical address (R415). -/
def windowAt (s : State) (pa : Nat) : Option (BitVec 128) :=
  s.windows.find? (fun e => windowOk e && entryBits e 12 40 * 4096 ≤ pa &&
    pa < entryBits e 12 40 * 4096 + entryBits e 64 32 * 4096)

/-- A `red` that its window merges (R416): the op and the type are the window's. -/
def merges (s : State) (pa : Nat) (op : RedOp) (ty : Ty) : Bool :=
  match windowAt s pa with
  | some e => entryBits e 9 3 == redCode op && entryBits e 4 5 == redTyCode ty
  | none => false

/-- The physical address of a `red` that the reduction unit holds or would take (R416). -/
def redAddr (s : State) (p : Posted) : Option Nat :=
  match p.op with
  | .red _ _ _ => homeAddr s p.loc
  | _ => none

/-- A posted operation is a `red` that goes to the reduction unit (R416). -/
def willMerge (s : State) (p : Posted) : Bool :=
  match p.op with
  | .red op ty _ => !p.merged && (homeAddr s p.loc).any (fun pa => merges s pa op ty)
  | _ => false

/-- The addresses of a group's contributions that the unit holds, in program order. -/
def mergedAddrs (s : State) (g : Group) : List Nat := (g.posted.filter Posted.merged).filterMap (redAddr s)

/-- The members of a list up to the last one that stands in another. -/
def uptoLast (pas : List Nat) : List Nat → List Nat
  | [] => []
  | x :: r => let q := uptoLast pas r; if q.isEmpty && !(pas.contains x) then [] else x :: q

/-- The entries to be flushed with some: those that hold an earlier contribution of a group that contributes to one of
them, since its read part may not come after a later write of the group (R127). -/
def flushSet (s : State) : Nat → List Nat → List Nat
  | 0, pas => pas
  | n + 1, pas =>
    let more := ((allGroups s).flatMap (fun g => uptoLast pas (mergedAddrs s g))).filter (fun a => !(pas.contains a))
    if more.isEmpty then pas else flushSet s n (pas ++ more.eraseDups)

/-- The open entries at the addresses to be flushed with one. -/
def flushEntries (s : State) (pa : Nat) : List RedEntry :=
  let pas := flushSet s s.redUnit.length [pa]
  s.redUnit.filter (fun e => pas.contains e.pa)

/-- The entry of an address can be flushed: no line concerned waits for the host port (R102). -/
def canFlush (s : State) (pa : Nat) : Bool :=
  (flushEntries s pa).all (fun e => !(e.cell.any (fun c => hostWaits s (c / 128))))

/-- A posted operation will meet poison when it is performed (R362): its page is retired, or it reads a poisoned sector. -/
def opPoisoned (s : State) (p : Posted) : Bool :=
  inRetired s p.loc || (isRmw p && p.cell.any (fun c => cellPoisoned s c (postedLen p)))

/-- A posted operation of a group has met poison (R362): so do the others of its instruction that lead to some. Their writes
are dropped, and the deferred trap names the lanes of all, unless the group has found another access's first. -/
def accessPoison (s : State) (p : Posted) (g : Group) : Group :=
  let mine := fun (q : Posted) => q.instr == p.instr && (q == p || opPoisoned s q)
  let t : TrapInfo := (g.posted.filter mine).foldl (fun t q => addPoison q.lanes q.addr t)
    ⟨.poison, 1, p.lanes, p.addr.setWidth 64, g.arch.pc⟩
  { g with pend := some (g.pend.getD t), posted := g.posted.filter (fun q => !(mine q)) }

/-- A group whose contribution to an address met poison (R362). -/
def poisonedRed (s : State) (pa : Nat) (g : Group) : Group :=
  match g.posted.find? (fun p => p.merged && redAddr s p == some pa) with
  | some p => accessPoison s p g
  | none => g

/-- The contributions to an address are performed: no group waits for them any longer (R417). -/
def contributed (s : State) (pa : Nat) (g : Group) : Group :=
  { g with posted := g.posted.filter (fun p => !(p.merged && redAddr s p == some pa)) }

/-- The cores that contributed see the result in their unrecorded copies, and their monitors trigger (R97, R179). -/
def tellCores (line : Nat) (m : LineMask) (d : LineData) : List Nat → State → State
  | [], s => s
  | c :: cs, s =>
    tellCores line m d cs (seenFrom none c line (setCopy c line (fun x => { x with data := mergeLine m d x.data }) s))

/-- One read-modify-write of the reduction unit at a home slice (R416), with no recall where every contribution came through
an untracked mapping (R109). Poison drops it, and each contributor is told (R362). -/
def flushTo (e : RedEntry) (s : State) : State :=
  let n := tyBits e.ty / 8
  match e.cell with
  | none => noRegionCheck e.pa e.part s
  | some cell =>
    let line := cell / 128
    let m := maskRange (cell % 128) n
    let s := checkSectors line (sectorsOf m) s
    if meetsPoison s e.pa line m then
      let s := mapGroups (poisonedRed s e.pa) s
      if e.peer then portPoison e.pa line s else s
    else
      let s := if e.tracked then homePrepare 385 line (bytesOf (wordsOf m)) s else s
      let v := redVal e.op e.ty (leVal (tbytes s.mem cell n)) e.acc
      let d := lineOfBytes (cell % 128) (leBytes n v)
      if e.tracked then tellCores line m d e.cores (homeStore 385 line m d peerTag s)
      else e.cores.foldl (fun s c => seenFrom none c line s) (untrackedStore 385 line m d peerTag s)

/-- Something done for a request under the version with which it was homed (R113), which a machine-check record of it
carries (R363). -/
def underVer (v : BitVec 2) (f : State → State) (s : State) : State := { f { s with ver := v } with ver := s.ver }

/-- An entry's read-modify-write, under the version of its contributions. -/
def flushEntry (e : RedEntry) (s : State) : State := underVer e.ver (flushTo e) s

/-- Entries flushed, oldest first, and closed. -/
def flushAll : List RedEntry → State → State
  | [], s => s
  | e :: r, s =>
    let s := flushEntry e { s with redUnit := s.redUnit.filter (fun x => !(x.pa = e.pa)) }
    flushAll r (mapGroups (contributed s e.pa) s)

/-- The entry of an address flushed, with those that must go with it. -/
def flushPa (pa : Nat) (s : State) : State := flushAll (flushEntries s pa) s

/-- The entries of some addresses flushed where they can be. -/
def flushPas : List Nat → State → State
  | [], s => s
  | pa :: r, s => flushPas r (if s.redUnit.any (fun e => e.pa = pa) && canFlush s pa then flushPa pa s else s)

/-- The entries that a test selects flushed, oldest first. -/
def flushWhere (sel : RedEntry → Bool) (s : State) : State := flushPas ((s.redUnit.filter sel).map RedEntry.pa) s

/-- The unit can take a contribution to an address: the flush that it would force can be made (R416). -/
def redRoom (s : State) (pa : Nat) : Bool :=
  match s.redUnit.find? (fun e => e.pa = pa) with
  | some e => e.count < 63 || canFlush s pa
  | none => s.redUnit.length < 4096 || (s.redUnit.head?).all (fun e => canFlush s e.pa)

/-- An entry with one contribution more. -/
def addTo (v : Nat) (core : Option Nat) (tracked : Bool) (e : RedEntry) : RedEntry :=
  { e with acc := redVal e.op e.ty e.acc v, count := e.count + 1, peer := e.peer || core.isNone, tracked := e.tracked || tracked,
           cores := match core with
             | some c => if e.cores.contains c then e.cores else c :: e.cores
             | none => e.cores }

/-- A contribution of a core, or of a peer, arrives at the reduction unit (R416), homed under a version, through a tracked
mapping or not. -/
def contribute (pa : Nat) (cell : Option Nat) (op : RedOp) (ty : Ty) (v part : Nat) (core : Option Nat) (ver : BitVec 2)
    (tracked : Bool) (s : State) : State :=
  match s.redUnit.find? (fun e => e.pa = pa) with
  | some e =>
    let s := { s with redUnit := s.redUnit.map (fun x => if x.pa = pa then addTo v core tracked x else x) }
    if 64 ≤ e.count + 1 then flushPa pa s else s
  | none =>
    let s := match s.redUnit with
      | e :: _ => if 4096 ≤ s.redUnit.length then flushPa e.pa s else s
      | [] => s
    { s with redUnit := s.redUnit ++ [⟨pa, cell, op, ty, v, 1, part, core.toList, core.isNone, ver, tracked⟩] }

/-- A posted operation touches one of n bytes from a location. -/
def touches (s : State) (p : Posted) (l : Loc) (n : Nat) : Bool :=
  let a := locKey s.devno p.loc
  let b := locKey s.devno l
  a.1 == b.1 && (List.range (postedLen p)).any (fun i => (postedWrites p).getD i false && b.2 ≤ a.2 + i && a.2 + i < b.2 + n)

/-- What serves requests to a location in one order (R130): a home slice, the routing die, a peer or host port, a
scratchpad, a FIFO bank. -/
def locTarget (s : State) (l : Loc) : Nat × Nat :=
  match locCell s l, l with
  | some c, _ => (0, c / 2 ^ 31)
  | none, .dev _ _ => (1, 0)
  | none, .peer d _ => (2, d)
  | none, .host _ => (3, 0)
  | none, .smem c _ => (4, c)
  | none, .fifo b => (5, b)
  | none, .absent => (6, 0)

/-- The target of a posted operation: the reduction unit for a `red` that it takes. -/
def postedTarget (s : State) (p : Posted) : Nat × Nat := if p.merged || willMerge s p then (7, 0) else locTarget s p.loc

/-- A posted operation q must be performed before a later one p: it touches its bytes (R123), it also reads (R127), or a
group-scope fence stands between them and they have one target (R130). A contribution may follow contributions. -/
def goesFirst (s : State) (q p : Posted) : Bool :=
  !(q.merged && willMerge s p) &&
    (isRmw q || touches s q p.loc (postedLen p) || (q.epoch < p.epoch && postedTarget s q == postedTarget s p))

/-- Bytes written one after the other from a location, those that are there. -/
def writePart (w : Who) (rt : ReqTy) (l : Loc) (cell : Option Nat) : Nat → List (Option Byte) → State → State × Bool
  | _, [], s => (s, false)
  | i, none :: r, s => writePart w rt l cell (i + 1) r s
  | i, some b :: r, s =>
    let x := writeLoc w rt (locAdd l i) (cell.map (fun c => c + i)) [b] s
    let q := writePart w rt l cell (i + 1) r x.1
    (q.1, x.2 || q.2)

/-- A posted operation of the issuing group performed at its target. -/
def performTo (p : Posted) (s : State) : State :=
  let w := whoOf s.cur
  let note := fun (bad : Bool) (s : State) => if bad then updCur (accessPoison s p) s else s
  match p.op with
  | .write bs => let r := writeLoc w p.rt p.loc p.cell bs s; note r.2 r.1
  | .part bs => let r := writePart w p.rt p.loc p.cell 0 bs s; note r.2 r.1
  | .red op ty v =>
    let n := tyBits ty / 8
    let r := rmwLoc w p.loc p.cell n (fun old => leBytes n (redVal op ty (leVal old) v.toNat)) s
    note r.2.poison r.1
  | .bacc fd fs scale elems =>
    let r := rmwLoc w p.loc p.cell (recordBytes fd) (accumulate fd fs scale.toNat p.lanes elems) s
    note r.2.poison r.1

/-- A posted operation of the issuing group performed at its target, under the version with which it was homed (R113). -/
def performOp (p : Posted) (s : State) : State := underVer p.ver (performTo p) s

/-- A posted operation cannot be performed at its target yet: its line waits for the host port, or the flush that it
needs cannot be made. -/
def opBusy (s : State) (p : Posted) : Bool :=
  locWaits s p.loc ||
    match redAddr s p with
    | some pa => if p.merged then !(canFlush s pa) else willMerge s p && !(redRoom s pa)
    | none => false

/-- The posted operations before position i leave i free to be performed; a contribution already made is not one. -/
def canPerform (s : State) (i : Nat) : Bool :=
  match s.cur.posted[i]? with
  | none => false
  | some p => !p.merged && !(opBusy s p) && !((s.cur.posted.take i).any (fun q => goesFirst s q p))

/-- A location whose accesses the directory tracks: a tracked mapping, or the peer window, which the home serves as `.unc`
(R106, R109). -/
def tracks (l : Loc) : Bool :=
  match l with
  | .dev _ t => t
  | _ => true

/-- The posted operation at position i goes on: it is performed and removed, or its contribution goes to the reduction
unit (R416), or the entry that holds it is flushed. -/
def performAt (i : Nat) (s : State) : State :=
  match s.cur.posted[i]? with
  | none => s
  | some p =>
    match (redAddr s p).filter (fun _ => p.merged || willMerge s p), p.op with
    | some pa, .red op ty v =>
      if p.merged then flushPa pa s
      else contribute pa p.cell op ty v.toNat s.cur.part.toNat (some s.cur.core) p.ver (tracks p.loc)
        (updCur (fun g => { g with posted := g.posted.modify i (fun x => { x with merged := true }) }) s)
    | _, _ => performOp p (updCur (fun g => { g with posted := g.posted.eraseIdx i }) s)

/-- Positions of the posted operations that can be performed now. -/
def performable (s : State) : List Nat := (List.range s.cur.posted.length).filter (canPerform s)

/-- One posted operation performed: any that can be, by a free choice where there are several (log 6). -/
def performOne (s : State) : State :=
  match performable s with
  | [] => s
  | [i] => performAt i s
  | i :: r => performAt ((i :: r).getD (Config.freeNat s.free % (r.length + 1)) i) { s with free := s.free + 1 }

/-- The position of a posted operation in a list. -/
def posOf (p : Posted) : List Posted → Option Nat
  | [] => none
  | q :: r => if q = p then some 0 else (posOf p r).map (fun i => i + 1)

/-- A posted operation performed at its target, a contribution with the flush of its entry. -/
def performWhole (p : Posted) (s : State) : State :=
  match posOf p s.cur.posted with
  | none => s
  | some i =>
    let s1 := performAt i s
    match posOf { p with merged := true } s1.cur.posted, redAddr s p with
    | some _, some pa => flushPa pa s1
    | _, _ => s1

/-- Some posted operations performed, oldest first, up to one that must wait (R102). -/
def performList : List Posted → State → State
  | [], s => s
  | p :: ps, s => if opBusy s p || !s.cur.placed then s else performList ps (performWhole p s)

/-- Every posted operation of the group performed, up to one that must wait. -/
def performAll (s : State) : State := performList s.cur.posted s

/-- The posted operations of every group performed, as far as they can be. -/
def performGroups (s : State) : State := (allGroups s).foldl (fun s g => onGroup g.gid performAll s) s

/-- The posted operations that a test selects, and those that must be performed before them. -/
def pickNeeded (s : State) (need : Posted → Bool) : List Posted → List Posted
  | [] => []
  | p :: r =>
    let q := pickNeeded s need r
    if need p || q.any (goesFirst s p) then p :: q else q

/-- The posted operations that a test selects, with what they need, performed as far as they can be. -/
def performNeeded (need : Posted → Bool) (s : State) : State := performList (pickNeeded s need s.cur.posted) s

/-- One of the posted operations that a test selects is left, or a line of some byte ranges waits (R102, R113). -/
def mustWait (need : Posted → Bool) (ls : List (Loc × Nat)) (s : State) : Bool :=
  ls.any (fun l => locBusy s l.1) || s.cur.posted.any need

/-- The posted operations that a test selects are performed first, with what they need; where a line waits, the
instruction does (R102, R113). -/
def afterNeeded (need : Posted → Bool) (ls : List (Loc × Nat)) (s : State) (k : State → State) : State :=
  ifRuns s.cur (performNeeded need s) fun s => if mustWait need ls s then block .posted s else k s

/-- A posted operation touches one of some byte ranges, or a group-scope fence has put it before an access to them
(R123, R130). -/
def beforeAccess (s : State) (ls : List (Loc × Nat)) (p : Posted) : Bool :=
  ls.any (fun l => touches s p l.1 l.2 || (p.epoch < s.cur.epoch && postedTarget s p == locTarget s l.1))

/-- An access of the group to some byte ranges (R156): posted operations that touch them are performed first. -/
def afterPosted (ls : List (Loc × Nat)) (s : State) (k : State → State) : State := afterNeeded (beforeAccess s ls) ls s k

/-- An access that other parties see at once: the reads of earlier read-modify-writes come before it too (R127). -/
def afterReads (ls : List (Loc × Nat)) (s : State) (k : State → State) : State :=
  afterNeeded (fun p => isRmw p || beforeAccess s ls p) ls s k

/-- A fence's scope has device scope or wider. -/
def scopeDevice : Scope → Bool
  | .device | .domain | .system => true
  | _ => false

/-- A fence's scope is cluster or wider. -/
def scopeCluster : Scope → Bool
  | .group | .team => false
  | _ => true

/-- What a release does at once (R107, R417): the entries that hold the group's contributions are flushed, and the dirty
words of the core's L1 are written back, so that each earlier store is performed at its home (R98; DEDUCED, log 76). -/
def releaseFlush (s : State) : State := cleanCore s.cur.core (flushPas (mergedAddrs s s.cur) s)

/-- The conditions of R130 hold for a release: every earlier store performed, and at system scope every invalidation
acknowledged by the host port (R107). -/
def releaseDone (sc : Scope) (s : State) : Bool := s.cur.posted.isEmpty && (sc != .system || s.hostAcks.isEmpty)

/-- The conditions of R130 hold for an acquire: every earlier read-modify-write has read. -/
def acquireReady (s : State) : Bool := !(s.cur.posted.any isRmw)

/-- The issuing group's fence can complete (R130). -/
def fenceReady (f : FenceRec) (s : State) : Bool :=
  (!(releases f.kind) || releaseDone f.scope s) && (!(acquires f.kind) || acquireReady s)

/-- What an acquire drops (R97, R109, R130). -/
def fenceEffects (k : FenceKind) (sc : Scope) (s : State) : State :=
  if acquires k && scopeCluster sc then acquireDrop s.cur.core (scopeDevice sc) s else s

/-- The incomplete fence ends: the held stores leave in order and are homed now (R113), speculation becomes
architectural (R131). -/
def endFence (s : State) : State :=
  let held := ((s.cur.fence.map FenceRec.held).getD []).flatten.map (fun p => { p with cell := locCell s p.loc, ver := s.ver })
  updCur (fun g => { g with
    fence := none, posted := g.posted ++ held,
    since := if g.wait == some .fence then 0 else g.since,
    wait := if g.wait == some .fence then none else g.wait }) s

/-- The issuing group's fence completes, if it can (R130). -/
def completeFence (s : State) : State :=
  match s.cur.fence with
  | none => s
  | some f =>
    let s := if releases f.kind then releaseFlush s else s
    if fenceReady f s && !s.commitPend then endFence (fenceEffects f.kind f.scope s) else s

end Sys2Proof.Machine
end

