-- ==== Sys2Proof/Machine/Memory.lean ====
section
/-! DEFINITION. `ld`, `st`, the tag instructions, `pf`, cache maintenance, `bmode` and `salloc` (R153 to R166). -/
namespace Sys2Proof.Machine

/-- The byte ranges of a lane's access: one, or one for each byte where it crosses a line. -/
def laneRanges (n : Nat) (x : LaneAcc) : List (Loc × Nat) :=
  if x.addr.toNat % 128 + n ≤ 128 then [(laneLoc x, n)] else (laneLocs x n).map (fun l => (l, 1))

/-- The byte ranges of the lanes that address memory, not a FIFO. -/
def memRanges (n : Nat) (xs : List LaneAcc) : List (Loc × Nat) :=
  (xs.filter (fun x => (laneBank x).isNone)).flatMap (laneRanges n)

/-- The value a store held after the fence gives a byte (R131): the last one. -/
def heldByte (s : State) (l : Loc) : Option Byte :=
  match s.cur.fence with
  | none => none
  | some f =>
    f.held.flatten.foldl (fun r p =>
      match p.op with
      | .write bs => if touches s p l 1 then bs[(locKey s.devno l).2 - (locKey s.devno p.loc).2]? else r
      | .part bs => if touches s p l 1 then (bs[(locKey s.devno l).2 - (locKey s.devno p.loc).2]?).join else r
      | _ => r) none

/-- Bytes read, with the held values in their place. -/
def overlay (s : State) : List Loc → List Byte → List Byte
  | l :: ls, b :: bs => (heldByte s l).getD b :: overlay s ls bs
  | _, _ => []

/-- Locations read one by one, a byte each (R137). -/
def readEach (w : Who) (rt : ReqTy) : List Loc → State → State × Got
  | [], s => (s, ⟨[], false⟩)
  | l :: ls, s =>
    let r := readLoc w rt l 1 s
    let q := readEach w rt ls r.1
    (q.1, ⟨r.2.bytes ++ q.2.bytes, r.2.poison || q.2.poison⟩)

/-- A line of tracked device memory as the lanes of a load read it, once for all of them (R139): its physical address /
128, its data, and the bytes that met poison. -/
structure LineRead where
  key : Nat
  data : LineData
  bad : LineMask
  deriving DecidableEq, Repr

/-- The bytes of the sectors of a line that are poisoned. -/
def poisonBytes (s : State) (line : Nat) : LineMask :=
  (List.range 4).foldl (fun m i => if s.poison.contains (4 * line + i) then m ||| maskRange (32 * i) 32 else m) 0

/-- The bytes of a mask read from one tracked line (R97, R362): those that meet poison are all ones. -/
def readLine (w : Who) (rt : ReqTy) (key : Nat) (m : LineMask) (s : State) : State × LineRead :=
  let pa := 128 * key
  match homeCell s.regions pa with
  | none => (noRegionCheck pa w.part.toNat s, ⟨key, BitVec.allOnes 1024, 0⟩)
  | some cell =>
    let line := cell / 128
    let hit := l1Serves w.core line rt m s
    let s := if hit then s else checkSectors line (loadSectors w.core line rt m s) s
    let bad := if hit then 0 else poisonBytes s line &&& m
    if s.retired.contains (pa / 65536) || bad = m && m != 0 then (s, ⟨key, BitVec.allOnes 1024, m⟩)
    else
      let r := coreLoad w.core line pa rt m s
      (r.1, ⟨key, mergeLine bad (BitVec.allOnes 1024) r.2, bad⟩)

/-- The tracked device bytes of some lanes. -/
def trackedBytes (n : Nat) (xs : List LaneAcc) : List Nat :=
  xs.flatMap (fun x => (laneLocs x n).filterMap (fun l => match l with
    | .dev pa true => some pa
    | _ => none))

/-- The bytes of one line among some addresses. -/
def maskAt (key : Nat) (pas : List Nat) : LineMask :=
  pas.foldl (fun m pa => if pa / 128 = key then m ||| maskRange (pa % 128) 1 else m) 0

/-- Lines read one after the other. -/
def readLines (w : Who) (rt : ReqTy) (pas : List Nat) : List Nat → State → State × List LineRead
  | [], s => (s, [])
  | k :: r, s =>
    let x := readLine w rt k (maskAt k pas) s
    let q := readLines w rt pas r x.1
    (q.1, x.2 :: q.2)

/-- A tracked byte as its line was read, and whether it met poison. -/
def lineGot (ls : List LineRead) (pa : Nat) : Byte × Bool :=
  match ls.find? (fun r => r.key = pa / 128) with
  | some r => (lineByte r.data (pa % 128), r.bad.getLsbD (pa % 128))
  | none => (0, false)

/-- Locations read one by one, a byte each (R137): tracked device memory as its lines were read. -/
def readBytes (w : Who) (rt : ReqTy) (rs : List LineRead) : List Loc → State → State × Got
  | [], s => (s, ⟨[], false⟩)
  | .dev pa true :: ls, s =>
    let q := readBytes w rt rs ls s
    (q.1, ⟨(lineGot rs pa).1 :: q.2.bytes, (lineGot rs pa).2 || q.2.poison⟩)
  | l :: ls, s =>
    let r := readLoc w rt l 1 s
    let q := readBytes w rt rs ls r.1
    (q.1, ⟨r.2.bytes ++ q.2.bytes, r.2.poison || q.2.poison⟩)

/-- What a lane receives (R362): all ones where it met poison. -/
def orOnes (n : Nat) (r : State × Got) : State × Got := if r.2.poison then (r.1, ⟨allOnesBytes n, true⟩) else r

/-- A lane's load of n bytes (R137, R158): whole where aligned, byte by byte otherwise. -/
def readLane (w : Who) (rt : ReqTy) (n : Nat) (rs : List LineRead) (x : LaneAcc) (s : State) : State × Got :=
  let r := orOnes n (if x.addr.toNat % n = 0 && !(isTracked (laneLoc x)) then readLoc w rt (laneLoc x) n s
    else readBytes w rt rs (laneLocs x n) s)
  if s.cur.fence.isNone then r else (r.1, ⟨overlay s (laneLocs x n) r.2.bytes, r.2.poison⟩)

/-- What the lanes of a load received: lane and value; and the lanes that met poison. -/
structure Loaded where
  vals : List (Nat × Nat)
  bad : List LaneAcc
  deriving DecidableEq, Repr

/-- The lanes read, lowest first, from lines that have been read. -/
def readEachLane (w : Who) (rt : ReqTy) (n : Nat) (rs : List LineRead) : List LaneAcc → State → State × Loaded
  | [], s => (s, ⟨[], []⟩)
  | x :: xs, s =>
    let r := readLane w rt n rs x s
    let q := readEachLane w rt n rs xs r.1
    (q.1, ⟨(x.lane, leVal r.2.bytes) :: q.2.vals, if r.2.poison then x :: q.2.bad else q.2.bad⟩)

/-- The lanes of a load read: each line of tracked device memory once, so that lanes that read one byte read one write
(R139). -/
def readLanes (w : Who) (rt : ReqTy) (n : Nat) (xs : List LaneAcc) (s : State) : State × Loaded :=
  let pas := trackedBytes n xs
  let r := readLines w rt pas ((pas.map (fun pa => pa / 128)).eraseDups) s
  readEachLane w rt n r.2 xs r.1

/-- The value of a lane in a list of loaded values. -/
def valAt (vs : List (Nat × Nat)) (l : Nat) : Nat := ((vs.find? (fun v => v.1 = l)).map (fun v => v.2)).getD 0

/-- The values that a FIFO's lanes receive (R89): data items in lane order, then 0. -/
def popValues (items : List LaneWord) : List LaneAcc → List (Nat × Nat)
  | [] => []
  | x :: xs => (x.lane, ((items.head?.map BitVec.toNat).getD 0)) :: popValues (items.drop 1) xs

/-- The banks of a load popped (R89). -/
def popBanks (xs : List LaneAcc) : List Nat → State → State × List (Nat × Nat)
  | [], s => (s, [])
  | b :: bs, s =>
    let here := lanesAt xs b
    let items := (dataRun (bankOf s s.cur.core b).fifo.items).take here.length
    let q := popBanks xs bs (popItems s.cur.core b items.length false s)
    (q.1, popValues items here ++ q.2)

/-- The lines that a load past an incomplete fence has read (R132). -/
def noteLines (lines : List Nat) (s : State) : State :=
  updCur (fun g => { g with fence := g.fence.map (fun f => { f with lines := lines ++ f.lines }) }) s

/-- The home lines of some tracked addresses. -/
def linesOf (s : State) (pas : List Nat) : List Nat :=
  ((pas.filterMap (homeCell s.regions)).map (fun c => c / 128)).eraseDups

/-- A lane may load past an incomplete fence (R131): every byte lies in tracked device memory, with a home, and neither a
poisoned sector nor a retired page is met. -/
def specLane (n : Nat) (s : State) (x : LaneAcc) : Bool :=
  !(laneLocs x n).isEmpty && (laneLocs x n).all (fun l =>
    isTracked l && !(inRetired s l) && (locCell s l).any (fun c => !(cellPoisoned s c 1)))

/-- A load is served in the L1, with no request to a home (R98). -/
def servedInL1 (s : State) (rt : ReqTy) (l : Loc × Nat) : Bool :=
  match l.1, locCell s l.1 with
  | .dev _ true, some c => l1Serves s.cur.core (c / 128) rt (maskRange (c % 128) l.2) s
  | _, _ => false

/-- A load of the group from some byte ranges (R156): posted operations that touch them are performed first, and those
that a group-scope fence has put before a request to the same home (R130). -/
def afterLoad (rt : ReqTy) (ls : List (Loc × Nat)) (s : State) (k : State → State) : State :=
  afterNeeded (fun p => ls.any (fun l => touches s p l.1 l.2) || beforeAccess s (ls.filter (fun l => !(servedInL1 s rt l))) p) ls s k

/-- What a load that has read its lanes writes (R89, R158, R362). -/
def finishLoad (len : Nat) (ty : Ty) (d : VReg) (xs : List LaneAcc) (r : Loaded) (s : State) : State :=
  let act := active s
  let q := popBanks xs (banksOf xs) s
  let vals := r.vals ++ q.2
  let s := setDests act (regsOf ty d) (fun i l => wordOf (valAt vals l) i) q.1
  advance len (if r.bad.isEmpty then s else notePoison (accMask r.bad) ((r.bad.head?.map LaneAcc.addr).getD 0) s)

/-- A load past an incomplete fence that has read its lanes (R131, R132): it waits for the fence where it has met poison. -/
def finishSpec (len : Nat) (ty : Ty) (d : VReg) (xs : List LaneAcc) (r : Loaded) (s : State) : State :=
  let pas := trackedBytes (tyBits ty / 8) xs
  if r.bad.isEmpty then finishLoad len ty d xs r (noteLines (linesOf s pas) s)
  else block .fence s

/-- `ld` of n bytes of code (R157, R158, R131). -/
def loadOp (len : Nat) (rt : ReqTy) (ty : Ty) (d : VReg) (b : MBase) (off : BitVec 32) (s : State) : State :=
  let n := tyBits ty / 8
  notCrew s fun s => regCheck (regsOf ty d ++ baseRegs b) s fun s => onceForGroup len s fun s =>
    if s.cur.fence.isSome && !(rt == .own || rt == .wt) then block .fence s
    else
      checkLanes .load n .alignment (fun _ _ => true) (fifoSpace .pop (ty == .b32)) (laneAddrs b off s) s fun xs s =>
        if s.cur.fence.isSome && !(xs.all (specLane n s)) then block .fence s
        else
          afterFifo .pop xs s fun s => afterLoad rt (memRanges n xs) s fun s =>
            let r := readLanes (whoOf s.cur) rt n (xs.filter (fun x => (laneBank x).isNone)) s
            ifRuns s.cur r.1 fun s =>
              if s.cur.fence.isSome then finishSpec len ty d xs r.2 s else finishLoad len ty d xs r.2 s

/-- LD (R158). -/
def execLd (rt : ReqTy) (ty : Ty) (d : VReg) (base : MBase) (s : State) : Result := .next (loadOp 8 rt ty d base 0 s)
/-- LD_OFF (R158). -/
def execLdOff (rt : ReqTy) (ty : Ty) (d : VReg) (base : MBase) (off : BitVec 32) (s : State) : Result :=
  .next (loadOp 16 rt ty d base off s)

/-- A later lane writes the byte at a location (R139). -/
def writtenLater (devno n : Nat) (later : List LaneAcc) (l : Loc) : Bool :=
  later.any (fun y => (laneLocs y n).any (fun m => locKey devno m == locKey devno l))

/-- A posted operation of the issuing group on some lanes at a location. -/
def newPosted (s : State) (op : PostedOp) (rt : ReqTy) (l : Loc) (lanes : Mask) (a : VAddr) : Posted :=
  ⟨op, l, rt, locCell s l, s.ver, lanes, a, s.tick, s.cur.epoch, false⟩

/-- A posted store of a lane at a location. -/
def postWrite (s : State) (rt : ReqTy) (op : PostedOp) (l : Loc) (x : LaneAcc) : Posted :=
  newPosted s op rt l (BitVec.twoPow 32 x.lane) x.addr

/-- The bytes of an aligned lane that no higher lane writes (R139). -/
def keptBytes (devno n : Nat) (later : List LaneAcc) (ls : List Loc) (bs : List Byte) : List (Option Byte) :=
  (ls.zip bs).map (fun p => if writtenLater devno n later p.1 then none else some p.2)

/-- The posted writes of a store's lanes (R137, R139, R156): one for an aligned lane, without the bytes that a higher lane
writes, and one for each such byte of another. -/
def storePosts (s : State) (rt : ReqTy) (n : Nat) (val : Nat → Nat) : List LaneAcc → List Posted
  | [] => []
  | x :: xs =>
    let bs := leBytes n (val x.lane)
    let ls := laneLocs x n
    let kept := keptBytes s.devno n xs ls bs
    let here :=
      if x.addr.toNat % n = 0 then
        (if kept.all Option.isSome then [postWrite s rt (.write bs) (laneLoc x) x]
         else if kept.any Option.isSome then [postWrite s rt (.part kept) (laneLoc x) x]
         else [])
      else ((ls.zip bs).filter (fun p => !(writtenLater s.devno n xs p.1))).map (fun p => postWrite s rt (.write [p.2]) p.1 x)
    here ++ storePosts s rt n val xs

/-- Posted operations handed over (R156): to the store buffer past an incomplete fence, which holds 16 instructions
(R131), otherwise to the group's posted operations. -/
def post (ps : List Posted) (s : State) (k : State → State) : State :=
  match s.cur.fence with
  | some f =>
    if 16 ≤ f.held.length then block .fence s
    else k { updCur (fun g => { g with fence := some { f with held := f.held ++ [ps] } }) s with tick := s.tick + 1 }
  | none => k { updCur (fun g => { g with posted := g.posted ++ ps }) s with tick := s.tick + 1 }

/-- The words of a FIFO's lanes pushed (R89). -/
def pushBanks (xs : List LaneAcc) (val : Nat → Nat) : List Nat → State → State
  | [], s => s
  | b :: bs, s =>
    pushBanks xs val bs (pushItems s.cur.core b ((lanesAt xs b).map (fun x => some (BitVec.ofNat 32 (val x.lane)))) s)

/-- `st` of n bytes of code (R157, R158). -/
def storeOp (len : Nat) (rt : ReqTy) (ty : Ty) (d : VReg) (b : MBase) (off : BitVec 32) (s : State) : State :=
  let n := tyBits ty / 8
  notCrew s fun s => regCheck (regsOf ty d ++ baseRegs b) s fun s => onceForGroup len s fun s =>
    checkLanes .store n .alignment (fun _ _ => true) (fifoSpace .push (ty == .b32)) (laneAddrs b off s) s fun xs s =>
      if s.cur.fence.isSome && !(banksOf xs).isEmpty then block .fence s
      else if s.commitPend && xs.any (fun x => (laneLocs x n).any (fun l => (homeAddr s l).isSome)) then block .posted s
      else
        afterFifo .push xs s fun s => afterNeeded (fun p => isRmw p && !(banksOf xs).isEmpty) [] s fun s =>
          post (storePosts s rt n (laneVal s ty d) (xs.filter (fun x => (laneBank x).isNone))) s fun s =>
            advance len (pushBanks xs (laneVal s ty d) (banksOf xs) s)

/-- ST (R158). -/
def execSt (rt : ReqTy) (ty : Ty) (d : VReg) (base : MBase) (s : State) : Result := .next (storeOp 8 rt ty d base 0 s)
/-- ST_OFF (R158). -/
def execStOff (rt : ReqTy) (ty : Ty) (d : VReg) (base : MBase) (off : BitVec 32) (s : State) : Result :=
  .next (storeOp 16 rt ty d base off s)

/-- The stage-2 check of the tag instructions (R154, R160, R162): scratchpads, and FIFO banks where `fifo` allows. -/
def tagSpaceOf (fifo : FifoAcc) (xs : List LaneAcc) (s : State) (x : LaneAcc) : Option Cause :=
  match laneLoc x with
  | .smem _ _ | .absent => none
  | .fifo _ => fifoSpace fifo true xs s x
  | _ => some .tagSpace

/-- The scratchpad word that a lane addresses (R84). -/
def laneWord (x : LaneAcc) : Nat :=
  match laneLoc x with
  | .smem c o => c * 0x60000 + o / 4
  | _ => 0

/-- The tag of a word. -/
def tagOf (s : State) (w : Nat) : Bool := tget false s.tags w
/-- The tags of some words set. -/
def setTags (ws : List Nat) (full : Bool) (s : State) : State :=
  { s with tags := ws.foldl (fun t w => tset false t w full) s.tags }

/-- Every word is in the awaited state (R85). -/
def tagsAre (s : State) (want : Bool) (ws : List Nat) : Bool := ws.all (fun w => tagOf s w == want)

/-- The issuing group waits on tags. -/
def inTagWait (g : Group) : Bool :=
  match g.wait with
  | some (.tag _ _) => g.since != 0
  | _ => false

/-- A group whose wait on one of these words began earlier and whose condition holds is served first (R86). A group that does
not wait on tags yet comes after every one that does, whatever it has waited for before. -/
def tagServedFirst (ws : List Nat) (s : State) : Bool :=
  s.groups.any (fun g => g.placed && (!(inTagWait s.cur) || g.since < s.cur.since) &&
    match g.wait with
    | some (.tag want qs) => qs.any (fun q => ws.contains q) && tagsAre s want qs
    | _ => false)

/-- A posted operation in the local spaces. -/
def isLocal (p : Posted) : Bool :=
  match p.loc with
  | .smem _ _ => true
  | _ => false

/-- What a tag event of the group orders (R120, R126): its earlier local stores are performed before it, and its earlier
read-modify-writes have read (R127). -/
def beforeTag (s : State) (k : State → State) : State := afterNeeded (fun p => isLocal p || isRmw p) [] s k

/-- `ldt` and `stt` after their checks (R85): the wait, then all lanes together. -/
def tagged (len : Nat) (want : Bool) (xs : List LaneAcc) (s : State) (k : List Nat → State → State) : State :=
  let ws := xs.map laneWord
  beforeTag s fun s =>
    if !(tagsAre s want ws) || tagServedFirst ws s then block (.tag want ws) s else advance len (k ws s)

/-- `ldt` of n bytes of code (R160). -/
def ldtOp (len : Nat) (keep : Bool) (d : VReg) (b : MBase) (off : BitVec 32) (s : State) : State :=
  notCrew s fun s => regCheck (d.toNat :: baseRegs b) s fun s => onceForGroup len s fun s => afterFence s fun s =>
    checkLanes .load 4 .alignment (fun _ => alignedTo 4) (tagSpaceOf .other) (laneAddrs b off s) s fun xs s =>
      afterPosted (memRanges 4 xs) s fun s => tagged len true xs s fun ws s =>
        let vals := xs.map (fun x => (x.lane, leVal (tbytes s.smem (4 * laneWord x) 4)))
        setTags ws keep (setDests (active s) [d.toNat] (fun _ l => BitVec.ofNat 32 (valAt vals l)) s)

/-- `stt` of n bytes of code (R160): lanes in increasing order. -/
def sttOp (len : Nat) (d : VReg) (b : MBase) (off : BitVec 32) (s : State) : State :=
  notCrew s fun s => regCheck (d.toNat :: baseRegs b) s fun s => onceForGroup len s fun s => afterFence s fun s =>
    checkLanes .store 4 .alignment (fun _ => alignedTo 4) (tagSpaceOf .other) (laneAddrs b off s) s fun xs s =>
      afterPosted (memRanges 4 xs) s fun s => tagged len false xs s fun ws s =>
        let smem := xs.foldl (fun t x => tsetList 0 t (4 * laneWord x) (leBytes 4 (getV s d.toNat x.lane).toNat)) s.smem
        setTags ws true { s with smem := smem }

/-- LDT (R160): the request type has no effect. -/
def execLdt (_rt : ReqTy) (keep : Bool) (d : VReg) (base : MBase) (s : State) : Result := .next (ldtOp 8 keep d base 0 s)
/-- LDT_OFF (R160). -/
def execLdtOff (_rt : ReqTy) (keep : Bool) (d : VReg) (base : MBase) (off : BitVec 32) (s : State) : Result :=
  .next (ldtOp 16 keep d base off s)
/-- STT (R160). -/
def execStt (_rt : ReqTy) (d : VReg) (base : MBase) (s : State) : Result := .next (sttOp 8 d base 0 s)
/-- STT_OFF (R160). -/
def execSttOff (_rt : ReqTy) (d : VReg) (base : MBase) (off : BitVec 32) (s : State) : Result :=
  .next (sttOp 16 d base off s)

/-- The words of the lanes that address scratchpads. -/
def scratchWords (xs : List LaneAcc) : List Nat := (xs.filter (fun x => (laneBank x).isNone)).map laneWord

/-- The whole scratchpad words that lanes address, whose tags an earlier store to any of their bytes sets (R84). -/
def wordRanges (xs : List LaneAcc) : List (Loc × Nat) :=
  (memRanges 1 xs).map (fun l => match l.1 with
    | .smem c o => (.smem c (o / 4 * 4), 4)
    | _ => l)

/-- `tset`, `tclr` or `ttest` with its checks (R162). -/
def tagOp (len : Nat) (acc : FifoAcc) (b : MBase) (off : BitVec 32) (s : State) (k : List LaneAcc → State → State) : State :=
  notCrew s fun s => regCheck (baseRegs b) s fun s => onceForGroup len s fun s => afterFence s fun s =>
    checkLanes (if acc == .ttest then .load else .store) 1 .alignment (fun _ _ => true) (tagSpaceOf acc) (laneAddrs b off s) s
      fun xs s => afterFifo acc xs s fun s => afterPosted (wordRanges xs) s fun s =>
        if acc == .ttest then advance len (k xs s) else beforeTag s fun s => advance len (k xs s)

/-- `tset` (R89, R162). -/
def tsetOp (len : Nat) (b : MBase) (off : BitVec 32) (s : State) : State :=
  tagOp len .tset b off s fun xs s =>
    (banksOf xs).foldl (fun s k => pushItems s.cur.core k [none] s) (setTags (scratchWords xs) true s)

/-- The head token of a bank popped, if there is one (R89). -/
def popToken (s : State) (k : Nat) : State :=
  if headToken (bankOf s s.cur.core k).fifo then popItems s.cur.core k 1 true s else s

/-- `tclr` (R89, R162). -/
def tclrOp (len : Nat) (b : MBase) (off : BitVec 32) (s : State) : State :=
  tagOp len .tclr b off s fun xs s => (banksOf xs).foldl popToken (setTags (scratchWords xs) false s)

/-- What `ttest` gives a lane (R89, R162). -/
def ttestLane (s : State) (x : LaneAcc) : Bool :=
  match laneBank x with
  | some b => headToken (bankOf s s.cur.core b).fifo
  | none => tagOf s (laneWord x)

/-- `ttest` (R162). -/
def ttestOp (len : Nat) (p : PReg) (b : MBase) (off : BitVec 32) (s : State) : State :=
  tagOp len .ttest b off s fun xs s => setP (active s) p (accMask (xs.filter (ttestLane s))) s

/-- TSET (R162). -/
def execTset (_rt : ReqTy) (base : MBase) (s : State) : Result := .next (tsetOp 8 base 0 s)
/-- TSET_OFF (R162). -/
def execTsetOff (_rt : ReqTy) (base : MBase) (off : BitVec 32) (s : State) : Result := .next (tsetOp 16 base off s)
/-- TCLR (R162). -/
def execTclr (_rt : ReqTy) (base : MBase) (s : State) : Result := .next (tclrOp 8 base 0 s)
/-- TCLR_OFF (R162). -/
def execTclrOff (_rt : ReqTy) (base : MBase) (off : BitVec 32) (s : State) : Result := .next (tclrOp 16 base off s)
/-- TTEST (R162). -/
def execTtest (_rt : ReqTy) (p : PReg) (base : MBase) (s : State) : Result := .next (ttestOp 8 p base 0 s)
/-- TTEST_OFF (R162). -/
def execTtestOff (_rt : ReqTy) (p : PReg) (base : MBase) (off : BitVec 32) (s : State) : Result :=
  .next (ttestOp 16 p base off s)

/-- A tracked address filled into the core's L1 under a request type, as a load of it would be (R102, R163). -/
def prefetch (w : Who) (rt : ReqTy) (s : State) (pa : Nat) : State :=
  match homeCell s.regions pa with
  | none => s
  | some cell =>
    let line := cell / 128
    let m := maskRange (cell % 128) 1
    if l1Serves w.core line rt m s then useCopy w.core line s
    else
      let s := checkSectors line (loadSectors w.core line rt m s) s
      if s.retired.contains (pa / 65536) then s else homeLoad w.core line pa rt m s

/-- The tracked addresses that the lanes of a `pf` name (R163): a lane that fails is dropped. True where a walk waits. -/
def pfAddrs (w : Who) : List (Nat × VAddr) → State → State × List Nat × Bool
  | [], s => (s, [], false)
  | a :: r, s =>
    match translateP w .load a.2 s with
    | (s, .ok (.dev pa true)) => let q := pfAddrs w r s; (q.1, pa :: q.2.1, q.2.2)
    | (s, .wait) => (s, [], true)
    | (s, _) => pfAddrs w r s

/-- `pf` (R163): `.unc` and none fill nothing; forms other than `.own` and `.wt` wait at an incomplete fence. -/
def pfOp (len : Nat) (rt : ReqTy) (b : MBase) (off : BitVec 32) (s : State) : State :=
  notCrew s fun s => regCheck (baseRegs b) s fun s => onceForGroup len s fun s =>
    if s.cur.fence.isSome && !(rt == .own || rt == .wt) then block .fence s
    else if rt == .unc || rt == .none then advance len s
    else
      let t := pfAddrs (whoOf s.cur) (laneAddrs b off s) s
      if t.2.2 || t.2.1.any (fun pa => locBusy t.1 (.dev pa true)) then block .posted t.1
      else ifRuns s.cur (t.2.1.foldl (prefetch (whoOf s.cur) rt) t.1) (advance len)

/-- PF (R163). -/
def execPf (rt : ReqTy) (base : MBase) (s : State) : Result := .next (pfOp 8 rt base 0 s)
/-- PF_OFF (R163). -/
def execPfOff (rt : ReqTy) (base : MBase) (off : BitVec 32) (s : State) : Result := .next (pfOp 16 rt base off s)

/-- Cache maintenance of one line (R164): dirty words written back; the copy kept, clean, or dropped. -/
def maintain (drop : Bool) (s : State) (x : LaneAcc) : State :=
  match laneLoc x, locCell s (laneLoc x) with
  | .dev _ _, some cell =>
    match copyOf s.cur.core (cell / 128) s with
    | none => s
    | some c =>
      if drop then evict c s
      else setCopy c.client c.line (fun y => { y with dirty := 0 }) (writeBack (BitVec.allOnes 128) c s)
  | _, _ => s

/-- The whole line of a device location. -/
def lineRange (x : LaneAcc) : List (Loc × Nat) :=
  match laneLoc x with
  | .dev pa t => [(.dev (pa / 128 * 128) t, 128)]
  | _ => []

/-- `cwb`, `cinv`, `cflush` (R164): translated as a load; earlier posted stores to the lines come first. -/
def maintainOp (len : Nat) (drop : Bool) (b : MBase) (off : BitVec 32) (s : State) : State :=
  notCrew s fun s => regCheck (baseRegs b) s fun s => onceForGroup len s fun s =>
    let t := translateLanes (whoOf s.cur) .load 1 (laneAddrs b off s) s
    stage1 t.2 t.1 fun s => afterPosted (t.2.flatMap lineRange) s fun s =>
      ifRuns s.cur (t.2.foldl (maintain drop) s) (advance len)

/-- CWB (R164). -/
def execCwb (base : MBase) (s : State) : Result := .next (maintainOp 8 false base 0 s)
/-- CWB_OFF (R164). -/
def execCwbOff (base : MBase) (off : BitVec 32) (s : State) : Result := .next (maintainOp 16 false base off s)
/-- CINV (R164): acts as `cflush` on a line with dirty words. -/
def execCinv (base : MBase) (s : State) : Result := .next (maintainOp 8 true base 0 s)
/-- CINV_OFF (R164). -/
def execCinvOff (base : MBase) (off : BitVec 32) (s : State) : Result := .next (maintainOp 16 true base off s)
/-- CFLUSH (R164). -/
def execCflush (base : MBase) (s : State) : Result := .next (maintainOp 8 true base 0 s)
/-- CFLUSH_OFF (R164). -/
def execCflushOff (base : MBase) (off : BitVec 32) (s : State) : Result := .next (maintainOp 16 true base off s)

/-- ALC: a byte of a bank lies in a live extent (R78). -/
def bankAlloc (s : State) (core b : Nat) : Bool :=
  s.teams.any (fun t => t.core = core && t.exts.any (fun e => e.base < 0x8000 * (b + 1) && 0x8000 * b < e.base + e.size))

/-- Another group of the core has waited longer for a switch of a bank (R165). -/
def switchBefore (b : Nat) (s : State) : Bool :=
  s.groups.any (fun g => g.placed && g.core = s.cur.core && g.wait == some (.bank b) &&
    (s.cur.wait != some (.bank b) || g.since < s.cur.since))

/-- BMODE (R80, R165): the switch is refused, or done at once for the present mode, or begins; the group waits for its
end, and for the switches received before it. -/
def execBmode (bank : BitVec 6) (mode : BankMode) (s : State) : Result :=
  .next (notCrew s fun s => onceForGroup 16 s fun s => afterFence s fun s =>
    let b := bank.toNat
    let k := bankOf s s.cur.core b
    if k.next.isSome || switchBefore b s then block (.bank b) s
    else if bankAlloc s s.cur.core b || (k.mode == .fifo && k.owner != s.cur.slot) then raiseOpen .bankInUse s
    else if k.mode == mode then advance 16 s
    else block (.bank b) (setBank s.cur.core b (fun x => { x with next := some (mode, s.cur.gid) }) s))

/-- A core's scratchpad bytes lie in scratchpad banks and in no extent (R166). -/
def runFree (s : State) (core b size : Nat) : Bool :=
  (List.range 48).all (fun k => !(b < 0x8000 * (k + 1) && 0x8000 * k < b + size) ||
    ((bankOf s core k).mode == .scratch && (bankOf s core k).next.isNone)) &&
  !(s.teams.any (fun t => t.core = core && t.exts.any (fun e => e.base < b + size && b < e.base + e.size)))

/-- The lowest free multiple of 256 for a size (R166). -/
def findRun (s : State) (core size : Nat) : Option Nat :=
  if 0x180000 < size then none
  else ((List.range ((0x180000 - size) / 256 + 1)).find? (fun i => runFree s core (256 * i) size)).map (fun i => 256 * i)

/-- A team changed. -/
def setTeam (core slot : Nat) (f : Team → Team) (s : State) : State :=
  { s with teams := s.teams.map (fun t => if t.core = core && t.slot = slot then f t else t) }

/-- SALLOC (R166). -/
def execSalloc (d a : SReg) (s : State) : Result :=
  .next (notCrew s fun s => onceForGroup 8 s fun s => afterFence s fun s =>
    let n := (getS s a).toNat
    let core := s.cur.core
    let size := (n + 255) / 256 * 256
    let exts := ((teamAt s core s.cur.slot).map Team.exts).getD []
    let num := [1, 2, 3].find? (fun i => !(exts.any (fun e => e.num = i)))
    match num, (if n = 0 || 0x180000 < n then none else findRun s core size) with
    | some i, some b =>
      advance 8 (setS d (BitVec.ofNat 64 (localBase + b))
        (clearScratch core b size (setTeam core s.cur.slot (fun t => { t with exts := t.exts ++ [⟨i, b, size⟩] }) s)))
    | _, _ => advance 8 (setS d 0 s))

end Sys2Proof.Machine
end

