-- ==== Sys2Proof/Machine/Atomics.lean ====
section
/-! DEFINITION. Atomics in repechage passes (R168 to R172), `red` (R173), and the block atomics (R210 to R219). -/
namespace Sys2Proof.Machine

/-- Stage 2 of the atomics and of `red` (R168): the FIFO space is refused. -/
def noFifo (xs : List LaneAcc) (s : State) (x : LaneAcc) : Option Cause := fifoSpace .other true xs s x

/-- The lanes of a pass (R170): for each address the lowest lane at it; and the lanes left for later passes. -/
def splitPass (devno : Nat) : List AtomLane → List (Nat × Nat) → List AtomLane × List AtomLane
  | [], _ => ([], [])
  | x :: xs, seen =>
    if seen.contains (locKey devno x.loc) then
      let r := splitPass devno xs seen
      (r.1, x :: r.2)
    else
      let r := splitPass devno xs (locKey devno x.loc :: seen)
      (x :: r.1, r.2)

/-- Poison that a lane of an atomic has met (R362): the deferred trap names every lane of the access that met it. -/
def atomPoison (x : AtomLane) (s : State) : State :=
  if (s.cur.passes.any Passes.bad) then updCur (fun g => { g with pend := g.pend.map (addPoison (BitVec.twoPow 32 x.lane) x.addr) }) s
  else
    let s1 := updCur (fun g => { g with passes := g.passes.map (fun p => { p with bad := g.pend.isNone }) }) s
    notePoison (BitVec.twoPow 32 x.lane) x.addr s1

/-- One lane's read-modify-write (R169, R171): the old value goes to its vD. -/
def atomLane (op : AtomOp) (ty : Ty) (d : VReg) (x : AtomLane) (s : State) : State :=
  let n := tyBits ty / 8
  let r := rmwLoc (whoOf s.cur) x.loc (locCell s x.loc) n
    (fun old => leBytes n (atomVal op ty (leVal old) x.v.toNat x.e.toNat)) s
  let s := setDests (BitVec.twoPow 32 x.lane) (regsOf ty d) (fun i _ => wordOf (leVal r.2.bytes) i) r.1
  if r.2.poison then atomPoison x s else s

/-- The lanes of one pass performed (R170); the lanes left wait for the next. A line that is held delays the pass. -/
def passOf (p : Passes) (s : State) : State :=
  if p.left.any (fun x => locBusy s x.loc) then updCur (fun g => { g with passes := some p }) s
  else
    let r := splitPass s.devno p.left []
    let s := r.1.foldl (fun s x => atomLane p.op p.ty p.d x s) (updCur (fun g => { g with passes := some p }) s)
    updCur (fun g => { g with passes := if r.2.isEmpty then none else g.passes.map (fun q => { q with left := r.2 }) }) s

/-- An atomic of a group (R168 to R172): its checks, then its first pass. The group issues nothing until its last. -/
def atomOp (op : AtomOp) (ty : Ty) (d : VReg) (b : MBase) (off : BitVec 32) (named : List Nat)
    (v e : Nat → Nat) (s : State) : State :=
  let n := tyBits ty / 8
  notCrew s fun s => regCheck (regsOf ty d ++ named ++ baseRegs b) s fun s => onceForGroup 16 s fun s => afterFence s fun s =>
    checkLanes .atomic n .alignment (fun _ => alignedTo n) noFifo (laneAddrs b off s) s fun xs s =>
      afterReads (memRanges n xs) s fun s =>
        advance 16 (passOf ⟨op, ty, d, xs.map (fun x =>
          ⟨x.lane, laneLoc x, x.addr, BitVec.ofNat 64 (v x.lane), BitVec.ofNat 64 (e x.lane)⟩), false⟩ s)

/-- An atomic with one data operand. -/
def atomOne (op : AtomOp) (ty : Ty) (d : VReg) (b : MBase) (off : BitVec 32) (c : VReg) (s : State) : State :=
  atomOp op ty d b off (regsOf ty c) (laneVal s ty c) (fun _ => 0) s

/-- AADD (R169). -/
def execAadd (_sc : Scope) (ty : Ty) (d : VReg) (base : MBase) (off : BitVec 32) (c : VReg) (s : State) : Result :=
  .next (atomOne .add ty d base off c s)
/-- AMIN (R169). -/
def execAmin (_sc : Scope) (ty : Ty) (d : VReg) (base : MBase) (off : BitVec 32) (c : VReg) (s : State) : Result :=
  .next (atomOne .min ty d base off c s)
/-- AMAX (R169). -/
def execAmax (_sc : Scope) (ty : Ty) (d : VReg) (base : MBase) (off : BitVec 32) (c : VReg) (s : State) : Result :=
  .next (atomOne .max ty d base off c s)
/-- AAND (R169). -/
def execAand (_sc : Scope) (ty : Ty) (d : VReg) (base : MBase) (off : BitVec 32) (c : VReg) (s : State) : Result :=
  .next (atomOne .and ty d base off c s)
/-- AOR (R169). -/
def execAor (_sc : Scope) (ty : Ty) (d : VReg) (base : MBase) (off : BitVec 32) (c : VReg) (s : State) : Result :=
  .next (atomOne .or ty d base off c s)
/-- AXOR (R169). -/
def execAxor (_sc : Scope) (ty : Ty) (d : VReg) (base : MBase) (off : BitVec 32) (c : VReg) (s : State) : Result :=
  .next (atomOne .xor ty d base off c s)
/-- AXCHG (R169). -/
def execAxchg (_sc : Scope) (ty : Ty) (d : VReg) (base : MBase) (off : BitVec 32) (c : VReg) (s : State) : Result :=
  .next (atomOne .xchg ty d base off c s)
/-- ACAS (R172): vC expected, vE desired. -/
def execAcas (_sc : Scope) (ty : Ty) (d : VReg) (base : MBase) (off : BitVec 32) (c e : VReg) (s : State) : Result :=
  .next (atomOp .cas ty d base off (regsOf ty c ++ regsOf ty e) (laneVal s ty c) (laneVal s ty e) s)
/-- AINC (R169). -/
def execAinc (_sc : Scope) (ty : Ty) (d : VReg) (base : MBase) (off : BitVec 32) (s : State) : Result :=
  .next (atomOp .inc ty d base off [] (fun _ => 0) (fun _ => 0) s)

/-- The first lane at each address. -/
def firstLanes (devno : Nat) : List LaneAcc → List (Nat × Nat) → List LaneAcc
  | [], _ => []
  | x :: xs, seen =>
    let k := locKey devno (laneLoc x)
    if seen.contains k then firstLanes devno xs seen else x :: firstLanes devno xs (k :: seen)

/-- One posted reduction (R173): the tree over the lanes at the address of a lane, in increasing lane order. -/
def redPost (s : State) (op : RedOp) (ty : Ty) (c : VReg) (xs : List LaneAcc) (x : LaneAcc) : Posted :=
  let here := xs.filter (fun y => locKey s.devno (laneLoc y) == locKey s.devno (laneLoc x))
  let v := (treeOf op ty (here.map (fun y => laneVal s ty c y.lane))).1
  newPosted s (.red op ty (BitVec.ofNat 64 v)) .unc (laneLoc x) (accMask here) x.addr

/-- RED (R173): posted, one read-modify-write for each address. -/
def execRed (op : RedOp) (_sc : Scope) (ty : Ty) (base : MBase) (off : BitVec 32) (c : VReg) (s : State) : Result :=
  let n := tyBits ty / 8
  .next (notCrew s fun s => regCheck (regsOf ty c ++ baseRegs base) s fun s => onceForGroup 16 s fun s =>
    afterFence s fun s =>
      checkLanes .atomic n .alignment (fun _ => alignedTo n) noFifo (laneAddrs base off s) s fun xs s =>
        if s.commitPend then block .posted s
        else post ((firstLanes s.devno xs []).map (redPost s op ty c xs)) s fun s => advance 16 s)

/-- Stage 2 of `bacc` (R212): the global and peer windows only. -/
def baccSpace (_xs : List LaneAcc) (_s : State) (x : LaneAcc) : Option Cause :=
  if x.addr.toNat < 0x180000000000000 then none else some .blockSpace

/-- A location that `bld` may not read (R212): host memory and FIFO banks. -/
def bldRefuses (l : Loc) : Option Cause :=
  match l with
  | .host _ | .fifo _ => some .blockSpace
  | _ => none

/-- Stage 4 of R212: a slot's first byte, the same for every lane. -/
def blockAligned (t : Ty) (xs : List LaneAcc) (x : LaneAcc) : Bool :=
  slotAligned t x.addr && ((xs.head?.map LaneAcc.addr).getD 0 == x.addr)

/-- The bytes of a record read indivisibly at its home, or in its SRAM (R213, R218): no L1 copy is filled. -/
def readRecord (w : Who) (t : Ty) (l : Loc) (s : State) : State × Got :=
  let n := recordBytes t
  match l with
  | .dev pa true =>
    match homeCell s.regions pa with
    | none => (noRegionCheck pa w.part.toNat s, ⟨allOnesBytes n, false⟩)
    | some cell =>
      let s := checkSectors (cell / 128) (sectorsOf (maskRange (cell % 128) n)) s
      if inRetired s l || cellPoisoned s cell n then (s, ⟨allOnesBytes n, true⟩)
      else
        let s := homeServe (cell / 128) (maskRange (cell % 128) n) s
        (s, ⟨tbytes s.mem cell n, false⟩)
  | l => readLoc w .unc l n s

/-- The posted accumulation of a block (R213, R218): the source elements of the active lanes, and their scale. -/
def postBlock (fd fs : Ty) (scale : Byte) (elems : List Byte) (xs : List LaneAcc) (s : State) : State :=
  let x := laneLoc (xs.headD ⟨0, 0, .fault 1, .fault 1, 0⟩)
  post [newPosted s (.bacc fd fs scale elems) .unc x (active s) ((xs.head?.map LaneAcc.addr).getD 0)] s
    fun s => advance 16 s

/-- BACC (R213, R214): a register source. -/
def execBacc (_sc : Scope) (fd fs : Ty) (base : MBase) (off : BitVec 32) (c : VReg) (sr : SReg) (s : State) : Result :=
  .next (notCrew s fun s => regCheck (c.toNat :: baseRegs base) s fun s => onceForGroup 16 s fun s => afterFence s fun s =>
    checkLanes .atomic (recordBytes fd) .blockAlignment (blockAligned fd) baccSpace (laneAddrs base off s) s fun xs s =>
      if s.commitPend then block .posted s
      else
        postBlock fd fs ((getS s sr).setWidth 8)
          ((List.range 32).map (fun l => BitVec.ofNat 8 ((getV s c.toNat l).toNat % 2 ^ tyBits fs))) xs s)

/-- BACC_MEM (R213): a source record in memory, read before the accumulation goes to its home. One that meets poison goes on as
the ones that the read returns, a scale of 0xFF, and the deferred trap names the active lanes and the record's address (DESIGN
CHOICE: R213 and R362 do not say whether the accumulation still goes to its home; log 75). -/
def execBaccMem (_sc : Scope) (fd fs : Ty) (base : MBase) (off : BitVec 32) (sr : SReg) (s : State) : Result :=
  .next (notCrew s fun s => regCheck (baseRegs base) s fun s => onceForGroup 16 s fun s => afterFence s fun s =>
    checkLanes .atomic (recordBytes fd) .blockAlignment (blockAligned fd) baccSpace (laneAddrs base off s) s fun xs s =>
      let a : VAddr := (getS s sr).setWidth 57
      checkOne .load (recordBytes fs) (recordBytes fs) a (getS s sr) bldRefuses .blockAlignment (slotAligned fs a) s fun l _ s =>
        afterPosted [(l, recordBytes fs)] s fun s =>
          let r := readRecord (whoOf s.cur) fs l s
          let s := if r.2.poison then notePoison (active s) a r.1 else r.1
          postBlock fd fs (r.2.bytes.getD 0 0)
            ((List.range 32).map (fun i => BitVec.ofNat 8 (recordElem fs r.2.bytes i))) xs s)

/-- BLD (R218). -/
def execBld (_sc : Scope) (f : Ty) (d : VReg) (sr : SReg) (base : MBase) (off : BitVec 32) (s : State) : Result :=
  .next (notCrew s fun s => regCheck (d.toNat :: baseRegs base) s fun s => onceForGroup 16 s fun s => afterFence s fun s =>
    checkLanes .load (recordBytes f) .blockAlignment (blockAligned f) (fun _ _ x => bldRefuses (laneLoc x))
      (laneAddrs base off s) s fun xs s =>
        let l := laneLoc (xs.headD ⟨0, 0, .fault 1, .fault 1, 0⟩)
        afterPosted [(l, recordBytes f)] s fun s =>
          let act := active s
          let r := readRecord (whoOf s.cur) f l s
          let s := if r.2.poison then notePoison act ((xs.head?.map LaneAcc.addr).getD 0) r.1 else r.1
          let s := setDests act [d.toNat] (fun _ l => BitVec.ofNat 32 (recordElem f r.2.bytes l)) s
          advance 16 (setS sr ((r.2.bytes.getD 0 0).setWidth 64) s))

/-- BCVT (R219). -/
def execBcvt (td ts : Ty) (d a : VReg) (sr : SReg) (s : State) : Result :=
  .next (notCrew s fun s => regCheck [d.toNat, a.toNat] s fun s => onceForGroup 16 s fun s =>
    let act := active s
    let ss := (getS s sr).toNat % 256
    let val := fun l => decodeNum ts ((getV s a.toNat l).toNat % 2 ^ tyBits ts)
    if ss = 255 || (lanesOf act).any (fun l => notReal (val l)) then
      advance 16 (setS sr 0xFF (setDests act [d.toNat] (fun _ _ => 0) s))
    else
      let x := fun l => scaleNum (val l) ((ss : Int) - 127)
      let scale := chooseScale td (maxAbs ((lanesOf act).map x))
      advance 16 (setS sr (BitVec.ofNat 64 scale)
        (setDests act [d.toNat] (fun _ l => BitVec.ofNat 32 (blockElem td scale (x l))) s)))

end Sys2Proof.Machine
end

