-- ==== Sys2Proof/Machine/Sync.lean ====
section
/-! DEFINITION. Fences (R130, R174), barriers (R175, R176), barrier objects (R135, R177, R178) and monitors (R179 to
R181). -/
namespace Sys2Proof.Machine

/-- The issuing group comes to a full fence of a scope (R128): the groups of the same instance that have missed one of its
writes past their own roll back (log 72). -/
def meetFull (sc : Scope) (s : State) : State := mapGroups (meetsFull sc s.cur) s

/-- What a fence leaves (R131): the state after it, to which a rollback returns, with nothing held. -/
def fenceRecord (k : FenceKind) (sc : Scope) (a : VAddr) (s : State) : State :=
  updCur (fun g => { g with fence := some ⟨k, sc, a, g.arch, g.queues, [], [], 0, []⟩ }) (if k == .full then meetFull sc s else s)

/-- `fence` (R174): at scope `group` it is complete when each earlier access is accepted, so that no later one to its target
is served before it: posted operations keep that order from then on (R130). Otherwise the group goes on past it. -/
def fenceOp (k : FenceKind) (sc : Scope) (s : State) : State :=
  notCrew s fun s => onceForGroup 8 s fun s => afterFence s fun s =>
    if sc == .group then advance 8 (updCur (fun g => { g with epoch := g.epoch + 1 }) s) else fenceRecord k sc s.cur.arch.pc (advance 8 s)

/-- FENCE (R174). -/
def execFence (k : FenceKind) (sc : Scope) (s : State) : Result := .next (fenceOp k sc s)

/-- FENCE_COMPLETE (R130): the conditions of the fence of a group hold. -/
def execFenceComplete (gid : Nat) (s : State) : Result := .next (onGroup gid completeFence s)

/-- The scope of a barrier level's fences (R119, R175). -/
def barScope : BarLevel → Scope
  | .team => .team
  | .cluster => .cluster
  | .span => .span
  | .grid => .device

/-- Two groups take part in the same instance of a level (R175). -/
def sameInstance (l : BarLevel) (g h : Group) : Bool :=
  h.launch = g.launch &&
    match l with
    | .team => h.core = g.core && h.slot = g.slot
    | .cluster => h.idx.span = g.idx.span && h.idx.cluster = g.idx.cluster
    | .span => h.idx.span = g.idx.span
    | .grid => true

/-- The level at which a group has arrived. -/
def arrivedAt (g : Group) : Option BarLevel :=
  match g.wait with
  | some (.bar l) => some l
  | _ => none

/-- Every participant that has not retired has arrived (R176). -/
def barrierFull (l : BarLevel) (g : Group) (s : State) : Bool :=
  (allGroups s).all (fun h => !(sameInstance l g h) || arrivedAt h == some l)

/-- A participant resumes past the barrier, after its second fence (R119). -/
def passBarrier (l : BarLevel) (s : State) (h : Group) : State :=
  onGroup h.gid (fun s => advance 8 (fenceEffects .full (barScope l) s)) s

/-- The barrier at which a group waits completes, if every participant has arrived. -/
def completeBarrier (g : Group) (s : State) : State :=
  match arrivedAt g with
  | none => s
  | some l => if barrierFull l g s then ((allGroups s).filter (sameInstance l g)).foldl (passBarrier l) s else s

/-- `bar` (R175): the first fence completes, then the group counts as arrived. -/
def barOp (l : BarLevel) (s : State) : State :=
  notCrew s fun s => onceForGroup 8 s fun s => afterFence s fun s =>
    if l == .grid && !s.cur.coresident then raiseOpen .illegalScope s
    else
      let s1 := releaseFlush s
      if !(releaseDone (barScope l) s1) then block .arrive s1
      else block (.bar l) (fenceEffects .full (barScope l) (meetFull (barScope l) s1))

/-- BAR, level `team` (R175). -/
def execBarTeam (s : State) : Result := .next (barOp .team s)
/-- BAR, level `cluster` (R175). -/
def execBarCluster (s : State) : Result := .next (barOp .cluster s)
/-- BAR, level `span` (R175). -/
def execBarSpan (s : State) : Result := .next (barOp .span s)
/-- BAR, level `grid` (R175). -/
def execBarGrid (s : State) : Result := .next (barOp .grid s)

/-- BARRIER_COMPLETE (R176), of the barrier at which a group waits. -/
def execBarrierComplete (gid : Nat) (s : State) : Result :=
  .next (match findGroup gid s with
    | some g => completeBarrier g s
    | none => s)

/-- The fields of a barrier object (R135). -/
structure BarObj where
  ph : Bool
  ovf : Bool
  rsv : Nat
  init : Nat
  arr : Nat
  exp : Nat
  deriving DecidableEq, Repr

/-- The object at a scratchpad byte. -/
def readObj (s : State) (key : Nat) : BarObj :=
  let n := leVal (tbytes s.smem key 16)
  ⟨n.testBit 127, n.testBit 126, n / 2 ^ 120 % 64, n / 2 ^ 80 % 2 ^ 40, n / 2 ^ 40 % 2 ^ 40, n % 2 ^ 40⟩

/-- The object written; the tags of its words stay (R135). -/
def writeObj (key : Nat) (o : BarObj) (s : State) : State :=
  let n := o.ph.toNat * 2 ^ 127 + o.ovf.toNat * 2 ^ 126 + o.rsv * 2 ^ 120 + o.init * 2 ^ 80 + o.arr * 2 ^ 40 + o.exp
  { s with smem := tsetList 0 s.smem key (leBytes 16 n) }

/-- `Complete` on an object's fields (R135), and whether it flipped. -/
def completeFields (n : Nat) (o : BarObj) : BarObj × Bool :=
  let arr := min (o.arr + n) (2 ^ 40 - 1)
  if o.exp ≤ arr then
    ({ o with ovf := o.ovf || decide (o.exp < arr), arr := 0, exp := o.init, ph := !o.ph }, true)
  else ({ o with arr := arr }, false)

/-- Groups that wait for a phase of an object. -/
def objectWaiters (s : State) (key : Nat) (ph : Bool) : List Group :=
  (allGroups s).filter (fun g => g.wait == some (.object key ph))

/-- `Complete(o, n)` (R135): a flip lets the groups that wait for the new phase return (R178). -/
def completeObj (key n : Nat) (s : State) : State :=
  let r := completeFields n (readObj s key)
  let s := writeObj key r.1 s
  if r.2 then (objectWaiters s key r.1.ph).foldl (fun s g => onGroup g.gid (advance 8) s) s else s

/-- The spaces of a barrier object (R177). -/
def objSpace (l : Loc) : Option Cause :=
  match l with
  | .smem _ _ | .absent => none
  | _ => some .tagSpace

/-- The scratchpad byte of an object's location. -/
def objKey (l : Loc) : Nat :=
  match l with
  | .smem c o => c * 0x180000 + o
  | _ => 0

/-- The checks of R177 on an object at a register's address, then the operation. -/
def objectOp (k : AccKind) (v : Word) (s : State) (cont : Nat → State → State) : State :=
  let a : VAddr := v.setWidth 57
  notCrew s fun s => onceForGroup 8 s fun s => afterFence s fun s =>
    checkOne k 1 16 a v objSpace .alignment (a.toNat % 16 == 0) s fun l _ s =>
      afterReads [(l, 16)] s fun s => cont (objKey l) s

/-- A value of 2^40 or more is refused (R177). -/
def objectValue (ok : Bool) (s : State) (k : State → State) : State :=
  if ok then k s else raiseOpen .objectValue s

/-- BOBJ_INIT (R135, R177). -/
def execBobjInit (a e : SReg) (s : State) : Result :=
  let v := getS s a
  let n := (getS s e).toNat
  .next (objectOp .store v s fun key s => objectValue (decide (n < 2 ^ 40)) s fun s =>
    advance 8 (writeObj key ⟨false, false, (readObj s key).rsv, n, 0, n⟩ s))

/-- BOBJ_EXP (R135, R177). -/
def execBobjExp (a n : SReg) (s : State) : Result :=
  let v := getS s a
  let k := (getS s n).toNat
  .next (objectOp .store v s fun key s =>
    let o := readObj s key
    objectValue (decide (k < 2 ^ 40 && o.exp + k < 2 ^ 40)) s fun s =>
      advance 8 (writeObj key { o with exp := o.exp + k } s))

/-- BOBJ_ARR (R135, R177). -/
def execBobjArr (a n : SReg) (s : State) : Result :=
  let v := getS s a
  let k := (getS s n).toNat
  .next (objectOp .store v s fun key s => objectValue (decide (k < 2 ^ 40)) s fun s =>
    advance 8 (completeObj key k s))

/-- BOBJ_WAIT (R178). -/
def execBobjWait (a p : SReg) (s : State) : Result :=
  let ph := (getS s p).getLsbD 0
  .next (objectOp .load (getS s a) s fun key s =>
    if (readObj s key).ph == ph then advance 8 s else block (.object key ph) s)

/-- The spaces of a monitor (R179): tracked device memory. -/
def monSpace (l : Loc) : Option Cause :=
  match l with
  | .dev _ true => none
  | _ => some .monitorSpace

/-- The `.wt` read of a monitor (R102, R179): the core is recorded as a sharer, no way is taken. -/
def monitorRead (core line pa : Nat) (m : LineMask) (s : State) : State × LineData :=
  match copyOf core line s with
  | some c =>
    if c.kind == .held || (c.kind == .shared && m &&& ~~~(c.r ||| c.w) == 0) then coreLoad core line pa .wt m s
    else if c.kind == .shared then
      let s := homeServe line m s
      (s, memLine s line)
    else
      let s := homeServe line m (removeCopy core line s)
      ({ s with copies := monitorCopy core line pa :: s.copies }, memLine s line)
  | none =>
    let s := homeServe line m s
    ({ s with copies := monitorCopy core line pa :: s.copies }, memLine s line)

/-- The monitor of the issuing group set (R179). -/
def setMonitor (a : VAddr) (line : Nat) (v : Word) (s : State) : State :=
  updCur (fun g => { g with mon := some ⟨a, line, v, false⟩ }) s

/-- `mon` at a device address (R179), whose checks are done: the aligned 8 bytes that hold it are the snapshot. -/
def monitorAt (a : VAddr) (pa : Nat) (s : State) : State :=
  let p8 := pa / 8 * 8
  match homeCell s.regions p8 with
  | none => setMonitor a (pa / 128 + 2 ^ 48) (BitVec.allOnes 64) (noRegionCheck p8 s.cur.part.toNat s)
  | some cell =>
    let line := cell / 128
    let m := maskRange (cell % 128) 8
    let hit := l1Serves s.cur.core line .wt m s
    let s1 := if hit then s else checkSectors line (sectorsOf m) s
    ifRuns s.cur s1 fun s =>
      if cellPoisoned s cell 8 && !hit then notePoison (groupMask s) a (setMonitor a line (BitVec.allOnes 64) s)
      else
        let r := monitorRead s.cur.core line p8 m s
        setMonitor a line (BitVec.ofNat 64 (leVal (bytesFrom r.2 (cell % 128) 8))) r.1

/-- MON (R179). -/
def execMon (a : SReg) (s : State) : Result :=
  let v := getS s a
  let x : VAddr := v.setWidth 57
  .next (notCrew s fun s => onceForGroup 8 s fun s => afterFence s fun s =>
    checkOne .load 1 1 x v monSpace .alignment true s fun l _ s =>
      match l with
      | .dev pa _ => afterPosted [(.dev (pa / 8 * 8) true, 8)] s fun s => ifRuns s.cur (monitorAt x pa s) (advance 8)
      | _ => s)

/-- The core's copy of a triggered monitor's line is given up where a stale notice has marked it, so that the group's reads
after `mwait` do not return a value older than the write that triggered it (R109, R180). -/
def freshLine (m : Monitor) (s : State) : State :=
  match (copyOf s.cur.core m.line s).filter Copy.stale with
  | some c => evict c s
  | none => s

/-- The monitor cleared and `mwait` passed (R180). -/
def endMwait (s : State) : State := advance 8 (updCur (fun g => { g with mon := none }) s)

/-- MWAIT (R180): without a monitor, or with a triggered one, it returns at once; a wait that ends clears the
monitor. -/
def execMwait (s : State) : Result :=
  .next (notCrew s fun s => onceForGroup 8 s fun s => afterFence s fun s =>
    match s.cur.mon with
    | none => advance 8 s
    | some m =>
      if m.triggered then (if s.cur.wait == some .mwait then endMwait (freshLine m s) else advance 8 (freshLine m s))
      else block .mwait s)

/-- A group's `mwait` returns, if it waits. -/
def wakeMwait (s : State) : State := if s.cur.wait == some .mwait then endMwait s else s

/-- MWAIT_TIMEOUT (R180). -/
def execMwaitTimeout (gid : Nat) (s : State) : Result := .next (onGroup gid wakeMwait s)
/-- MWAIT_SPURIOUS_WAKE (R180). -/
def execMwaitSpuriousWake (gid : Nat) (s : State) : Result := .next (onGroup gid wakeMwait s)

/-- REPECHAGE_PASS (R170): the next pass of a group's atomic. -/
def execRepechagePass (gid : Nat) (s : State) : Result :=
  .next (onGroup gid (fun s =>
    match s.cur.passes with
    | some p => passOf p s
    | none => s) s)

/-- A posted operation is a block accumulation. -/
def isBlockAcc (p : Posted) : Bool :=
  match p.op with
  | .bacc _ _ _ _ => true
  | _ => false

/-- BACC_AT_HOME (R214): the oldest block accumulation of a group that can be performed. -/
def execBaccAtHome (gid : Nat) (s : State) : Result :=
  .next (onGroup gid (fun s =>
    match (performable s).find? (fun i => (s.cur.posted[i]?).any isBlockAcc) with
    | some i => performAt i s
    | none => s) s)

/-- HOME_WRITE (R102): one posted operation of a group performed at its target. -/
def execHomeWrite (gid : Nat) (s : State) : Result := .next (onGroup gid performOne s)

end Sys2Proof.Machine
end

