-- ==== Sys2Proof/Machine/HomeEvents.lean ====
section
/-! DEFINITION. Requests that reach the homes from outside the issuing group (R102, R105, R106, R109, R414, R416), and
uncorrectable errors there (R111, R361, R362, R419). A request names a line by a physical address in it, and its bytes by
masks over the line. -/
namespace Sys2Proof.Machine

/-- A request to a physical address at its home: the line is given to the operation. One in no region is answered there
(R96), on behalf of a partition; one to a line that waits for the host port, or while a commit drains, does not happen yet
(R102, R113). -/
def atHome (pa part : Nat) (s : State) (k : Nat → State → State) : State :=
  if s.commitPend then s
  else match homeCell s.regions pa with
    | none => noRegionCheck pa part s
    | some cell => if lineBusy s (cell / 128) then s else k (cell / 128) s

/-- The partition on whose behalf a client makes a request (R430): that of its core, and 0 for the host port. -/
def clientPart (s : State) (client : Nat) : Nat := if client < 384 then tget 0 s.coreOwner client else 0

/-- The partition of a context's launches, or 0. -/
def asidPart (s : State) (asid : BitVec 16) : Nat := ((s.launches.find? (fun l => l.asid == asid)).map Launch.part).getD 0

/-- A client's request at the home, which reads some sectors of the line: what they hide is dealt with first (R419). -/
def clientRequest (client pa : Nat) (sec : Nat → State → BitVec 4) (s : State) (k : Nat → State → State) : State :=
  atHome pa (clientPart s client) s fun line s => k line (checkSectors line (sec line s) s)

/-- A client's load at the home. -/
def clientLoad (client pa : Nat) (rt : ReqTy) (r : LineMask) (s : State) : State :=
  clientRequest client pa (fun line => loadSectors client line rt r) s fun line s => homeLoad client line pa rt r s

/-- The owner tag of a line in the L2. -/
def ownerTag (s : State) (line : Nat) : BitVec 18 := ((s.l2.find? (fun e => e.line = line)).map L2Line.owner).getD 0

/-- A port's request (R105, R106): what its sectors hide is dealt with first (R419); one in no region and one that meets
poison are answered without an access (R96, R362), as `bad` says. -/
def portRequest (pa part : Nat) (m : LineMask) (bad : State → State) (s : State) (k : Nat → State → State) : State :=
  if s.commitPend then s
  else match homeCell s.regions pa with
    | none => bad (noRegionCheck pa part s)
    | some cell =>
      let line := cell / 128
      if lineBusy s line then s
      else
        let s := checkSectors line (sectorsOf m) s
        if meetsPoison s pa line m then bad (portPoison pa line s) else k line s

/-- L1_INVALIDATION (R132, R179): an invalidation or recall of a line arrives at a client. -/
def execL1Invalidation (client line : Nat) (s : State) : Result :=
  .next (match copyOf client line s with
    | some c => takeBack c s
    | none => notice client line s)

/-- HOME_OWN_ACCESS (R102). -/
def execHomeOwnAccess (client pa : Nat) (r w : LineMask) (s : State) : Result :=
  .next (clientRequest client pa
    (fun line s => if keepsNone client line s then sectorsOf (r ||| w) else ownSectors client line r w s) s fun line s =>
    if keepsNone client line s then homeServe line (r ||| w) s else ownAccess client line pa r w s)
/-- HOME_WT_LOAD (R102). -/
def execHomeWtLoad (client pa : Nat) (r : LineMask) (s : State) : Result :=
  .next (clientLoad client pa .wt r s)
/-- HOME_SI_LOAD (R102). -/
def execHomeSiLoad (client pa : Nat) (r : LineMask) (s : State) : Result :=
  .next (clientLoad client pa .si r s)
/-- HOME_UNC_LOAD (R102). -/
def execHomeUncLoad (client pa : Nat) (r : LineMask) (s : State) : Result :=
  .next (clientLoad client pa .unc r s)

/-- HOME_EVICTION (R102). -/
def execHomeEviction (client pa : Nat) (s : State) : Result :=
  .next (atHome pa (clientPart s client) s fun line s =>
    match copyOf client line s with
    | some c => evict c s
    | none => s)

/-- DIRECTORY_ENTRY_EVICTION (R102): every recorded copy is recalled. -/
def execDirectoryEntryEviction (pa : Nat) (s : State) : Result :=
  .next (atHome pa 0 s fun line s => recallAll (recorded line s) s)

/-- UNTRACKED_ACCESS (R109) of a context: a load where no byte is written. -/
def execUntrackedAccess (pa : Nat) (w : LineMask) (data : LineData) (asid : BitVec 16) (s : State) : Result :=
  .next (atHome pa (asidPart s asid) s fun line s =>
    let s := checkSectors line (if w = 0 then 0xF else sectorsOf w &&& ~~~(wholeSectors w)) s
    if meetsPoison s pa line w then s
    else if w = 0 then l2Touch line 0xF none s else untrackedStore 386 line w data (ctxTag asid) s)

/-- NO_REGION_ACCESS (R96). -/
def execNoRegionAccess (pa part : Nat) (s : State) : Result :=
  .next (if (homeCell s.regions pa).isNone then noRegionCheck pa part s else s)

/-- The 16 words of a line, as a read returns them. -/
def wordsOfLine (d : LineData) : List Word := (List.range 16).map (fun i => d.extractLsb' (64 * i) 64)

/-- What the host has read. -/
def hostGot (d : LineData) (s : State) : State := { s with hostRead := wordsOfLine d }

/-- A host's read that is answered with ones (R96, R362). -/
def hostOnes (s : State) : State := { s with hostRead := List.replicate 16 (BitVec.allOnes 64) }

/-- The host's caches hold a line with some bytes: a copy that the home records, or one whose invalidation or recall the
host port has not acknowledged (R105, R108). -/
def hostHolds (pa : Nat) (m : LineMask) (s : State) : Option Copy :=
  (s.copies ++ s.hostAcks).find? (fun c => c.client = hostClient && c.pa = pa / 128 * 128 && m &&& ~~~(c.r ||| c.w) == 0)

/-- What the host reads of a line: its own copy, or the home's data. -/
def hostLine (pa line : Nat) (m : LineMask) (s : State) : LineData := ((hostHolds pa m s).map Copy.data).getD (memLine s line)

/-- HOST_CACHEABLE_READ (R105): a `.wt` load by the host port, where the host's caches do not serve it (R108). -/
def execHostCacheableRead (pa : Nat) (r : LineMask) (s : State) : Result :=
  .next (match hostHolds pa r s with
    | some c => hostGot c.data (useCopy hostClient c.line s)
    | none => portRequest pa 0 r hostOnes s fun line s =>
      let s := homeLoad hostClient line pa .wt r (checkSectors line (loadSectors hostClient line .wt r s) s)
      hostGot (hostLine pa line r s) s)

/-- An `.own` access by the host port at the home, and the host's write of some bytes. -/
def hostOwn (pa line : Nat) (r w : LineMask) (data : LineData) (s : State) : State :=
  let s := checkSectors line (if notKept line s then sectorsOf (r ||| w) else ownSectors hostClient line r w s) s
  if notKept line s then
    let s := hostGot (memLine s line) (homeServe line r s)
    if w = 0 then s else homeStore hostClient line w data hostTag s
  else
    let s := ownAccess hostClient line pa r w s
    let s := hostGot (hostLine pa line r s) s
    if w = 0 then s else l1Store hostClient line w data hostTag s

/-- HOST_READ_FOR_OWNERSHIP (R105): an `.own` access by the host port, where the host's held copy does not serve it, and the
host's write of the bytes of w. -/
def execHostReadForOwnership (pa : Nat) (r w : LineMask) (data : LineData) (s : State) : Result :=
  let own := s.copies.find? (fun c => c.client = hostClient && c.pa = pa / 128 * 128 && c.kind == .held &&
    w &&& ~~~c.w == 0 && r &&& ~~~(c.r ||| c.w) == 0)
  .next (match own with
    | some c =>
      let s := hostGot c.data (useCopy hostClient c.line s)
      if w = 0 then s else l1Store hostClient c.line w data hostTag s
    | none => portRequest pa 0 (r ||| w) (if w = 0 then hostOnes else id) s fun line s => hostOwn pa line r w data s)

/-- HOST_NONCACHING_ACCESS (R105): a `.unc` load or store. -/
def execHostNoncachingAccess (pa : Nat) (wr : Bool) (m : LineMask) (data : LineData) (s : State) : Result :=
  .next (portRequest pa 0 m (if wr then id else hostOnes) s fun line s =>
    if wr then homeStore hostClient line m data hostTag s
    else
      let s := homeServe line m s
      hostGot (memLine s line) s)

/-- One read-modify-write of bytes by a port at the home. -/
def portBytes (client line off n : Nat) (f : List Byte → List Byte) (owner : BitVec 18) (s : State) : State :=
  let m := maskRange off n
  let s := homePrepare client line (bytesOf (wordsOf m)) s
  homeStore client line m (lineOfBytes off (f (tbytes s.mem (128 * line + off) n))) owner s

/-- One read-modify-write by a port at the home: the old value is handed on. -/
def portRmw (client line off n : Nat) (f : Nat → Nat) (owner : BitVec 18) (s : State) : State × Nat :=
  let m := maskRange off n
  let s := homePrepare client line (bytesOf (wordsOf m)) s
  let old := leVal (tbytes s.mem (128 * line + off) n)
  (homeStore client line m (lineOfBytes off (leBytes n (f old))) owner s, old)

/-- The ones that an atomic of a type returns in place of an old value. -/
def onesOf (ty : Ty) : Word := BitVec.ofNat 64 (2 ^ tyBits ty - 1)

/-- HOST_ATOMIC (R105): one read-modify-write at the home. -/
def execHostAtomic (pa : Nat) (op : AtomOp) (ty : Ty) (v e : Word) (s : State) : Result :=
  let n := tyBits ty / 8
  .next (if !(atomOk op ty) || pa % n != 0 then s
    else portRequest pa 0 (maskRange (pa % 128) n) (fun s => { s with hostRead := [onesOf ty] }) s fun line s =>
      let r := portRmw hostClient line (pa % 128) n (fun old => atomVal op ty old v.toNat e.toNat) hostTag s
      { r.1 with hostRead := [BitVec.ofNat 64 r.2] })

/-- What a message of a peer asks for, as its header tells it from another. -/
inductive PeerAsk where
  | load | store | atomic | block | red
  deriving DecidableEq, Repr

/-- A number for what a message asks for. -/
def askCode : PeerAsk → Nat
  | .load => 0 | .store => 1 | .atomic => 2 | .block => 3 | .red => 4

/-- The header of a peer's message to an address (R392). -/
def messageHead (ask : PeerAsk) (pa : Nat) : List Byte :=
  leBytes 8 (Config.peerHeader 0 (askCode ask) pa).toNat ++ leBytes 8 (Config.peerHeader 1 (askCode ask) pa).toNat

/-- A message with a header that arrives at a port for a partition: under replay only the next in the recorded order is
admitted (R393). -/
def admitted (part port : Nat) (head : List Byte) (s : State) (k : State → State) : State :=
  let p := partOf s part
  if !(replaying p) then k s
  else match nextOf s p 3 (p.recSize / 16) p.replayMsg with
    | some (x, h, at_) => if x = port && h = head then k (setPart part (fun y => { y with replayMsg := at_ }) s) else s
    | none => s

/-- A request of a peer to a physical address arrives on a group (R414), once its line can be acted on: on an UP one, or
on one that drains, which completes what is in flight (R410, R413). The recorder notes the message's header (R392). One whose
region's partition is not the entry's is answered as one in no region. -/
def peerArrives (ask : PeerAsk) (entry pa : Nat) (bad : State → State) (s : State) (k : Nat → State → State) : State :=
  match (s.conns[entry]?).filter (fun c => c.state = 2 || c.state = 3) with
  | none => s
  | some c =>
    if s.commitPend || (homeCell s.regions pa).any (fun cell => lineBusy s (cell / 128)) then s
    else admitted c.part (entry / 8) (messageHead ask pa) s fun s =>
      let s := recordWake c.part 3 (entry / 8) (messageHead ask pa) s
      if (regionAt s.regions pa).any (fun e => regionPart e = c.part) then k c.part s else bad (noRegionCheck pa c.part s)

/-- What a peer's request is answered. -/
def peerGot (ws : List Word) (s : State) : State := { s with peerRead := ws }

/-- A peer's read that is answered with ones. -/
def peerOnes : State → State := peerGot (List.replicate 16 (BitVec.allOnes 64))

/-- PEER_REQUEST (R106, R414), a load or a store: served at its home as a `.unc` access by the peer port. -/
def execPeerRequest (entry pa : Nat) (wr : Bool) (m : LineMask) (data : LineData) (s : State) : Result :=
  let bad := if wr then id else peerOnes
  .next (peerArrives (if wr then .store else .load) entry pa bad s fun part s =>
    portRequest pa part m bad s fun line s =>
      if wr then homeStore 385 line m data peerTag s
      else
        let s := homeServe line m s
        peerGot (wordsOfLine (memLine s line)) s)

/-- PEER_REQUEST (R106, R414), an atomic: one read-modify-write at its home, and its old value. -/
def execPeerAtomic (entry pa : Nat) (op : AtomOp) (ty : Ty) (v e : Word) (s : State) : Result :=
  let n := tyBits ty / 8
  let bad := peerGot [onesOf ty]
  .next (if !(atomOk op ty) || pa % n != 0 then s
    else peerArrives .atomic entry pa bad s fun part s =>
      portRequest pa part (maskRange (pa % 128) n) bad s fun line s =>
        let r := portRmw 385 line (pa % 128) n (fun old => atomVal op ty old v.toNat e.toNat) peerTag s
        peerGot [BitVec.ofNat 64 r.2] r.1)

/-- An element format of an MX record (R211). -/
def recordFmt (t : Ty) : Bool := [Ty.e4m3, .e5m2, .e2m3, .e3m2, .e2m1].contains t

/-- PEER_REQUEST (R106, R210, R414), a block accumulation: one read-modify-write of a record at its home. One whose formats or
place in its line R211 and R212 refuse is not sent. -/
def execPeerBacc (x : PeerRed) (fd fs : Ty) (act : Mask) (scale : Byte) (elems : BitVec 256) (s : State) : Result :=
  let pa := x.pa
  let n := recordBytes fd
  let es := (List.range 32).map (fun i => elems.extractLsb' (8 * i) 8)
  .next (if !(recordFmt fd) || !(recordFmt fs) || !(slotAligned fd (BitVec.ofNat 57 pa)) then s
    else peerArrives .block x.entry pa id s fun part s =>
      portRequest pa part (maskRange (pa % 128) n) id s fun line s =>
        portBytes 385 line (pa % 128) n (accumulate fd fs scale.toNat act es) peerTag s)

/-- A copy put into a list in the order of falling client numbers. -/
def insertClient (c : Copy) : List Copy → List Copy
  | [] => [c]
  | d :: t => if d.client ≤ c.client then c :: d :: t else d :: insertClient c t

/-- Copies with the highest client first, so that the lowest writes back last and wins (R111). -/
def byClient : List Copy → List Copy
  | [] => []
  | c :: t => insertClient c (byClient t)

/-- Two answers are dirty in one byte (R111). -/
def dirtyClash : List Copy → Bool
  | [] => false
  | c :: t => t.any (fun d => c.dirty &&& d.dirty != 0) || dirtyClash t

/-- The line is marked suspect, and stands in the L2 (R111, R112). -/
def markSuspect (line : Nat) (s : State) : State :=
  let s := l2Touch line 0 none s
  { s with l2 := s.l2.map (fun e => if e.line = line then { e with suspect := true } else e) }

/-- DIRECTORY_UNCORRECTABLE (R111): every client of the line's partition and the host port answer; the entry is rebuilt
as I, the line is suspect, and a record is written. -/
def execDirectoryUncorrectable (pa : Nat) (s : State) : Result :=
  .next (atHome pa 0 s fun line s =>
    let part := pagePart s pa
    let cs := byClient (s.copies.filter (fun c => c.line = line && (c.client = hostClient || tget 0 s.coreOwner c.client = part)))
    let dirty := cs.filter (fun c => c.dirty != 0)
    let s := markSuspect line (recallAll cs s)
    machineCheck (lineWord0 s line 3 (ownerTag s line) dirty.length false (dirtyClash cs) 0) (pa / 128 * 128) false part 0 s)

/-- An uncorrectable error comes up in a sector (R361, R362): in the L2 where the sector is valid there, else in HBM. It has
no effect until a read finds it (R419). -/
def execSoftError (pa sector : Nat) (otu : Bool) (s : State) : Result :=
  .next (match homeCell s.regions pa with
    | none => s
    | some cell =>
      let line := cell / 128
      let sec := 4 * line + sector % 4
      let inL2 := s.l2.any (fun e => e.line = line && e.valid.getLsbD (sector % 4))
      if s.latent.any (fun x => x.sector = sec) then s
      else { s with latent := s.latent ++ [⟨sec, pa / 128 * 128, otu, !inL2⟩] })

/-- L2_DATA_UNCORRECTABLE (R361, R419): the slice reads a sector in which an error stands, for whatever request, and finds
it. -/
def execL2DataUncorrectable (pa sector : Nat) (otu : Bool) (s : State) : Result :=
  .next (atHome pa 0 s fun line s =>
    if s.latent.any (fun x => x.sector = 4 * line + sector % 4 && x.otu == otu) then
      checkSectors line (BitVec.twoPow 4 (sector % 4)) s
    else s)

/-- A correctable error in a sector of the L2 is corrected in place and counted (R360). -/
def execL2Correctable (pa sector : Nat) (s : State) : Result :=
  .next (match homeCell s.regions pa with
    | none => s
    | some cell =>
      if s.l2.any (fun e => e.line = cell / 128 && e.valid.getLsbD (sector % 4)) then { s with corrected := s.corrected + 1 } else s)

/-- REDUCTION_CONTRIBUTION (R414, R416): a `red` that arrives at the routing die from a peer port, once the unit can take it;
one that no window merges is one read-modify-write at its home. -/
def execReductionContribution (x : PeerRed) (op : RedOp) (ty : Ty) (v : Word) (s : State) : Result :=
  let n := tyBits ty / 8
  let pa := x.pa
  .next (if !(redOk op ty) || pa % n != 0 || (merges s pa op ty && !(redRoom s pa)) then s
    else peerArrives .red x.entry pa id s fun part s =>
      if merges s pa op ty then contribute pa (homeCell s.regions pa) op ty v.toNat part none s.ver true s
      else portRequest pa part (maskRange (pa % 128) n) id s fun line s =>
        (portRmw 385 line (pa % 128) n (fun old => redVal op ty old v.toNat) peerTag s).1)

/-- REDUCTION_HOLD_EXPIRY (R416). -/
def execReductionHoldExpiry (pa : Nat) (s : State) : Result := .next (flushWhere (fun e => e.pa = pa) s)

/-- The window of an open entry: the first valid one that holds its address. -/
def entryIn (s : State) (w : Nat) (e : RedEntry) : Bool := windowAt s e.pa == s.windows[w]?

/-- The fields of a window entry (R415); its reserved bits read as zero (R9). -/
def windowMask : BitVec 128 := BitVec.ofNat 128 ((2 ^ 42 - 1) * 2 ^ 64 + (2 ^ 52 - 1 - 14))

/-- A window entry written (R417): its open entries flush first, and the write waits for one that cannot yet. -/
def writeWindow (w : Nat) (v : BitVec 128) (s : State) : State :=
  let s := flushWhere (entryIn s w) s
  if 16 ≤ w || s.redUnit.any (entryIn s w) then s else { s with windows := s.windows.set w (v &&& windowMask) }

/-- REDUCTION_WINDOW_WRITE (R417). -/
def execReductionWindowWrite (w : Nat) (v : BitVec 128) (s : State) : Result := .next (writeWindow w v s)

end Sys2Proof.Machine
end

