-- ==== Sys2Proof/WellFormed.lean ====
section
/-! DEFINITION. Well-formed instructions: every field holds a value that the instruction's entry accepts. -/
namespace Sys2Proof

/-- An instruction whose field values its entry accepts (R54: what is not sub-cause 6). -/
abbrev Instr.wf (i : Instr) : Bool := Sys2Proof.Machine.fieldsOk i

end Sys2Proof
end

