-- ==== Sys2Proof/Decode.lean ====
section
/-! DEFINITION. The decoder of Uliet (R21 to R55), total on every bit pattern, and the encoder. A fetched
instruction is a `Bits128`: word 0 in bits [31:0], word 1 in bits [63:32], and so on (R22). The decoder
answers the guard, the instruction and its length, or the sub-cause of R54 that applies first (3 to 6; sub-causes 1
and 2 depend on addresses and are found by the jump and by the fetch). -/
namespace Sys2Proof

/-- What the decoder answers. -/
inductive Decoded where
  /-- the guard (R26), the instruction and its length in bytes -/
  | ok (g : Guard) (i : Instr) (bytes : Nat)
  /-- not an instruction: the sub-cause of R54 -/
  | bad (sub : Nat)
  deriving DecidableEq, Repr

/-- The fields of an F32 word (R26, R28): imm6 is `sb`, imm12 is `sb ++ sa`, off18 is `sb ++ sa ++ sd`. -/
structure Raw32 where
  major : BitVec 8
  gneg : Bool
  gp : BitVec 3
  sd : BitVec 6
  sa : BitVec 6
  sb : BitVec 6
  deriving DecidableEq, Repr

/-- The fields of an F64, F96 or F128 instruction (R26, R29, R30, R31). Fields that a length does not
have are 0. -/
structure Raw where
  len : BitVec 2
  major : BitVec 8
  gp : BitVec 3
  gneg : Bool
  vd : BitVec 8
  va : BitVec 8
  vb : BitVec 8
  minor : BitVec 6
  ty : BitVec 5
  rnd : BitVec 3
  md : BitVec 12
  vc : BitVec 8
  sc : BitVec 6
  ext : BitVec 18
  lit : BitVec 32
  deriving DecidableEq, Repr

/-- The bytes of an instruction with a length code (R21). -/
def lenBytes (len : BitVec 2) : Nat := 4 * (len.toNat + 1)

/-- The length code of a first word (R21). -/
def lenCode (w : Bits128) : BitVec 2 := w.extractLsb' 0 2

/-- The major opcode of a first word (R26). -/
def majorOf (w : Bits128) : BitVec 8 := w.extractLsb' 2 8

/-- Reads the fields of an F32 word (R28). -/
def unpack32 (w : Bits128) : Raw32 where
  major := w.extractLsb' 2 8
  gp := w.extractLsb' 10 3
  gneg := w.getLsbD 13
  sd := w.extractLsb' 14 6
  sa := w.extractLsb' 20 6
  sb := w.extractLsb' 26 6

/-- Lays out the fields of an F32 word (R28). -/
def pack32 (r : Raw32) : Bits128 :=
  (r.sb ++ r.sa ++ r.sd ++ BitVec.ofBool r.gneg ++ r.gp ++ r.major ++ 0#2).setWidth 128

/-- Reads the fields of a longer instruction (R29, R30, R31). -/
def unpack (w : Bits128) : Raw where
  len := w.extractLsb' 0 2
  major := w.extractLsb' 2 8
  gp := w.extractLsb' 10 3
  gneg := w.getLsbD 13
  vd := w.extractLsb' 14 8
  va := w.extractLsb' 22 8
  vb := w.extractLsb' 30 8
  minor := w.extractLsb' 38 6
  ty := w.extractLsb' 44 5
  rnd := w.extractLsb' 49 3
  md := w.extractLsb' 52 12
  vc := if w.extractLsb' 0 2 = 3#2 then w.extractLsb' 64 8 else 0
  sc := if w.extractLsb' 0 2 = 3#2 then w.extractLsb' 72 6 else 0
  ext := if w.extractLsb' 0 2 = 3#2 then w.extractLsb' 78 18 else 0
  lit := if w.extractLsb' 0 2 = 3#2 then w.extractLsb' 96 32
    else if w.extractLsb' 0 2 = 2#2 then w.extractLsb' 64 32 else 0

/-- The low 64 bits of a longer instruction (R29). -/
def packLow (r : Raw) : BitVec 64 :=
  r.md ++ r.rnd ++ r.ty ++ r.minor ++ r.vb ++ r.va ++ r.vd ++ BitVec.ofBool r.gneg ++ r.gp ++ r.major ++ r.len

/-- Lays out the fields of a longer instruction (R29, R30, R31). -/
def pack (r : Raw) : Bits128 :=
  if r.len = 3#2 then r.lit ++ r.ext ++ r.sc ++ r.vc ++ packLow r
  else if r.len = 2#2 then 0#32 ++ r.lit ++ packLow r
  else 0#64 ++ packLow r

/-- The guard of a longer instruction. -/
def Raw.guard (r : Raw) : Guard := ⟨r.gneg, r.gp⟩
/-- vd as a scalar register (R32). -/
def Raw.sd (r : Raw) : SReg := r.vd.extractLsb' 0 6
/-- va as a scalar register. -/
def Raw.sa (r : Raw) : SReg := r.va.extractLsb' 0 6
/-- vb as a scalar register. -/
def Raw.sb (r : Raw) : SReg := r.vb.extractLsb' 0 6
/-- vd as a predicate. -/
def Raw.pd (r : Raw) : PReg := r.vd.extractLsb' 0 3
/-- Modifier bit mk is bit 52 + k (R29). -/
def Raw.m (r : Raw) (k : Nat) : Bool := r.md.getLsbD k

/-- The type codes of R34. -/
def tyOf (c : BitVec 5) : Option Ty :=
  match c.toNat with
  | 0 => some .none | 1 => some .i8 | 2 => some .i16 | 3 => some .i32 | 4 => some .i64
  | 5 => some .n8 | 6 => some .n16 | 7 => some .n32 | 8 => some .n64
  | 9 => some .b8 | 10 => some .b16 | 11 => some .b32 | 12 => some .b64
  | 13 => some .f32 | 14 => some .f16 | 15 => some .bf16 | 16 => some .e4m3 | 17 => some .e5m2
  | 18 => some .e2m3 | 19 => some .e3m2 | 20 => some .e2m1 | 21 => some .tap8 | 22 => some .tap16
  | 23 => some .tap32 | 24 => some .i4 | 25 => some .n4
  | _ => Option.none

/-- The code of a type (R34). -/
def tyCode : Ty → BitVec 5
  | .none => 0 | .i8 => 1 | .i16 => 2 | .i32 => 3 | .i64 => 4
  | .n8 => 5 | .n16 => 6 | .n32 => 7 | .n64 => 8
  | .b8 => 9 | .b16 => 10 | .b32 => 11 | .b64 => 12
  | .f32 => 13 | .f16 => 14 | .bf16 => 15 | .e4m3 => 16 | .e5m2 => 17
  | .e2m3 => 18 | .e3m2 => 19 | .e2m1 => 20 | .tap8 => 21 | .tap16 => 22
  | .tap32 => 23 | .i4 => 24 | .n4 => 25

/-- The rounding codes of R35. -/
def rndOf (c : BitVec 3) : Option Rnd :=
  match c.toNat with
  | 0 => some .rn | 1 => some .rz | 2 => some .ru | 3 => some .rd
  | _ => none

/-- The code of a rounding mode (R35). -/
def rndCode : Rnd → BitVec 3
  | .rn => 0 | .rz => 1 | .ru => 2 | .rd => 3

/-- The condition codes of R36. -/
def condOf (c : BitVec 3) : Option Cond :=
  match c.toNat with
  | 0 => some .eq | 1 => some .ne | 2 => some .lt | 3 => some .le | 4 => some .gt | 5 => some .ge | 6 => some .un
  | _ => none

/-- The code of a condition (R36). -/
def condCode : Cond → BitVec 3
  | .eq => 0 | .ne => 1 | .lt => 2 | .le => 3 | .gt => 4 | .ge => 5 | .un => 6

/-- The scope codes of R37. -/
def scopeOf (c : BitVec 3) : Option Scope :=
  match c.toNat with
  | 0 => some .group | 1 => some .team | 2 => some .cluster | 3 => some .span
  | 4 => some .device | 5 => some .domain | 6 => some .system
  | _ => none

/-- The code of a scope (R37). -/
def scopeCode : Scope → BitVec 3
  | .group => 0 | .team => 1 | .cluster => 2 | .span => 3 | .device => 4 | .domain => 5 | .system => 6

/-- The fence kinds of R37. -/
def fenceOf (c : BitVec 2) : Option FenceKind :=
  match c.toNat with
  | 0 => some .acq | 1 => some .rel | 2 => some .full
  | _ => none

/-- The code of a fence kind (R37). -/
def fenceCode : FenceKind → BitVec 2
  | .acq => 0 | .rel => 1 | .full => 2

/-- The barrier levels of R37: each is an instruction of its own in the syntax. -/
def barOf (c : BitVec 2) : Instr :=
  match c.toNat with
  | 0 => .barTeam | 1 => .barCluster | 2 => .barSpan | _ => .barGrid

/-- The roles of R53: each is an instruction of its own in the syntax. -/
def roleOf (c : BitVec 2) : Instr :=
  match c.toNat with
  | 0 => .role0 | 1 => .role1 | 2 => .role2 | _ => .role3

/-- The slots of `mxarm` (R52): each is an instruction of its own in the syntax. -/
def mxarmOf (k : BitVec 2) : Instr :=
  match k.toNat with
  | 0 => .mxarm0 | 1 => .mxarm1 | 2 => .mxarm2 | _ => .mxarm3

/-- The slots of `mxdisarm` (R52): each is an instruction of its own in the syntax. -/
def mxdisarmOf (k : BitVec 2) : Instr :=
  match k.toNat with
  | 0 => .mxdisarm0 | 1 => .mxdisarm1 | 2 => .mxdisarm2 | _ => .mxdisarm3

/-- The request types of R38. -/
def reqOf (c : BitVec 3) : Option ReqTy :=
  match c.toNat with
  | 0 => some .none | 1 => some .own | 2 => some .wt | 3 => some .si | 4 => some .unc
  | _ => Option.none

/-- The code of a request type (R38). -/
def reqCode : ReqTy → BitVec 3
  | .none => 0 | .own => 1 | .wt => 2 | .si => 3 | .unc => 4

/-- The index registers that `smov` accepts (R39). -/
def indexOf (c : BitVec 6) : Option IndexReg :=
  match c.toNat with
  | 1 => some .group | 2 => some .team | 3 => some .cluster | 4 => some .span | 5 => some .grid
  | 8 => some .nlane | 9 => some .ngroup | 10 => some .nteam | 11 => some .ncluster | 12 => some .nspan
  | _ => none

/-- The code of an index register (R39). -/
def indexCode : IndexReg → BitVec 6
  | .group => 1 | .team => 2 | .cluster => 3 | .span => 4 | .grid => 5
  | .nlane => 8 | .ngroup => 9 | .nteam => 10 | .ncluster => 11 | .nspan => 12

/-- The modes of `bmode` (R48). -/
def bankOf (c : BitVec 2) : Option BankMode :=
  match c.toNat with
  | 0 => some .cache | 1 => some .scratch | 2 => some .fifo
  | _ => none

/-- The code of a bank mode (R48). -/
def bankCode : BankMode → BitVec 2
  | .cache => 0 | .scratch => 1 | .fifo => 2

/-- The modes of `shfl` (R47). -/
def shflOf (c : BitVec 2) : ShflMode :=
  match c.toNat with
  | 0 => .idx | 1 => .up | 2 => .down | _ => .xor

/-- The code of a `shfl` mode (R47). -/
def shflCode : ShflMode → BitVec 2
  | .idx => 0 | .up => 1 | .down => 2 | .xor => 3

/-- The forms of `vote` (R47). -/
def voteOf (c : BitVec 2) : Option VoteOp :=
  match c.toNat with
  | 0 => some .any | 1 => some .all | 2 => some .ballot
  | _ => none

/-- The code of a `vote` form (R47). -/
def voteCode : VoteOp → BitVec 2
  | .any => 0 | .all => 1 | .ballot => 2

/-- The op codes of `redl`, `scan` and `red` (R47, R49). -/
def redOf (c : BitVec 3) : Option RedOp :=
  match c.toNat with
  | 0 => some .add | 1 => some .min | 2 => some .max | 3 => some .and | 4 => some .or | 5 => some .xor
  | _ => none

/-- The code of a reduction op (R47). -/
def redCode : RedOp → BitVec 3
  | .add => 0 | .min => 1 | .max => 2 | .and => 3 | .or => 4 | .xor => 5


/-- The F32 instructions (R41). `none`: a code that is not accepted (sub-cause 6). -/
def build32 (r : Raw32) : Option Instr :=
  match r.major.toNat with
  | 0x01 => some (.nop)
  | 0x02 => some (.sadd r.sd r.sa r.sb)
  | 0x03 => some (.saddImm r.sd r.sa r.sb)
  | 0x04 => some (.ssub r.sd r.sa r.sb)
  | 0x05 => some (.ssubImm r.sd r.sa r.sb)
  | 0x06 => some (.smul r.sd r.sa r.sb)
  | 0x07 => some (.smulImm r.sd r.sa r.sb)
  | 0x08 => some (.smulhI64 r.sd r.sa r.sb)
  | 0x09 => some (.smulhI64Imm r.sd r.sa r.sb)
  | 0x0A => some (.smulhN64 r.sd r.sa r.sb)
  | 0x0B => some (.smulhN64Imm r.sd r.sa r.sb)
  | 0x0C => some (.sdivI64 r.sd r.sa r.sb)
  | 0x0D => some (.sdivI64Imm r.sd r.sa r.sb)
  | 0x0E => some (.sdivN64 r.sd r.sa r.sb)
  | 0x0F => some (.sdivN64Imm r.sd r.sa r.sb)
  | 0x10 => some (.sremI64 r.sd r.sa r.sb)
  | 0x11 => some (.sremI64Imm r.sd r.sa r.sb)
  | 0x12 => some (.sremN64 r.sd r.sa r.sb)
  | 0x13 => some (.sremN64Imm r.sd r.sa r.sb)
  | 0x14 => some (.sand r.sd r.sa r.sb)
  | 0x15 => some (.sandImm r.sd r.sa r.sb)
  | 0x16 => some (.sor r.sd r.sa r.sb)
  | 0x17 => some (.sorImm r.sd r.sa r.sb)
  | 0x18 => some (.sxor r.sd r.sa r.sb)
  | 0x19 => some (.sxorImm r.sd r.sa r.sb)
  | 0x1A => some (.sshl r.sd r.sa r.sb)
  | 0x1B => some (.sshlImm r.sd r.sa r.sb)
  | 0x1C => some (.sshrN64 r.sd r.sa r.sb)
  | 0x1D => some (.sshrN64Imm r.sd r.sa r.sb)
  | 0x1E => some (.sshrI64 r.sd r.sa r.sb)
  | 0x1F => some (.sshrI64Imm r.sd r.sa r.sb)
  | 0x20 => some (.sminI64 r.sd r.sa r.sb)
  | 0x21 => some (.sminI64Imm r.sd r.sa r.sb)
  | 0x22 => some (.sminN64 r.sd r.sa r.sb)
  | 0x23 => some (.sminN64Imm r.sd r.sa r.sb)
  | 0x24 => some (.smaxI64 r.sd r.sa r.sb)
  | 0x25 => some (.smaxI64Imm r.sd r.sa r.sb)
  | 0x26 => some (.smaxN64 r.sd r.sa r.sb)
  | 0x27 => some (.smaxN64Imm r.sd r.sa r.sb)
  | 0x28 => (condOf (r.sd.extractLsb' 3 3)).map (fun c => .scmpI64 c (r.sd.extractLsb' 0 3) r.sa r.sb)
  | 0x29 => (condOf (r.sd.extractLsb' 3 3)).map (fun c => .scmpI64Imm c (r.sd.extractLsb' 0 3) r.sa r.sb)
  | 0x2A => (condOf (r.sd.extractLsb' 3 3)).map (fun c => .scmpN64 c (r.sd.extractLsb' 0 3) r.sa r.sb)
  | 0x2B => (condOf (r.sd.extractLsb' 3 3)).map (fun c => .scmpN64Imm c (r.sd.extractLsb' 0 3) r.sa r.sb)
  | 0x2C => some (.smov r.sd r.sa)
  | 0x2D => some (.smovImm r.sd (r.sb ++ r.sa))
  | 0x2E => (indexOf r.sa).map (fun x => .smovIndex r.sd x)
  | 0x2F =>
    match r.sb.toNat with
    | 0 => some (.sclz r.sd r.sa)
    | 1 => some (.sctz r.sd r.sa)
    | 2 => some (.spopc r.sd r.sa)
    | 3 => some (.sbrev r.sd r.sa)
    | _ => none
  | 0x31 => some (.bra (r.sb ++ r.sa ++ r.sd))
  | 0x32 => some (.call (r.sb ++ r.sa ++ r.sd))
  | 0x33 => some (.jmp r.sa)
  | 0x34 => some (.calli r.sa)
  | 0x35 => some (.join (r.sb ++ r.sa ++ r.sd))
  | 0x36 => some (.emrd r.sd)
  | 0x37 => some (.emwr r.sa)
  | 0x38 => some (.emand (r.sa.extractLsb' 0 3))
  | 0x39 => some (.emandn (r.sa.extractLsb' 0 3))
  | _ => none

/-- The scalar literal forms under major 0x30 (R42): the minor is half the register form's major. -/
def buildScalarLit (r : Raw) : Option Instr :=
  let d := r.sd
  let a := r.sa
  match r.minor.toNat with
  | 0x01 => some (.saddLit d a r.lit)
  | 0x02 => some (.ssubLit d a r.lit)
  | 0x03 => some (.smulLit d a r.lit)
  | 0x04 => some (.smulhI64Lit d a r.lit)
  | 0x05 => some (.smulhN64Lit d a r.lit)
  | 0x06 => some (.sdivI64Lit d a r.lit)
  | 0x07 => some (.sdivN64Lit d a r.lit)
  | 0x08 => some (.sremI64Lit d a r.lit)
  | 0x09 => some (.sremN64Lit d a r.lit)
  | 0x0A => some (.sandLit d a r.lit)
  | 0x0B => some (.sorLit d a r.lit)
  | 0x0C => some (.sxorLit d a r.lit)
  | 0x0D => some (.sshlLit d a r.lit)
  | 0x0E => some (.sshrN64Lit d a r.lit)
  | 0x0F => some (.sshrI64Lit d a r.lit)
  | 0x10 => some (.sminI64Lit d a r.lit)
  | 0x11 => some (.sminN64Lit d a r.lit)
  | 0x12 => some (.smaxI64Lit d a r.lit)
  | 0x13 => some (.smaxN64Lit d a r.lit)
  | 0x14 => (condOf (r.vd.extractLsb' 3 3)).map (fun c => .scmpI64Lit c (r.vd.extractLsb' 0 3) a r.lit)
  | 0x15 => (condOf (r.vd.extractLsb' 3 3)).map (fun c => .scmpN64Lit c (r.vd.extractLsb' 0 3) a r.lit)
  | 0x16 => some (.smovLit d r.lit)
  | _ => none

/-- The vector integer instructions under major 0x40 (R43); a literal form has length code 2. -/
def buildVint (r : Raw) : Option Instr :=
  let lf : Bool := r.len == 2#2
  (tyOf r.ty).bind fun t =>
  match r.minor.toNat with
  | 0x00 => some (if lf then .iaddLit t (r.m 3) r.vd r.va r.lit else .iadd t (r.m 3) r.vd r.va r.vb)
  | 0x01 => some (if lf then .isubLit t (r.m 3) r.vd r.va r.lit else .isub t (r.m 3) r.vd r.va r.vb)
  | 0x02 => some (if lf then .imulLit t r.vd r.va r.lit else .imul t r.vd r.va r.vb)
  | 0x03 => some (if lf then .imulhLit t r.vd r.va r.lit else .imulh t r.vd r.va r.vb)
  | 0x04 => some (if lf then .idivLit t r.vd r.va r.lit else .idiv t r.vd r.va r.vb)
  | 0x05 => some (if lf then .iremLit t r.vd r.va r.lit else .irem t r.vd r.va r.vb)
  | 0x06 => some (if lf then .iminLit t r.vd r.va r.lit else .imin t r.vd r.va r.vb)
  | 0x07 => some (if lf then .imaxLit t r.vd r.va r.lit else .imax t r.vd r.va r.vb)
  | 0x08 => some (.iabs t r.vd r.va)
  | 0x09 => some (.ineg t r.vd r.va)
  | 0x0A => some (if lf then .vAndLit t r.vd r.va r.lit else .vAnd t r.vd r.va r.vb)
  | 0x0B => some (if lf then .vOrLit t r.vd r.va r.lit else .vOr t r.vd r.va r.vb)
  | 0x0C => some (if lf then .vXorLit t r.vd r.va r.lit else .vXor t r.vd r.va r.vb)
  | 0x0D => some (.vNot t r.vd r.va)
  | 0x0E => some (if lf then .shlLit t r.vd r.va r.lit else .shl t r.vd r.va r.vb)
  | 0x0F => some (if lf then .shrLit t r.vd r.va r.lit else .shr t r.vd r.va r.vb)
  | 0x10 => (condOf (r.md.extractLsb' 0 3)).map fun c =>
      if lf then .icmpLit t c r.pd r.va r.lit else .icmp t c r.pd r.va r.vb
  | 0x11 => some (.sel t (r.md.extractLsb' 0 3) r.vd r.va r.vb)
  | 0x12 =>
      if lf then (if r.m 4 then none else some (.movLit t r.vd r.lit))
      else if r.m 4 then (if r.va = 0 ∧ t = .b32 then some (.movLane r.vd) else none)
      else some (.mov t r.vd r.va)
  | 0x13 => some (.clz t r.vd r.va)
  | 0x14 => some (.popc t r.vd r.va)
  | 0x15 => some (.brev t r.vd r.va)
  | 0x16 => some (.imad t r.vd r.va r.vb r.vc)
  | 0x17 => some (.dot4 t (r.m 3) r.vd r.va r.vb r.vc)
  | _ => none

/-- The vector floating-point instructions under major 0x44 (R44). -/
def buildVfp (r : Raw) : Option Instr :=
  let lf : Bool := r.len == 2#2
  (tyOf r.ty).bind fun t =>
  (rndOf r.rnd).bind fun n =>
  match r.minor.toNat with
  | 0x00 => some (if lf then .faddLit t n r.vd r.va r.lit else .fadd t n r.vd r.va r.vb)
  | 0x01 => some (if lf then .fsubLit t n r.vd r.va r.lit else .fsub t n r.vd r.va r.vb)
  | 0x02 => some (if lf then .fmulLit t n r.vd r.va r.lit else .fmul t n r.vd r.va r.vb)
  | 0x03 => some (.ffma t n r.vd r.va r.vb r.vc)
  | 0x04 => some (if lf then .fminLit t r.vd r.va r.lit else .fmin t r.vd r.va r.vb)
  | 0x05 => some (if lf then .fmaxLit t r.vd r.va r.lit else .fmax t r.vd r.va r.vb)
  | 0x06 => some (.fabs t r.vd r.va)
  | 0x07 => some (.fneg t r.vd r.va)
  | 0x08 => some (.fsgn t r.vd r.va r.vb)
  | 0x09 => (condOf (r.md.extractLsb' 0 3)).map fun c =>
      if lf then .fcmpLit t c r.pd r.va r.lit else .fcmp t c r.pd r.va r.vb
  | 0x0A => some (.fclass t r.vd r.va)
  | 0x0B => if t = .f32 then some (.fexp2 r.vd r.va) else none
  | 0x0C => if t = .f32 then some (.flog2 r.vd r.va) else none
  | 0x0D => if t = .f32 then some (.frcp r.vd r.va) else none
  | 0x0E => if t = .f32 then some (.frsq r.vd r.va) else none
  | 0x0F => if t = .f32 then some (.fsin r.vd r.va) else none
  | 0x10 => if t = .f32 then some (.fcos r.vd r.va) else none
  | 0x11 => some (.frnd t n r.vd r.va)
  | 0x12 => if t = .f32 then some (if lf then .xinsLit n r.vd r.va r.lit else .xins n r.vd r.va r.vb) else none
  | 0x13 => if t = .f32 then some (.xext r.vd r.va) else none
  | _ => none

/-- The tapered instructions under major 0x48 (R45). -/
def buildTap (r : Raw) : Option Instr :=
  let lf : Bool := r.len == 2#2
  (tyOf r.ty).bind fun t =>
  match r.minor.toNat with
  | 0x00 => some (if lf then .taddLit t r.vd r.va r.lit else .tadd t r.vd r.va r.vb)
  | 0x01 => some (if lf then .tmulLit t r.vd r.va r.lit else .tmul t r.vd r.va r.vb)
  | 0x02 => some (.tfma t r.vd r.va r.vb r.vc)
  | 0x03 => (condOf (r.md.extractLsb' 0 3)).map fun c =>
      if lf then .tcmpLit t c r.pd r.va r.lit else .tcmp t c r.pd r.va r.vb
  | 0x04 => some (if lf then .tminLit t r.vd r.va r.lit else .tmin t r.vd r.va r.vb)
  | 0x05 => some (if lf then .tmaxLit t r.vd r.va r.lit else .tmax t r.vd r.va r.vb)
  | _ => none

/-- The conversions under major 0x4A (R46). -/
def buildCvt (r : Raw) : Option Instr :=
  (tyOf r.ty).bind fun td =>
  (tyOf (r.md.extractLsb' 0 5)).bind fun ts =>
  (rndOf r.rnd).bind fun n =>
  let st := r.m 5
  match r.minor.toNat with
  | 0x00 => some (.cvt n st td ts r.vd r.va)
  | 0x01 => if n = .rn then some (.cvtsr st td ts r.vd r.va r.vb) else none
  | 0x02 => some (.pk2 n st td ts r.vd r.va)
  | 0x03 => some (.pk4 n st td ts r.vd r.va)
  | 0x04 => some (.pk8 n st td ts r.vd r.va)
  | 0x05 => some (.upk2 n st td ts r.vd r.va)
  | 0x06 => some (.upk4 n st td ts r.vd r.va)
  | 0x07 => some (.upk8 n st td ts r.vd r.va)
  | _ => none

/-- The cross-lane instructions under major 0x4C (R47). -/
def buildCross (r : Raw) : Option Instr :=
  let lf : Bool := r.len == 2#2
  (tyOf r.ty).bind fun t =>
  match r.minor.toNat with
  | 0x00 => if t = .b32 then some (if lf then .shflLit (shflOf (r.md.extractLsb' 0 2)) r.vd r.va r.lit
      else .shfl (shflOf (r.md.extractLsb' 0 2)) r.vd r.va r.vb) else none
  | 0x01 => (voteOf (r.md.extractLsb' 0 2)).map fun o => .vote o r.vd (r.va.extractLsb' 0 3)
  | 0x02 => (redOf (r.md.extractLsb' 0 3)).map fun o => .redl o t r.vd r.va
  | 0x03 => (redOf (r.md.extractLsb' 0 3)).map fun o => .scan (r.m 3) o t r.vd r.va
  | 0x04 => if t = .b32 then some (if lf then .bcastLit r.vd r.va r.lit else .bcast r.vd r.va r.vb) else none
  | 0x05 => some (if lf then .lpartLit r.lit else .lpart r.sa)
  | _ => none

/-- `rhash` under major 0x4E (R47). -/
def buildRhash (r : Raw) : Option Instr :=
  if tyOf r.ty = some .b32 then some (.rhash r.vd r.va r.sc r.lit) else none

/-- The base of a memory operand (R48, R49): `vx` when m3 is 1. -/
def Raw.base (r : Raw) : MBase := ⟨r.sb, if r.m 3 then some r.va else none⟩

/-- The memory instructions under major 0x50 (R48); the form with an offset has length code 3. -/
def buildMem (r : Raw) : Option Instr :=
  let xf : Bool := r.len == 3#2
  let b := r.base
  let o := r.lit
  (tyOf r.ty).bind fun t =>
  (reqOf (r.md.extractLsb' 0 3)).bind fun q =>
  match r.minor.toNat with
  | 0x00 => some (if xf then .ldOff q t r.vd b o else .ld q t r.vd b)
  | 0x01 => some (if xf then .stOff q t r.vd b o else .st q t r.vd b)
  | 0x02 => if t = .b32 then some (if xf then .ldtOff q (r.m 4) r.vd b o else .ldt q (r.m 4) r.vd b) else none
  | 0x03 => if t = .b32 then some (if xf then .sttOff q r.vd b o else .stt q r.vd b) else none
  | 0x04 => some (if xf then .tsetOff q b o else .tset q b)
  | 0x05 => some (if xf then .tclrOff q b o else .tclr q b)
  | 0x06 => some (if xf then .ttestOff q r.pd b o else .ttest q r.pd b)
  | 0x07 => some (if xf then .pfOff q b o else .pf q b)
  | 0x08 => if q = .none then some (if xf then .cwbOff b o else .cwb b) else none
  | 0x09 => if q = .none then some (if xf then .cinvOff b o else .cinv b) else none
  | 0x0A => if q = .none then some (if xf then .cflushOff b o else .cflush b) else none
  | 0x0B => (bankOf (o.extractLsb' 8 2)).map fun k => .bmode (o.extractLsb' 0 6) k
  | 0x0C => some (.salloc r.sd r.sa)
  | 0x0D => some (.sfree r.sa)
  | _ => none

/-- The atomics under major 0x58 (R49). -/
def buildAtom (r : Raw) : Option Instr :=
  let b := r.base
  (tyOf r.ty).bind fun t =>
  (scopeOf (r.md.extractLsb' 0 3)).bind fun s =>
  match r.minor.toNat with
  | 0x00 => some (.aadd s t r.vd b r.lit r.vc)
  | 0x01 => some (.amin s t r.vd b r.lit r.vc)
  | 0x02 => some (.amax s t r.vd b r.lit r.vc)
  | 0x03 => some (.aand s t r.vd b r.lit r.vc)
  | 0x04 => some (.aor s t r.vd b r.lit r.vc)
  | 0x05 => some (.axor s t r.vd b r.lit r.vc)
  | 0x06 => some (.axchg s t r.vd b r.lit r.vc)
  | 0x07 => some (.acas s t r.vd b r.lit r.vc (r.ext.extractLsb' 0 8))
  | 0x08 => some (.ainc s t r.vd b r.lit)
  | 0x09 => (redOf (r.md.extractLsb' 4 3)).map fun o => .red o s t b r.lit r.vc
  | _ => none

/-- The block atomics under major 0x5A (R50). -/
def buildBlock (r : Raw) : Option Instr :=
  let b := r.base
  (tyOf r.ty).bind fun t =>
  match r.minor.toNat with
  | 0x00 => (tyOf (r.ext.extractLsb' 0 5)).bind fun fd => (scopeOf (r.md.extractLsb' 0 3)).map fun s =>
      if r.m 5 then .baccMem s fd t b r.lit r.sc else .bacc s fd t b r.lit r.vc r.sc
  | 0x01 => (scopeOf (r.md.extractLsb' 0 3)).map fun s => .bld s t r.vd r.sc b r.lit
  | 0x02 => (tyOf (r.ext.extractLsb' 0 5)).map fun fs => .bcvt t fs r.vd r.va r.sc
  | _ => none

/-- The fences and barriers under major 0x5C (R51). -/
def buildFence (r : Raw) : Option Instr :=
  match r.minor.toNat with
  | 0x00 => (fenceOf (r.md.extractLsb' 0 2)).bind fun k => (scopeOf (r.md.extractLsb' 2 3)).map fun s => .fence k s
  | 0x01 => some (barOf (r.md.extractLsb' 0 2))
  | 0x02 => some (.bobjInit r.sa r.sb)
  | 0x03 => some (.bobjExp r.sa r.sb)
  | 0x04 => some (.bobjArr r.sa r.sb)
  | 0x05 => some (.bobjWait r.sa r.sb)
  | 0x06 => some (.mon r.sa)
  | 0x07 => some (.mwait)
  | _ => none

/-- The copy-engine instructions under major 0x60 (R52). -/
def buildCopy (r : Raw) : Option Instr :=
  match r.minor.toNat with
  | 0x00 => some (.copyT (r.m 0) r.sd r.sa r.sb)
  | 0x01 => some (.copyArm (r.m 0) r.sd r.sa r.sb r.sc)
  | 0x02 => some (.copyCancel r.pd r.sa)
  | 0x03 => some (.evpop r.sd (r.vc.extractLsb' 0 3))
  | _ => none

/-- The matrix instructions under major 0x62 (R52); the slot is ext[79:78]. -/
def buildMatrix (r : Raw) : Option Instr :=
  let k : BitVec 2 := r.ext.extractLsb' 0 2
  match r.minor.toNat with
  | 0x00 => some (.mxcfg k r.sa)
  | 0x01 => some (mxarmOf k)
  | 0x02 => some (mxdisarmOf k)
  | 0x03 => (tyOf r.ty).map fun t => .mma (r.m 0) t k r.sd r.sa r.sb r.sc
  | 0x04 => some (.sacc k r.sa r.sb)
  | 0x05 => some (.mxflg r.sd k)
  | 0x06 => some (.mxspill k r.sa)
  | _ => none

/-- The crew instructions under major 0x64 (R52). -/
def buildCrew (r : Raw) : Option Instr :=
  let q : BitVec 4 := r.vd.extractLsb' 0 4
  match r.minor.toNat with
  | 0x00 => some (.crewEnter r.sa (r.lit.extractLsb' 0 6))
  | 0x01 => some (.crewLeave)
  | 0x02 => some (.seatLd (r.lit.extractLsb' 0 5) r.sa)
  | 0x03 => some (.qdef q r.va (r.lit.extractLsb' 0 5))
  | 0x04 => some (.qadvH q (r.lit.extractLsb' 0 5))
  | 0x05 => some (.qadvT q (r.lit.extractLsb' 0 5))
  | 0x06 => some (.qwait (r.m 0) q (r.lit.extractLsb' 0 5))
  | _ => none

/-- The system instructions under major 0x70 (R53). -/
def buildSys (r : Raw) : Option Instr :=
  match r.minor.toNat with
  | 0x00 => some (.enq r.pd r.sa)
  | 0x01 => some (roleOf (r.lit.extractLsb' 0 2))
  | 0x02 => some (.yield)
  | 0x03 => some (.trap (r.lit.extractLsb' 0 16))
  | 0x04 => some (.tret)
  | 0x05 => some (.srRd r.sd (r.lit.extractLsb' 0 12))
  | 0x06 => some (.srWr (r.lit.extractLsb' 0 12) r.sa)
  | 0x07 => some (.genBump r.sa)
  | 0x08 => some (.ptpRd r.sd)
  | 0x09 => some (.bkpt (r.lit.extractLsb' 0 16))
  | 0x0A => some (.halt)
  | 0x0B => some (.fenceTable)
  | _ => none

/-- How a register field is used (R32): its mask of assigned bits is `FKind.mask`. -/
inductive FKind where
  /-- reserved -/
  | z
  /-- vector register -/
  | v
  /-- scalar register -/
  | s
  /-- predicate -/
  | p
  /-- queue handle -/
  | q
  deriving DecidableEq, Repr

/-- The bits of a register field that its kind assigns (R32). -/
def fkindMask : FKind → BitVec 8
  | .z => 0 | .v => 0xFF | .s => 0x3F | .p => 0x07 | .q => 0x0F

/-- One minor's field use: the lengths it permits and the bits that are fields (R42 to R53). A bit not
named here is reserved. -/
structure FieldUse where
  lens : List (BitVec 2)
  vd : FKind := .z
  va : FKind := .z
  vb : FKind := .z
  md : BitVec 12 := 0
  /-- rounding under R35 -/
  rnd : Bool := false
  /-- takes a type (R34) -/
  typed : Bool := true
  vc : FKind := .z
  sc : Bool := false
  ext : BitVec 18 := 0
  lit : BitVec 32 := 0
  /-- the type field is named as one that must be zero, and so is reserved (R54) -/
  tyZero : Bool := false
  deriving DecidableEq, Repr

/-- The assigned bits of a literal of the instruction's type (R33): the low bits for a narrow type. A lane number
(major 0x4C) has the type `.b32`. -/
def litMask (r : Raw) : BitVec 32 :=
  match tyOf r.ty with
  | some t => if r.major ≠ 0x4C ∧ Machine.tyBits t < 32 ∧ Machine.tyBits t ≠ 0 then BitVec.ofNat 32 (2 ^ Machine.tyBits t - 1)
      else 0xFFFFFFFF
  | none => 0xFFFFFFFF

/-- Field use of the minors with two sources and a literal form (lengths 64 and 96). -/
def useBin (r : Raw) (vd : FKind) (md : BitVec 12) (rnd : Bool) : FieldUse :=
  if r.len = 2#2 then ⟨[1, 2], vd, .v, .z, md, rnd, true, .z, false, 0, litMask r, false⟩
  else ⟨[1, 2], vd, .v, .v, md, rnd, true, .z, false, 0, 0, false⟩

/-- Field use of a 64-bit minor with one source. -/
def useUn (vd : FKind) (md : BitVec 12) (rnd : Bool) : FieldUse := { lens := [1], vd := vd, va := .v, md := md, rnd := rnd }

/-- Field use under major 0x40 (R43). -/
def useVint (r : Raw) : Option FieldUse :=
  match r.minor.toNat with
  | 0x00 | 0x01 => some (useBin r .v 8 false)
  | 0x02 | 0x03 | 0x04 | 0x05 | 0x06 | 0x07 | 0x0A | 0x0B | 0x0C | 0x0E | 0x0F => some (useBin r .v 0 false)
  | 0x08 | 0x09 | 0x0D | 0x13 | 0x14 | 0x15 => some (useUn .v 0 false)
  | 0x10 => some (useBin r .p 7 false)
  | 0x11 => some { lens := [1], vd := .v, va := .v, vb := .v, md := 7 }
  | 0x12 => some (if r.len = 2#2 then { lens := [1, 2], vd := .v, md := 0x10, lit := litMask r }
      else { lens := [1, 2], vd := .v, va := .v, md := 0x10 })
  | 0x16 => some { lens := [3], vd := .v, va := .v, vb := .v, vc := .v }
  | 0x17 => some { lens := [3], vd := .v, va := .v, vb := .v, vc := .v, md := 8 }
  | _ => none

/-- Field use under major 0x44 (R44). -/
def useVfp (r : Raw) : Option FieldUse :=
  match r.minor.toNat with
  | 0x00 | 0x01 | 0x02 | 0x12 => some (useBin r .v 0 true)
  | 0x03 => some { lens := [3], vd := .v, va := .v, vb := .v, vc := .v, rnd := true }
  | 0x04 | 0x05 => some (useBin r .v 0 false)
  | 0x06 | 0x07 | 0x0A | 0x0B | 0x0C | 0x0D | 0x0E | 0x0F | 0x10 | 0x13 => some (useUn .v 0 false)
  | 0x08 => some { lens := [1], vd := .v, va := .v, vb := .v }
  | 0x09 => some (useBin r .p 7 false)
  | 0x11 => some (useUn .v 0 true)
  | _ => none

/-- Field use under major 0x48 (R45). -/
def useTap (r : Raw) : Option FieldUse :=
  match r.minor.toNat with
  | 0x00 | 0x01 | 0x04 | 0x05 => some (useBin r .v 0 false)
  | 0x02 => some { lens := [3], vd := .v, va := .v, vb := .v, vc := .v }
  | 0x03 => some (useBin r .p 7 false)
  | _ => none

/-- Field use under major 0x4A (R46). -/
def useCvt (r : Raw) : Option FieldUse :=
  match r.minor.toNat with
  | 0x01 => some { lens := [1], vd := .v, va := .v, vb := .v, md := 0x3F, rnd := true }
  | 0x00 | 0x02 | 0x03 | 0x04 | 0x05 | 0x06 | 0x07 => some (useUn .v 0x3F true)
  | _ => none

/-- Field use under major 0x4C (R47). -/
def useCross (r : Raw) : Option FieldUse :=
  match r.minor.toNat with
  | 0x00 => some (useBin r .v 3 false)
  | 0x01 => some { lens := [1], vd := if r.md.extractLsb' 0 2 = 2#2 then .v else .p, va := .p, md := 3, typed := false, tyZero := true }
  | 0x02 => some (useUn .v 7 false)
  | 0x03 => some (useUn .v 15 false)
  | 0x04 => some (useBin r .v 0 false)
  | 0x05 => some (if r.len = 2#2 then { lens := [1, 2], typed := false, tyZero := true, lit := 0xFFFFFFFF }
      else { lens := [1, 2], va := .s, typed := false, tyZero := true })
  | _ => none

/-- Field use under major 0x4E (R47). -/
def useRhash (r : Raw) : Option FieldUse :=
  match r.minor.toNat with
  | 0x00 => some { lens := [3], vd := .v, va := .v, sc := true, lit := 0xFFFFFFFF }
  | _ => none

/-- Field use of a memory minor with an address (R48). -/
def useAddr (r : Raw) (vd : FKind) (md : BitVec 12) (typed : Bool) : FieldUse :=
  { lens := [1, 3], vd := vd, va := if r.m 3 then .v else .z, vb := .s, md := md, typed := typed,
    lit := if r.len = 3#2 then 0xFFFFFFFF else 0 }

/-- Field use under major 0x50 (R48). -/
def useMem (r : Raw) : Option FieldUse :=
  match r.minor.toNat with
  | 0x00 | 0x01 | 0x03 => some (useAddr r .v 15 true)
  | 0x02 => some (useAddr r .v 31 true)
  | 0x06 => some (useAddr r .p 15 false)
  | 0x04 | 0x05 | 0x07 | 0x08 | 0x09 | 0x0A => some (useAddr r .z 15 false)
  | 0x0B => some { lens := [3], typed := false, lit := 0x33F }
  | 0x0C => some { lens := [1], vd := .s, va := .s, typed := false }
  | 0x0D => some { lens := [1], va := .s, typed := false }
  | _ => none

/-- Field use of an atomic (R49). -/
def useAt (r : Raw) (vd vc : FKind) (md : BitVec 12) (ext : BitVec 18) : FieldUse :=
  { lens := [3], vd := vd, va := if r.m 3 then .v else .z, vb := .s, md := md, vc := vc, ext := ext, lit := 0xFFFFFFFF }

/-- Field use under major 0x58 (R49). -/
def useAtom (r : Raw) : Option FieldUse :=
  match r.minor.toNat with
  | 0x00 | 0x01 | 0x02 | 0x03 | 0x04 | 0x05 | 0x06 => some (useAt r .v .v 15 0)
  | 0x07 => some (useAt r .v .v 15 0xFF)
  | 0x08 => some (useAt r .v .z 15 0)
  | 0x09 => some (useAt r .z .v 0x7F 0)
  | _ => none

/-- Field use under major 0x5A (R50). -/
def useBlock (r : Raw) : Option FieldUse :=
  match r.minor.toNat with
  | 0x00 => some { useAt r .z (if r.m 5 then .z else .v) 0x2F 0x1F with sc := true }
  | 0x01 => some { useAt r .v .z 15 0 with sc := true }
  | 0x02 => some { lens := [3], vd := .v, va := .v, sc := true, ext := 0x1F }
  | _ => none

/-- Field use under major 0x5C (R51). -/
def useFence (r : Raw) : Option FieldUse :=
  match r.minor.toNat with
  | 0x00 => some { lens := [1], md := 31, typed := false }
  | 0x01 => some { lens := [1], md := 3, typed := false }
  | 0x02 | 0x03 | 0x04 | 0x05 => some { lens := [1], va := .s, vb := .s, typed := false }
  | 0x06 => some { lens := [1], va := .s, typed := false }
  | 0x07 => some { lens := [1], typed := false }
  | _ => none

/-- Field use under major 0x60 (R52). -/
def useCopy (r : Raw) : Option FieldUse :=
  match r.minor.toNat with
  | 0x00 => some { lens := [3], vd := .s, va := .s, vb := .s, md := 1, typed := false, tyZero := true }
  | 0x01 => some { lens := [3], vd := .s, va := .s, vb := .s, md := 1, typed := false, tyZero := true, sc := true }
  | 0x02 => some { lens := [3], vd := .p, va := .s, typed := false, tyZero := true }
  | 0x03 => some { lens := [3], vd := .s, vc := .p, typed := false, tyZero := true }
  | _ => none

/-- Field use under major 0x62 (R52). -/
def useMatrix (r : Raw) : Option FieldUse :=
  match r.minor.toNat with
  | 0x00 | 0x06 => some { lens := [3], va := .s, typed := false, ext := 3 }
  | 0x01 | 0x02 => some { lens := [3], typed := false, ext := 3 }
  | 0x03 => some { lens := [3], vd := .s, va := .s, vb := .s, md := 1, sc := true, ext := 3 }
  | 0x04 => some { lens := [3], va := .s, vb := .s, typed := false, ext := 3 }
  | 0x05 => some { lens := [3], vd := .s, typed := false, ext := 3 }
  | _ => none

/-- Field use under major 0x64 (R52). -/
def useCrew (r : Raw) : Option FieldUse :=
  match r.minor.toNat with
  | 0x00 => some { lens := [3], va := .s, typed := false, lit := 0x3F }
  | 0x01 => some { lens := [3], typed := false }
  | 0x02 => some { lens := [3], va := .s, typed := false, lit := 0x1F }
  | 0x03 => some { lens := [3], vd := .q, va := .v, typed := false, lit := 0x1F }
  | 0x04 | 0x05 => some { lens := [3], vd := .q, typed := false, lit := 0x1F }
  | 0x06 => some { lens := [3], vd := .q, md := 1, typed := false, lit := 0x1F }
  | _ => none

/-- Field use under major 0x70 (R53). -/
def useSys (r : Raw) : Option FieldUse :=
  match r.minor.toNat with
  | 0x00 => some { lens := [3], vd := .p, va := .s, typed := false }
  | 0x01 => some { lens := [3], typed := false, lit := 3 }
  | 0x02 | 0x04 | 0x0A | 0x0B => some { lens := [3], typed := false }
  | 0x03 | 0x09 => some { lens := [3], typed := false, lit := 0xFFFF }
  | 0x05 => some { lens := [3], vd := .s, typed := false, lit := 0xFFF }
  | 0x06 => some { lens := [3], va := .s, typed := false, lit := 0xFFF }
  | 0x07 => some { lens := [3], va := .s, typed := false }
  | 0x08 => some { lens := [3], vd := .s, typed := false }
  | _ => none

/-- Field use under major 0x30 (R42). -/
def useScalarLit (r : Raw) : Option FieldUse :=
  let m := r.minor.toNat
  if 1 ≤ m ∧ m ≤ 0x15 then some { lens := [2], vd := .s, va := .s, typed := false, lit := 0xFFFFFFFF }
  else if m = 0x16 then some { lens := [2], vd := .s, typed := false, lit := 0xFFFFFFFF }
  else none

/-- A reserved bit is 1 (R54, sub-cause 5). -/
def reservedBit (u : FieldUse) (r : Raw) : Bool :=
  r.vd &&& ~~~(fkindMask u.vd) != 0 || r.va &&& ~~~(fkindMask u.va) != 0 || r.vb &&& ~~~(fkindMask u.vb) != 0
  || r.md &&& ~~~u.md != 0 || (!u.rnd && r.rnd != 0) || (u.tyZero && r.ty != 0)
  || r.vc &&& ~~~(fkindMask u.vc) != 0 || (!u.sc && r.sc != 0) || r.ext &&& ~~~u.ext != 0 || r.lit &&& ~~~u.lit != 0

/-- The lengths that some minor of a major permits (R40): empty for the 32-bit and the reserved majors. -/
def majorLens (m : BitVec 8) : List (BitVec 2) :=
  match m.toNat with
  | 0x30 => [2]
  | 0x40 | 0x44 | 0x48 => [1, 2, 3]
  | 0x4A => [1]
  | 0x4C => [1, 2]
  | 0x4E => [3]
  | 0x50 => [1, 3]
  | 0x58 | 0x5A => [3]
  | 0x5C => [1]
  | 0x60 | 0x62 | 0x64 | 0x70 => [3]
  | _ => []

/-- Field use by major and minor. -/
def fieldUse (r : Raw) : Option FieldUse :=
  match r.major.toNat with
  | 0x30 => useScalarLit r
  | 0x40 => useVint r
  | 0x44 => useVfp r
  | 0x48 => useTap r
  | 0x4A => useCvt r
  | 0x4C => useCross r
  | 0x4E => useRhash r
  | 0x50 => useMem r
  | 0x58 => useAtom r
  | 0x5A => useBlock r
  | 0x5C => useFence r
  | 0x60 => useCopy r
  | 0x62 => useMatrix r
  | 0x64 => useCrew r
  | 0x70 => useSys r
  | _ => none

/-- The instruction that a longer pattern stands for, its lengths and reserved bits being right. -/
def build (r : Raw) : Option Instr :=
  match r.major.toNat with
  | 0x30 => buildScalarLit r
  | 0x40 => buildVint r
  | 0x44 => buildVfp r
  | 0x48 => buildTap r
  | 0x4A => buildCvt r
  | 0x4C => buildCross r
  | 0x4E => buildRhash r
  | 0x50 => buildMem r
  | 0x58 => buildAtom r
  | 0x5A => buildBlock r
  | 0x5C => buildFence r
  | 0x60 => buildCopy r
  | 0x62 => buildMatrix r
  | 0x64 => buildCrew r
  | 0x70 => buildSys r
  | _ => none

/-- `join`, `emrd` and `emwr` take no guard (R270): their guard field holds 0b0111. -/
def guardOk (g : Guard) (i : Instr) : Bool :=
  match i with
  | .join _ | .emrd _ | .emwr _ => g = .always
  | _ => true

/-- The instruction when its field values are accepted, else sub-cause 6 (R54). -/
def accept (g : Guard) (o : Option Instr) (bytes : Nat) : Decoded :=
  match o with
  | some i => if i.wf && guardOk g i then .ok g i bytes else .bad 6
  | none => .bad 6

/-- The majors of the 32-bit instructions (R40, R41). -/
def isMajor32 (m : BitVec 8) : Bool :=
  (1 ≤ m.toNat && m.toNat ≤ 0x2F) || (0x31 ≤ m.toNat && m.toNat ≤ 0x39)

/-- The reserved bits of an F32 word (R28, R32, R41): fields that its major leaves unused. -/
def reserved32 (r : Raw32) : Bool :=
  match r.major.toNat with
  | 0x01 => r.sd != 0 || r.sa != 0 || r.sb != 0
  | 0x2C | 0x2E => r.sb != 0
  | 0x33 | 0x34 | 0x37 => r.sd != 0 || r.sb != 0
  | 0x36 => r.sa != 0 || r.sb != 0
  | 0x38 | 0x39 => r.sd != 0 || r.sb != 0 || r.sa &&& 0x38 != 0
  | _ => false

/-- Decodes an F32 word of an assigned major. -/
def decode32 (r : Raw32) : Decoded :=
  if reserved32 r then .bad 5 else accept ⟨r.gneg, r.gp⟩ (build32 r) 4

/-- Decodes a longer pattern whose length some minor of its major permits. -/
def decodeWide (r : Raw) : Decoded :=
  match fieldUse r with
  | none => .bad 3
  | some u =>
    if !u.lens.contains r.len then .bad 4
    else if reservedBit u r then .bad 5
    else if !u.typed && r.ty != 0 then .bad 6
    else accept r.guard (build r) (lenBytes r.len)

/-- The decoder: an instruction and its length, or the first sub-cause of R54 that applies. -/
def decode (w : Bits128) : Decoded :=
  let m := majorOf w
  if isMajor32 m then
    (if lenCode w = 0 then decode32 (unpack32 w) else .bad 4)
  else if majorLens m = [] then .bad 3
  else if !(majorLens m).contains (lenCode w) then .bad 4
  else decodeWide (unpack w)

/-- The value of up to sixteen bytes, the first at the lowest address (R22). -/
def bits128OfBytes (bs : List Byte) : Bits128 :=
  BitVec.ofNat 128 (bs.foldr (fun b acc => b.toNat + 256 * acc) 0)

/-- Decodes the bytes of an instruction as memory holds them, the first at the lowest address (R22). -/
def decodeBytes (bs : List Byte) : Decoded := decode (bits128OfBytes bs)

/-- The bytes of an `n`-byte word, lowest first (R7, R22). -/
def bytesOfNat : Nat → Nat → List Byte
  | 0, _ => []
  | n + 1, v => BitVec.ofNat 8 v :: bytesOfNat n (v / 256)

/-- The instruction read from one whose bits are `w`, bit 0 the least significant of the first word. -/
def decodeTableWord (nbits w : Nat) : Option Instr :=
  match decodeBytes (bytesOfNat 16 (w % 2 ^ nbits)) with
  | .ok _ i _ => some i
  | .bad _ => none

/-- The fields of an encoded instruction. -/
inductive Enc where
  | short (r : Raw32)
  | wide (r : Raw)
  deriving DecidableEq, Repr

/-- An F32 word's fields. -/
def enc32 (major : BitVec 8) (g : Guard) (sd sa sb : BitVec 6) : Enc := .short ⟨major, g.neg, g.p, sd, sa, sb⟩

/-- A scalar register in an 8-bit field (R32). -/
def sreg (a : SReg) : BitVec 8 := 0#2 ++ a
/-- A predicate in an 8-bit field (R32). -/
def preg (p : PReg) : BitVec 8 := 0#5 ++ p
/-- A queue handle in an 8-bit field (R32). -/
def qreg (q : BitVec 4) : BitVec 8 := 0#4 ++ q

/-- A modifier field from m11–m6, m5, m4, m3 and m2–m0. -/
def mods (m6 : BitVec 6) (m5 m4 m3 : Bool) (lo : BitVec 3) : BitVec 12 :=
  m6 ++ BitVec.ofBool m5 ++ BitVec.ofBool m4 ++ BitVec.ofBool m3 ++ lo

/-- A scalar literal form (R42). -/
def encLit (minor : BitVec 6) (g : Guard) (vd : BitVec 8) (a : SReg) (l : BitVec 32) : Enc :=
  .wide ⟨2, 0x30, g.p, g.neg, vd, sreg a, 0, minor, 0, 0, 0, 0, 0, 0, l⟩

/-- A 64-bit form (R29). -/
def enc64 (major : BitVec 8) (minor : BitVec 6) (g : Guard) (t : Ty) (rnd : BitVec 3) (md : BitVec 12) (vd va vb : BitVec 8) : Enc :=
  .wide ⟨1, major, g.p, g.neg, vd, va, vb, minor, tyCode t, rnd, md, 0, 0, 0, 0⟩

/-- A literal form (R30). -/
def enc96 (major : BitVec 8) (minor : BitVec 6) (g : Guard) (t : Ty) (rnd : BitVec 3) (md : BitVec 12) (vd va : BitVec 8)
    (l : BitVec 32) : Enc :=
  .wide ⟨2, major, g.p, g.neg, vd, va, 0, minor, tyCode t, rnd, md, 0, 0, 0, l⟩

/-- A 128-bit form (R31). -/
def enc128 (major : BitVec 8) (minor : BitVec 6) (g : Guard) (t : Ty) (rnd : BitVec 3) (md : BitVec 12) (vd va vb vc : BitVec 8)
    (sc : BitVec 6) (ext : BitVec 18) (l : BitVec 32) : Enc :=
  .wide ⟨3, major, g.p, g.neg, vd, va, vb, minor, tyCode t, rnd, md, vc, sc, ext, l⟩

/-- va of a memory operand (R48). -/
def MBase.va (b : MBase) : BitVec 8 := b.vx.getD 0
/-- m3 of a memory operand (R48). -/
def MBase.m3 (b : MBase) : Bool := b.vx.isSome

/-- A memory form without an offset (R48). -/
def encMem (minor : BitVec 6) (g : Guard) (t : Ty) (q : ReqTy) (keep : Bool) (vd : BitVec 8) (b : MBase) : Enc :=
  enc64 0x50 minor g t 0 (mods 0 false keep b.m3 (reqCode q)) vd b.va (sreg b.sb)

/-- A memory form with an offset (R48). -/
def encMemOff (minor : BitVec 6) (g : Guard) (t : Ty) (q : ReqTy) (keep : Bool) (vd : BitVec 8) (b : MBase) (o : BitVec 32) : Enc :=
  enc128 0x50 minor g t 0 (mods 0 false keep b.m3 (reqCode q)) vd b.va (sreg b.sb) 0 0 0 o

/-- An atomic (R49). -/
def encAtom (minor : BitVec 6) (g : Guard) (t : Ty) (s : Scope) (op : BitVec 3) (vd : BitVec 8) (b : MBase) (o : BitVec 32)
    (vc : BitVec 8) (ext : BitVec 18) : Enc :=
  enc128 0x58 minor g t 0 (0#5 ++ op ++ BitVec.ofBool b.m3 ++ scopeCode s) vd b.va (sreg b.sb) vc 0 ext o

/-- A conversion (R46). -/
def encCvt (minor : BitVec 6) (g : Guard) (n : Rnd) (st : Bool) (td ts : Ty) (vd va vb : BitVec 8) : Enc :=
  enc64 0x4A minor g td (rndCode n) (0#6 ++ BitVec.ofBool st ++ tyCode ts) vd va vb

/-- A matrix form (R52). -/
def encMx (minor : BitVec 6) (g : Guard) (t : Ty) (mx : Bool) (k : BitVec 2) (vd va vb : BitVec 8) (sc : BitVec 6) : Enc :=
  enc128 0x62 minor g t 0 (mods 0 false false false (0#2 ++ BitVec.ofBool mx)) vd va vb 0 sc (0#16 ++ k) 0


/-- The encoding of an instruction (R21 to R53), field by field; `none` for the steps that have none, and for
`clockStatusRead`, `fifoConfigWrite` and `creditReturnWrite`, whose words are those of `srRd` and `srWr`. -/
def toFields (g : Guard) : Instr → Option Enc
  | .nop => some (enc32 0x01 g 0 0 0)
  | .sadd d a b => some (enc32 0x02 g d a b)
  | .saddImm d a i => some (enc32 0x03 g d a i)
  | .saddLit d a l => some (encLit 0x01 g (sreg d) a l)
  | .ssub d a b => some (enc32 0x04 g d a b)
  | .ssubImm d a i => some (enc32 0x05 g d a i)
  | .ssubLit d a l => some (encLit 0x02 g (sreg d) a l)
  | .smul d a b => some (enc32 0x06 g d a b)
  | .smulImm d a i => some (enc32 0x07 g d a i)
  | .smulLit d a l => some (encLit 0x03 g (sreg d) a l)
  | .smulhI64 d a b => some (enc32 0x08 g d a b)
  | .smulhI64Imm d a i => some (enc32 0x09 g d a i)
  | .smulhI64Lit d a l => some (encLit 0x04 g (sreg d) a l)
  | .smulhN64 d a b => some (enc32 0x0A g d a b)
  | .smulhN64Imm d a i => some (enc32 0x0B g d a i)
  | .smulhN64Lit d a l => some (encLit 0x05 g (sreg d) a l)
  | .sdivI64 d a b => some (enc32 0x0C g d a b)
  | .sdivI64Imm d a i => some (enc32 0x0D g d a i)
  | .sdivI64Lit d a l => some (encLit 0x06 g (sreg d) a l)
  | .sdivN64 d a b => some (enc32 0x0E g d a b)
  | .sdivN64Imm d a i => some (enc32 0x0F g d a i)
  | .sdivN64Lit d a l => some (encLit 0x07 g (sreg d) a l)
  | .sremI64 d a b => some (enc32 0x10 g d a b)
  | .sremI64Imm d a i => some (enc32 0x11 g d a i)
  | .sremI64Lit d a l => some (encLit 0x08 g (sreg d) a l)
  | .sremN64 d a b => some (enc32 0x12 g d a b)
  | .sremN64Imm d a i => some (enc32 0x13 g d a i)
  | .sremN64Lit d a l => some (encLit 0x09 g (sreg d) a l)
  | .sand d a b => some (enc32 0x14 g d a b)
  | .sandImm d a i => some (enc32 0x15 g d a i)
  | .sandLit d a l => some (encLit 0x0A g (sreg d) a l)
  | .sor d a b => some (enc32 0x16 g d a b)
  | .sorImm d a i => some (enc32 0x17 g d a i)
  | .sorLit d a l => some (encLit 0x0B g (sreg d) a l)
  | .sxor d a b => some (enc32 0x18 g d a b)
  | .sxorImm d a i => some (enc32 0x19 g d a i)
  | .sxorLit d a l => some (encLit 0x0C g (sreg d) a l)
  | .sshl d a b => some (enc32 0x1A g d a b)
  | .sshlImm d a i => some (enc32 0x1B g d a i)
  | .sshlLit d a l => some (encLit 0x0D g (sreg d) a l)
  | .sshrN64 d a b => some (enc32 0x1C g d a b)
  | .sshrN64Imm d a i => some (enc32 0x1D g d a i)
  | .sshrN64Lit d a l => some (encLit 0x0E g (sreg d) a l)
  | .sshrI64 d a b => some (enc32 0x1E g d a b)
  | .sshrI64Imm d a i => some (enc32 0x1F g d a i)
  | .sshrI64Lit d a l => some (encLit 0x0F g (sreg d) a l)
  | .sminI64 d a b => some (enc32 0x20 g d a b)
  | .sminI64Imm d a i => some (enc32 0x21 g d a i)
  | .sminI64Lit d a l => some (encLit 0x10 g (sreg d) a l)
  | .sminN64 d a b => some (enc32 0x22 g d a b)
  | .sminN64Imm d a i => some (enc32 0x23 g d a i)
  | .sminN64Lit d a l => some (encLit 0x11 g (sreg d) a l)
  | .smaxI64 d a b => some (enc32 0x24 g d a b)
  | .smaxI64Imm d a i => some (enc32 0x25 g d a i)
  | .smaxI64Lit d a l => some (encLit 0x12 g (sreg d) a l)
  | .smaxN64 d a b => some (enc32 0x26 g d a b)
  | .smaxN64Imm d a i => some (enc32 0x27 g d a i)
  | .smaxN64Lit d a l => some (encLit 0x13 g (sreg d) a l)
  | .scmpI64 c p a b => some (enc32 0x28 g (condCode c ++ p) a b)
  | .scmpI64Imm c p a i => some (enc32 0x29 g (condCode c ++ p) a i)
  | .scmpI64Lit c p a l => some (encLit 0x14 g (0#2 ++ condCode c ++ p) a l)
  | .scmpN64 c p a b => some (enc32 0x2A g (condCode c ++ p) a b)
  | .scmpN64Imm c p a i => some (enc32 0x2B g (condCode c ++ p) a i)
  | .scmpN64Lit c p a l => some (encLit 0x15 g (0#2 ++ condCode c ++ p) a l)
  | .smov d a => some (enc32 0x2C g d a 0)
  | .smovImm d i => some (enc32 0x2D g d (i.extractLsb' 0 6) (i.extractLsb' 6 6))
  | .smovIndex d x => some (enc32 0x2E g d (indexCode x) 0)
  | .smovLit d l => some (encLit 0x16 g (sreg d) 0 l)
  | .sclz d a => some (enc32 0x2F g d a 0)
  | .sctz d a => some (enc32 0x2F g d a 1)
  | .spopc d a => some (enc32 0x2F g d a 2)
  | .sbrev d a => some (enc32 0x2F g d a 3)
  | .bra o => some (enc32 0x31 g (o.extractLsb' 0 6) (o.extractLsb' 6 6) (o.extractLsb' 12 6))
  | .call o => some (enc32 0x32 g (o.extractLsb' 0 6) (o.extractLsb' 6 6) (o.extractLsb' 12 6))
  | .jmp a => some (enc32 0x33 g 0 a 0)
  | .calli a => some (enc32 0x34 g 0 a 0)
  | .join o => some (enc32 0x35 g (o.extractLsb' 0 6) (o.extractLsb' 6 6) (o.extractLsb' 12 6))
  | .emrd d => some (enc32 0x36 g d 0 0)
  | .emwr a => some (enc32 0x37 g 0 a 0)
  | .emand p => some (enc32 0x38 g 0 (0#3 ++ p) 0)
  | .emandn p => some (enc32 0x39 g 0 (0#3 ++ p) 0)
  | .iadd t s d a b => some (enc64 0x40 0 g t 0 (mods 0 false false s 0) d a b)
  | .iaddLit t s d a l => some (enc96 0x40 0 g t 0 (mods 0 false false s 0) d a l)
  | .isub t s d a b => some (enc64 0x40 1 g t 0 (mods 0 false false s 0) d a b)
  | .isubLit t s d a l => some (enc96 0x40 1 g t 0 (mods 0 false false s 0) d a l)
  | .imul t d a b => some (enc64 0x40 0x2 g t 0 0 d a b)
  | .imulLit t d a l => some (enc96 0x40 0x2 g t 0 0 d a l)
  | .imulh t d a b => some (enc64 0x40 0x3 g t 0 0 d a b)
  | .imulhLit t d a l => some (enc96 0x40 0x3 g t 0 0 d a l)
  | .idiv t d a b => some (enc64 0x40 0x4 g t 0 0 d a b)
  | .idivLit t d a l => some (enc96 0x40 0x4 g t 0 0 d a l)
  | .irem t d a b => some (enc64 0x40 0x5 g t 0 0 d a b)
  | .iremLit t d a l => some (enc96 0x40 0x5 g t 0 0 d a l)
  | .imin t d a b => some (enc64 0x40 0x6 g t 0 0 d a b)
  | .iminLit t d a l => some (enc96 0x40 0x6 g t 0 0 d a l)
  | .imax t d a b => some (enc64 0x40 0x7 g t 0 0 d a b)
  | .imaxLit t d a l => some (enc96 0x40 0x7 g t 0 0 d a l)
  | .iabs t d a => some (enc64 0x40 0x8 g t 0 0 d a 0)
  | .ineg t d a => some (enc64 0x40 0x9 g t 0 0 d a 0)
  | .vAnd t d a b => some (enc64 0x40 0x0A g t 0 0 d a b)
  | .vAndLit t d a l => some (enc96 0x40 0x0A g t 0 0 d a l)
  | .vOr t d a b => some (enc64 0x40 0x0B g t 0 0 d a b)
  | .vOrLit t d a l => some (enc96 0x40 0x0B g t 0 0 d a l)
  | .vXor t d a b => some (enc64 0x40 0x0C g t 0 0 d a b)
  | .vXorLit t d a l => some (enc96 0x40 0x0C g t 0 0 d a l)
  | .vNot t d a => some (enc64 0x40 0x0D g t 0 0 d a 0)
  | .shl t d a b => some (enc64 0x40 0x0E g t 0 0 d a b)
  | .shlLit t d a l => some (enc96 0x40 0x0E g t 0 0 d a l)
  | .shr t d a b => some (enc64 0x40 0x0F g t 0 0 d a b)
  | .shrLit t d a l => some (enc96 0x40 0x0F g t 0 0 d a l)
  | .icmp t c p a b => some (enc64 0x40 0x10 g t 0 (mods 0 false false false (condCode c)) (preg p) a b)
  | .icmpLit t c p a l => some (enc96 0x40 0x10 g t 0 (mods 0 false false false (condCode c)) (preg p) a l)
  | .sel t p d a b => some (enc64 0x40 0x11 g t 0 (mods 0 false false false p) d a b)
  | .mov t d a => some (enc64 0x40 0x12 g t 0 0 d a 0)
  | .movLit t d l => some (enc96 0x40 0x12 g t 0 0 d 0 l)
  | .movLane d => some (enc64 0x40 0x12 g .b32 0 (mods 0 false true false 0) d 0 0)
  | .clz t d a => some (enc64 0x40 0x13 g t 0 0 d a 0)
  | .popc t d a => some (enc64 0x40 0x14 g t 0 0 d a 0)
  | .brev t d a => some (enc64 0x40 0x15 g t 0 0 d a 0)
  | .imad t d a b c => some (enc128 0x40 0x16 g t 0 0 d a b c 0 0 0)
  | .dot4 t s d a b c => some (enc128 0x40 0x17 g t 0 (mods 0 false false s 0) d a b c 0 0 0)
  | .fadd t n d a b => some (enc64 0x44 0 g t (rndCode n) 0 d a b)
  | .faddLit t n d a l => some (enc96 0x44 0 g t (rndCode n) 0 d a l)
  | .fsub t n d a b => some (enc64 0x44 1 g t (rndCode n) 0 d a b)
  | .fsubLit t n d a l => some (enc96 0x44 1 g t (rndCode n) 0 d a l)
  | .fmul t n d a b => some (enc64 0x44 2 g t (rndCode n) 0 d a b)
  | .fmulLit t n d a l => some (enc96 0x44 2 g t (rndCode n) 0 d a l)
  | .ffma t n d a b c => some (enc128 0x44 3 g t (rndCode n) 0 d a b c 0 0 0)
  | .fmin t d a b => some (enc64 0x44 4 g t 0 0 d a b)
  | .fminLit t d a l => some (enc96 0x44 4 g t 0 0 d a l)
  | .fmax t d a b => some (enc64 0x44 5 g t 0 0 d a b)
  | .fmaxLit t d a l => some (enc96 0x44 5 g t 0 0 d a l)
  | .fabs t d a => some (enc64 0x44 6 g t 0 0 d a 0)
  | .fneg t d a => some (enc64 0x44 7 g t 0 0 d a 0)
  | .fclass t d a => some (enc64 0x44 0x0A g t 0 0 d a 0)
  | .fsgn t d a b => some (enc64 0x44 8 g t 0 0 d a b)
  | .fcmp t c p a b => some (enc64 0x44 9 g t 0 (mods 0 false false false (condCode c)) (preg p) a b)
  | .fcmpLit t c p a l => some (enc96 0x44 9 g t 0 (mods 0 false false false (condCode c)) (preg p) a l)
  | .fexp2 d a => some (enc64 0x44 0x0B g .f32 0 0 d a 0)
  | .flog2 d a => some (enc64 0x44 0x0C g .f32 0 0 d a 0)
  | .frcp d a => some (enc64 0x44 0x0D g .f32 0 0 d a 0)
  | .frsq d a => some (enc64 0x44 0x0E g .f32 0 0 d a 0)
  | .fsin d a => some (enc64 0x44 0x0F g .f32 0 0 d a 0)
  | .fcos d a => some (enc64 0x44 0x10 g .f32 0 0 d a 0)
  | .xext d a => some (enc64 0x44 0x13 g .f32 0 0 d a 0)
  | .frnd t n d a => some (enc64 0x44 0x11 g t (rndCode n) 0 d a 0)
  | .xins n d a b => some (enc64 0x44 0x12 g .f32 (rndCode n) 0 d a b)
  | .xinsLit n d a l => some (enc96 0x44 0x12 g .f32 (rndCode n) 0 d a l)
  | .tadd t d a b => some (enc64 0x48 0 g t 0 0 d a b)
  | .taddLit t d a l => some (enc96 0x48 0 g t 0 0 d a l)
  | .tmul t d a b => some (enc64 0x48 1 g t 0 0 d a b)
  | .tmulLit t d a l => some (enc96 0x48 1 g t 0 0 d a l)
  | .tmin t d a b => some (enc64 0x48 4 g t 0 0 d a b)
  | .tminLit t d a l => some (enc96 0x48 4 g t 0 0 d a l)
  | .tmax t d a b => some (enc64 0x48 5 g t 0 0 d a b)
  | .tmaxLit t d a l => some (enc96 0x48 5 g t 0 0 d a l)
  | .tfma t d a b c => some (enc128 0x48 2 g t 0 0 d a b c 0 0 0)
  | .tcmp t c p a b => some (enc64 0x48 3 g t 0 (mods 0 false false false (condCode c)) (preg p) a b)
  | .tcmpLit t c p a l => some (enc96 0x48 3 g t 0 (mods 0 false false false (condCode c)) (preg p) a l)
  | .cvt n s td ts d a => some (encCvt 0 g n s td ts d a 0)
  | .cvtsr s td ts d a b => some (encCvt 1 g .rn s td ts d a b)
  | .pk2 n s td ts d a => some (encCvt 2 g n s td ts d a 0)
  | .pk4 n s td ts d a => some (encCvt 3 g n s td ts d a 0)
  | .pk8 n s td ts d a => some (encCvt 4 g n s td ts d a 0)
  | .upk2 n s td ts d a => some (encCvt 5 g n s td ts d a 0)
  | .upk4 n s td ts d a => some (encCvt 6 g n s td ts d a 0)
  | .upk8 n s td ts d a => some (encCvt 7 g n s td ts d a 0)
  | .shfl m d a b => some (enc64 0x4C 0 g .b32 0 (mods 0 false false false (0#1 ++ shflCode m)) d a b)
  | .shflLit m d a l => some (enc96 0x4C 0 g .b32 0 (mods 0 false false false (0#1 ++ shflCode m)) d a l)
  | .vote o d p => some (enc64 0x4C 1 g .none 0 (mods 0 false false false (0#1 ++ voteCode o)) d (preg p) 0)
  | .redl o t d a => some (enc64 0x4C 2 g t 0 (mods 0 false false false (redCode o)) d a 0)
  | .scan e o t d a => some (enc64 0x4C 3 g t 0 (mods 0 false false e (redCode o)) d a 0)
  | .bcast d a b => some (enc64 0x4C 4 g .b32 0 0 d a b)
  | .bcastLit d a l => some (enc96 0x4C 4 g .b32 0 0 d a l)
  | .lpart a => some (enc64 0x4C 5 g .none 0 0 0 (sreg a) 0)
  | .lpartLit l => some (enc96 0x4C 5 g .none 0 0 0 0 l)
  | .rhash d a s l => some (enc128 0x4E 0 g .b32 0 0 d a 0 0 s 0 l)
  | .ld q t d b => some (encMem 0 g t q false d b)
  | .ldOff q t d b o => some (encMemOff 0 g t q false d b o)
  | .st q t d b => some (encMem 1 g t q false d b)
  | .stOff q t d b o => some (encMemOff 1 g t q false d b o)
  | .ldt q k d b => some (encMem 2 g .b32 q k d b)
  | .ldtOff q k d b o => some (encMemOff 2 g .b32 q k d b o)
  | .stt q d b => some (encMem 3 g .b32 q false d b)
  | .sttOff q d b o => some (encMemOff 3 g .b32 q false d b o)
  | .tset q b => some (encMem 4 g .none q false 0 b)
  | .tsetOff q b o => some (encMemOff 4 g .none q false 0 b o)
  | .tclr q b => some (encMem 5 g .none q false 0 b)
  | .tclrOff q b o => some (encMemOff 5 g .none q false 0 b o)
  | .ttest q p b => some (encMem 6 g .none q false (preg p) b)
  | .ttestOff q p b o => some (encMemOff 6 g .none q false (preg p) b o)
  | .pf q b => some (encMem 7 g .none q false 0 b)
  | .pfOff q b o => some (encMemOff 7 g .none q false 0 b o)
  | .cwb b => some (encMem 8 g .none .none false 0 b)
  | .cwbOff b o => some (encMemOff 8 g .none .none false 0 b o)
  | .cinv b => some (encMem 9 g .none .none false 0 b)
  | .cinvOff b o => some (encMemOff 9 g .none .none false 0 b o)
  | .cflush b => some (encMem 0x0A g .none .none false 0 b)
  | .cflushOff b o => some (encMemOff 0x0A g .none .none false 0 b o)
  | .bmode n k => some (enc128 0x50 0x0B g .none 0 0 0 0 0 0 0 0 (0#22 ++ bankCode k ++ 0#2 ++ n))
  | .salloc d a => some (enc64 0x50 0x0C g .none 0 0 (sreg d) (sreg a) 0)
  | .sfree a => some (enc64 0x50 0x0D g .none 0 0 0 (sreg a) 0)
  | .aadd s t d b o c => some (encAtom 0 g t s 0 d b o c 0)
  | .amin s t d b o c => some (encAtom 1 g t s 0 d b o c 0)
  | .amax s t d b o c => some (encAtom 2 g t s 0 d b o c 0)
  | .aand s t d b o c => some (encAtom 3 g t s 0 d b o c 0)
  | .aor s t d b o c => some (encAtom 4 g t s 0 d b o c 0)
  | .axor s t d b o c => some (encAtom 5 g t s 0 d b o c 0)
  | .axchg s t d b o c => some (encAtom 6 g t s 0 d b o c 0)
  | .acas s t d b o c e => some (encAtom 7 g t s 0 d b o c (0#10 ++ e))
  | .ainc s t d b o => some (encAtom 8 g t s 0 d b o 0 0)
  | .red op s t b o c => some (encAtom 9 g t s (redCode op) 0 b o c 0)
  | .bacc s fd fs b o c x => some (enc128 0x5A 0 g fs 0 (mods 0 false false b.m3 (scopeCode s)) 0 b.va (sreg b.sb) c x (0#13 ++ tyCode fd) o)
  | .baccMem s fd fs b o x => some (enc128 0x5A 0 g fs 0 (mods 0 true false b.m3 (scopeCode s)) 0 b.va (sreg b.sb) 0 x (0#13 ++ tyCode fd) o)
  | .bld s f d x b o => some (enc128 0x5A 1 g f 0 (mods 0 false false b.m3 (scopeCode s)) d b.va (sreg b.sb) 0 x 0 o)
  | .bcvt td ts d a x => some (enc128 0x5A 2 g td 0 0 d a 0 0 x (0#13 ++ tyCode ts) 0)
  | .fence k s => some (enc64 0x5C 0 g .none 0 (0#7 ++ scopeCode s ++ fenceCode k) 0 0 0)
  | .barTeam => some (enc64 0x5C 1 g .none 0 0 0 0 0)
  | .barCluster => some (enc64 0x5C 1 g .none 0 1 0 0 0)
  | .barSpan => some (enc64 0x5C 1 g .none 0 2 0 0 0)
  | .barGrid => some (enc64 0x5C 1 g .none 0 3 0 0 0)
  | .bobjInit a e => some (enc64 0x5C 2 g .none 0 0 0 (sreg a) (sreg e))
  | .bobjExp a e => some (enc64 0x5C 3 g .none 0 0 0 (sreg a) (sreg e))
  | .bobjArr a e => some (enc64 0x5C 4 g .none 0 0 0 (sreg a) (sreg e))
  | .bobjWait a e => some (enc64 0x5C 5 g .none 0 0 0 (sreg a) (sreg e))
  | .mon a => some (enc64 0x5C 6 g .none 0 0 0 (sreg a) 0)
  | .mwait => some (enc64 0x5C 7 g .none 0 0 0 0 0)
  | .copyT e i d o => some (enc128 0x60 0 g .none 0 (0#11 ++ BitVec.ofBool e) (sreg i) (sreg d) (sreg o) 0 0 0 0)
  | .copyArm e i d o x => some (enc128 0x60 1 g .none 0 (0#11 ++ BitVec.ofBool e) (sreg i) (sreg d) (sreg o) 0 x 0 0)
  | .copyCancel p i => some (enc128 0x60 2 g .none 0 0 (preg p) (sreg i) 0 0 0 0 0)
  | .evpop d p => some (enc128 0x60 3 g .none 0 0 (sreg d) 0 0 (preg p) 0 0 0)
  | .mxcfg k a => some (encMx 0 g .none false k 0 (sreg a) 0 0)
  | .mxarm0 => some (encMx 1 g .none false 0 0 0 0 0)
  | .mxarm1 => some (encMx 1 g .none false 1 0 0 0 0)
  | .mxarm2 => some (encMx 1 g .none false 2 0 0 0 0)
  | .mxarm3 => some (encMx 1 g .none false 3 0 0 0 0)
  | .mxdisarm0 => some (encMx 2 g .none false 0 0 0 0 0)
  | .mxdisarm1 => some (encMx 2 g .none false 1 0 0 0 0)
  | .mxdisarm2 => some (encMx 2 g .none false 2 0 0 0 0)
  | .mxdisarm3 => some (encMx 2 g .none false 3 0 0 0 0)
  | .mma mx t k m n kk o => some (encMx 3 g t mx k (sreg m) (sreg n) (sreg kk) o)
  | .sacc k a b => some (encMx 4 g .none false k 0 (sreg a) (sreg b) 0)
  | .mxflg d k => some (encMx 5 g .none false k (sreg d) 0 0 0)
  | .mxspill k a => some (encMx 6 g .none false k 0 (sreg a) 0 0)
  | .crewEnter a n => some (enc128 0x64 0 g .none 0 0 0 (sreg a) 0 0 0 0 (0#26 ++ n))
  | .crewLeave => some (enc128 0x64 1 g .none 0 0 0 0 0 0 0 0 0)
  | .seatLd n a => some (enc128 0x64 2 g .none 0 0 0 (sreg a) 0 0 0 0 (0#27 ++ n))
  | .qdef q b n => some (enc128 0x64 3 g .none 0 0 (qreg q) b 0 0 0 0 (0#27 ++ n))
  | .qadvH q n => some (enc128 0x64 4 g .none 0 0 (qreg q) 0 0 0 0 0 (0#27 ++ n))
  | .qadvT q n => some (enc128 0x64 5 g .none 0 0 (qreg q) 0 0 0 0 0 (0#27 ++ n))
  | .qwait f q n => some (enc128 0x64 6 g .none 0 (0#11 ++ BitVec.ofBool f) (qreg q) 0 0 0 0 0 (0#27 ++ n))
  | .enq p b => some (enc128 0x70 0 g .none 0 0 (preg p) (sreg b) 0 0 0 0 0)
  | .role0 => some (enc128 0x70 1 g .none 0 0 0 0 0 0 0 0 0)
  | .role1 => some (enc128 0x70 1 g .none 0 0 0 0 0 0 0 0 1)
  | .role2 => some (enc128 0x70 1 g .none 0 0 0 0 0 0 0 0 2)
  | .role3 => some (enc128 0x70 1 g .none 0 0 0 0 0 0 0 0 3)
  | .yield => some (enc128 0x70 2 g .none 0 0 0 0 0 0 0 0 0)
  | .trap n => some (enc128 0x70 3 g .none 0 0 0 0 0 0 0 0 (0#16 ++ n))
  | .tret => some (enc128 0x70 4 g .none 0 0 0 0 0 0 0 0 0)
  | .srRd d n => some (enc128 0x70 5 g .none 0 0 (sreg d) 0 0 0 0 0 (0#20 ++ n))
  | .srWr n a => some (enc128 0x70 6 g .none 0 0 0 (sreg a) 0 0 0 0 (0#20 ++ n))
  | .genBump a => some (enc128 0x70 7 g .none 0 0 0 (sreg a) 0 0 0 0 0)
  | .ptpRd d => some (enc128 0x70 8 g .none 0 0 (sreg d) 0 0 0 0 0 0)
  | .bkpt n => some (enc128 0x70 9 g .none 0 0 0 0 0 0 0 0 (0#16 ++ n))
  | .halt => some (enc128 0x70 0x0A g .none 0 0 0 0 0 0 0 0 0)
  | .fenceTable => some (enc128 0x70 0x0B g .none 0 0 0 0 0 0 0 0 0)
  | .tagWaitServed | .fifoWaitServed | .bankSwitchComplete _ _ | .repechagePass _ | .baccAtHome _
  | .fenceComplete _ | .l1Invalidation _ _ | .barrierComplete _ | .mwaitTimeout _ | .mwaitSpuriousWake _
  | .enginePieceComplete _ _ | .copyComplete _ _ | .copyFault _ _ | .arraySelect _ | .firingResultsWritten _ _
  | .consumedEvent _ _ | .saccStart _ _ | .saccComplete _ _ | .crewDrained _ | .crewStroke _
  | .enqueueBufferWrite _ | .yieldTimeout _ | .clockStatusRead _ | .fifoConfigWrite _ _
  | .creditReturnWrite _ | .genBumpComplete _ | .issueSelect _ | .issueStarvation _ | .trapEntry _
  | .preemptionRequest _ _ | .graceExpiry _ | .gangSave _ _ | .groupRetire _ | .teamRetire _ _
  | .fifoItemArrival _ _ | .fifoCreditArrival _ _ | .fifoLinkBreak _ _ | .homeOwnAccess _ _ _ _ | .homeWtLoad _ _ _
  | .homeSiLoad _ _ _ | .homeUncLoad _ _ _ | .homeWrite _ | .homeEviction _ _ | .directoryEntryEviction _
  | .untrackedAccess _ _ _ _ | .directoryUncorrectable _ | .l2DataUncorrectable _ _ _ | .noRegionAccess _ _
  | .hostCacheableRead _ _ | .hostReadForOwnership _ _ _ _ | .hostNoncachingAccess _ _ _ _ | .hostAtomic _ _ _ _ _
  | .peerRequest _ _ _ _ _ | .doorbell _ _ | .queueEnWrite _ _ | .queueRst _ | .queueSnapshotRead _ | .padPkt _
  | .launchPkt _ | .configPkt _ | .bindPkt _ | .waitPkt _ | .waitReevaluate _ | .signalPkt _ | .timedPkt _
  | .stakeboatRelease _ | .timedStart _ | .partDefine _ | .partSet _ | .partReset _ | .partDissolve _ | .partPark _
  | .partResume _ | .partQreset _ | .placementRound _ | .umpireReport _ | .groupWatchdog _ | .replayPresent _
  | .clockStep _ | .grandmasterLockChange _ | .tableCommitGo | .tableCommitComplete | .mcconsWrite _
  | .registerWrite _ _ | .connReqUp _ | .connReqDown _ | .connFarEntry _ _ | .connFeather _ | .connDrainComplete _
  | .connErrcntRead _ | .errcntWindowExpiry _ | .reductionContribution _ _ _ _ | .reductionHoldExpiry _
  | .reductionWindowWrite _ _ | .deviceReset | .modulePowerCycle | .inputVoltageFault | .junctionTemperature _ _
  | .blobGo _ | .coxWatchdogExpiry | .fatalError _ | .powerUp | .replayedTransfer _ | .hostPortAcknowledgement _
  | .enginePieceWord _ _ | .coxGenBump _ | .coxGenBumpComplete _ | .peerAtomic _ _ _ _ _ _ | .softError _ _ _
  | .l2Correctable _ _ | .windowRead _ | .faultBufferRead _ | .connFarFeather _ | .firmwareWrite _ _ | .dumpComplete | .firingWord _ _
  | .saccWord _ _ | .peerBacc _ _ _ _ _ _ => none

/-- The bits of encoded fields. -/
def encBits : Enc → Bits128
  | .short r => pack32 r
  | .wide r => pack r

/-- The bytes of encoded fields (R21). -/
def encBytes : Enc → Nat
  | .short _ => 4
  | .wide r => lenBytes r.len

/-- The encoder: the bits of an instruction under a guard, where it has an encoding. -/
def encode (g : Guard) (i : Instr) : Option Bits128 := (toFields g i).map encBits

/-- The length in bytes of an encoded instruction (R21), 0 where it has no encoding. -/
def instrBytes (i : Instr) : Nat :=
  match toFields .always i with
  | some e => encBytes e
  | none => 0

end Sys2Proof
end

