-- ==== Sys2Proof/Machine/Conversion.lean ====
section
/-! DEFINITION. The tapered instructions (R257) and the conversions (R258 to R260). -/
namespace Sys2Proof.Machine

/-- `tadd` (R257). -/
def tapSum (t : Ty) (a b : Nat) : Nat × FlagSet := tapAdd t (decodeNum t a) (decodeNum t b)
/-- `tmul` (R257). -/
def tapProduct (t : Ty) (a b : Nat) : Nat × FlagSet := tapMul t (decodeNum t a) (decodeNum t b)
/-- `tfma` (R257). -/
def tapFused (t : Ty) (a b c : Nat) : Nat × FlagSet := tapFma t (decodeNum t a) (decodeNum t b) (decodeNum t c)
/-- The order of R200: patterns as signed integers. -/
def tapVal (t : Ty) (a : Nat) : Int := toSigned (tapN t) a
/-- `tmin` (R257). -/
def tapMin (t : Ty) (a b : Nat) : Nat × FlagSet := (if tapVal t a ≤ tapVal t b then a else b, 0)
/-- `tmax` (R257). -/
def tapMax (t : Ty) (a b : Nat) : Nat × FlagSet := (if tapVal t a ≤ tapVal t b then b else a, 0)
/-- `tcmp` (R257). -/
def tapCmp (t : Ty) (c : Cond) (a b : Nat) : Bool × FlagSet := (condInt c (tapVal t a) (tapVal t b), 0)

/-- TADD (R257). -/
def execTadd (ty : Ty) (d a b : VReg) (s : State) : Result := .next (vecBin 8 ty d a b (tapSum ty) s)
/-- TADD_LIT (R257). -/
def execTaddLit (ty : Ty) (d a : VReg) (lit : BitVec 32) (s : State) : Result := .next (vecLit ty d a lit (tapSum ty) s)
/-- TMUL (R257). -/
def execTmul (ty : Ty) (d a b : VReg) (s : State) : Result := .next (vecBin 8 ty d a b (tapProduct ty) s)
/-- TMUL_LIT (R257). -/
def execTmulLit (ty : Ty) (d a : VReg) (lit : BitVec 32) (s : State) : Result := .next (vecLit ty d a lit (tapProduct ty) s)
/-- TMIN (R257). -/
def execTmin (ty : Ty) (d a b : VReg) (s : State) : Result := .next (vecBin 8 ty d a b (tapMin ty) s)
/-- TMIN_LIT (R257). -/
def execTminLit (ty : Ty) (d a : VReg) (lit : BitVec 32) (s : State) : Result := .next (vecLit ty d a lit (tapMin ty) s)
/-- TMAX (R257). -/
def execTmax (ty : Ty) (d a b : VReg) (s : State) : Result := .next (vecBin 8 ty d a b (tapMax ty) s)
/-- TMAX_LIT (R257). -/
def execTmaxLit (ty : Ty) (d a : VReg) (lit : BitVec 32) (s : State) : Result := .next (vecLit ty d a lit (tapMax ty) s)
/-- TFMA (R257). -/
def execTfma (ty : Ty) (d a b c : VReg) (s : State) : Result := .next (vecTri ty d a b c (tapFused ty) s)
/-- TCMP (R257). -/
def execTcmp (ty : Ty) (cd : Cond) (p : PReg) (a b : VReg) (s : State) : Result := .next (vecCmp ty p a b (tapCmp ty cd) s)
/-- TCMP_LIT (R257). -/
def execTcmpLit (ty : Ty) (cd : Cond) (p : PReg) (a : VReg) (lit : BitVec 32) (s : State) : Result :=
  .next (vecCmpLit ty p a lit (tapCmp ty cd) s)
/-- CVT (R258). -/
def execCvt (rnd : Rnd) (sat : Bool) (td ts : Ty) (d a : VReg) (s : State) : Result :=
  .next (vecUn 8 td ts d a (convertNum td ts rnd sat) s)
/-- CVTSR (R259). -/
def execCvtsr (sat : Bool) (td ts : Ty) (d a b : VReg) (s : State) : Result :=
  .next (vectorOp 8 (regsOf td d ++ regsOf ts a ++ [b.toNat]) (regsOf td d)
    (fun i l => wordOf (convertSr td ts sat (laneVal s ts a l) (getV s b.toNat l).toNat).1 i)
    (fun l => (convertSr td ts sat (laneVal s ts a l) (getV s b.toNat l).toNat).2) s)

/-- The k registers from r on. -/
def regRange (k : Nat) (r : VReg) : List Nat := (List.range k).map (fun i => r.toNat + i)

/-- Element i of `pkK` in lane l (R260): the conversion of register A + i. -/
def packElem (td ts : Ty) (rnd : Rnd) (sat : Bool) (a : VReg) (s : State) (l i : Nat) : Nat × FlagSet :=
  convert td ts rnd sat ((getV s (a.toNat + i) l).toNat % 2 ^ tyBits ts)

/-- `pkK` (R260): element i at bits [w i + w - 1 : w i], the bits above zero. -/
def packOp (k : Nat) (rnd : Rnd) (sat : Bool) (td ts : Ty) (d a : VReg) (s : State) : State :=
  vectorOp 8 (d.toNat :: regRange k a) [d.toNat]
    (fun _ l => BitVec.ofNat 32 ((List.range k).foldl (fun v i =>
      v + (packElem td ts rnd sat a s l i).1 % 2 ^ tyBits td * 2 ^ (tyBits td * i)) 0))
    (fun l => (List.range k).foldl (fun f i => f ||| (packElem td ts rnd sat a s l i).2) 0) s

/-- Element i of `upkK` in lane l (R260): the conversion of element i of register A. -/
def unpackElem (td ts : Ty) (rnd : Rnd) (sat : Bool) (a : VReg) (s : State) (l i : Nat) : Nat × FlagSet :=
  convert td ts rnd sat ((getV s a.toNat l).toNat / 2 ^ (tyBits ts * i) % 2 ^ tyBits ts)

/-- `upkK` (R260). -/
def unpackOp (k : Nat) (rnd : Rnd) (sat : Bool) (td ts : Ty) (d a : VReg) (s : State) : State :=
  vectorOp 8 (regRange k d ++ [a.toNat]) (regRange k d)
    (fun i l => BitVec.ofNat 32 (unpackElem td ts rnd sat a s l i).1)
    (fun l => (List.range k).foldl (fun f i => f ||| (unpackElem td ts rnd sat a s l i).2) 0) s

/-- PK2 (R260). -/
def execPk2 (rnd : Rnd) (sat : Bool) (td ts : Ty) (d a : VReg) (s : State) : Result := .next (packOp 2 rnd sat td ts d a s)
/-- PK4 (R260). -/
def execPk4 (rnd : Rnd) (sat : Bool) (td ts : Ty) (d a : VReg) (s : State) : Result := .next (packOp 4 rnd sat td ts d a s)
/-- PK8 (R260). -/
def execPk8 (rnd : Rnd) (sat : Bool) (td ts : Ty) (d a : VReg) (s : State) : Result := .next (packOp 8 rnd sat td ts d a s)
/-- UPK2 (R260). -/
def execUpk2 (rnd : Rnd) (sat : Bool) (td ts : Ty) (d a : VReg) (s : State) : Result := .next (unpackOp 2 rnd sat td ts d a s)
/-- UPK4 (R260). -/
def execUpk4 (rnd : Rnd) (sat : Bool) (td ts : Ty) (d a : VReg) (s : State) : Result := .next (unpackOp 4 rnd sat td ts d a s)
/-- UPK8 (R260). -/
def execUpk8 (rnd : Rnd) (sat : Bool) (td ts : Ty) (d a : VReg) (s : State) : Result := .next (unpackOp 8 rnd sat td ts d a s)

end Sys2Proof.Machine
end

