-- ==== Sys2Proof/Machine/Scalar.lean ====
section
/-! DEFINITION. The scalar instructions (R239 to R243). -/
namespace Sys2Proof.Machine

/-- Bits [127:64] of the signed product (R240). -/
def mulhS (a b : Word) : Word := BitVec.ofInt 64 ((a.toInt * b.toInt) / 2 ^ 64)
/-- Bits [127:64] of the unsigned product (R240). -/
def mulhU (a b : Word) : Word := BitVec.ofNat 64 ((a.toNat * b.toNat) / 2 ^ 64)
/-- Signed quotient, truncated toward zero (R241). -/
def divS (a b : Word) : Word := if b = 0 then BitVec.allOnes 64 else BitVec.ofInt 64 (Int.tdiv a.toInt b.toInt)
/-- Unsigned quotient (R241). -/
def divU (a b : Word) : Word := if b = 0 then BitVec.allOnes 64 else BitVec.ofNat 64 (a.toNat / b.toNat)
/-- Signed remainder, with the sign of the dividend (R241). -/
def remS (a b : Word) : Word := if b = 0 then a else BitVec.ofInt 64 (Int.tmod a.toInt b.toInt)
/-- Unsigned remainder (R241). -/
def remU (a b : Word) : Word := if b = 0 then a else BitVec.ofNat 64 (a.toNat % b.toNat)
/-- Flags of a signed division: IDZ, or IOV for the least value by -1 (R241). -/
def divFlagsS (a b : Word) : FlagSet :=
  if b = 0 then fIDZ else flagIf (a == BitVec.intMin 64 && b == BitVec.allOnes 64) fIOV
/-- Flags of an unsigned division (R241). -/
def divFlagsU (b : Word) : FlagSet := flagIf (b == 0) fIDZ
/-- A shift count modulo 64 (R240). -/
def shiftCount (b : Word) : Nat := b.toNat % 64
/-- Lesser, signed. -/
def minS (a b : Word) : Word := if a.toInt ≤ b.toInt then a else b
/-- Lesser, unsigned. -/
def minU (a b : Word) : Word := if a.toNat ≤ b.toNat then a else b
/-- Greater, signed. -/
def maxS (a b : Word) : Word := if a.toInt ≤ b.toInt then b else a
/-- Greater, unsigned. -/
def maxU (a b : Word) : Word := if a.toNat ≤ b.toNat then b else a
/-- a C b, signed (R242). -/
def condS (c : Cond) (a b : Word) : Bool := condInt c a.toInt b.toInt
/-- a C b, unsigned (R242). -/
def condU (c : Cond) (a b : Word) : Bool := condInt c a.toNat b.toNat
/-- Count of the zeros above the highest one of the low w bits (w for 0). -/
def leadZeros (w : Nat) (v : Nat) : Nat := if v = 0 then w else w - 1 - v.log2
/-- Count of the zeros below the lowest one, with fuel (the fuel for 0). -/
def trailZeros : Nat → Nat → Nat
  | 0, _ => 0
  | w + 1, v => if v % 2 = 1 then 0 else trailZeros w (v / 2) + 1
/-- Count of ones in the low w bits. -/
def onesIn (w v : Nat) : Nat := (List.range w).foldl (fun n i => n + v / 2 ^ i % 2) 0
/-- The low w bits reversed. -/
def reverseBits (w v : Nat) : Nat := (List.range w).foldl (fun n i => n * 2 + v / 2 ^ i % 2) 0
/-- The value of an index or count register that `smov` reads (R221, R243). -/
def indexValue (g : Group) : IndexReg → Nat
  | .group => g.idx.group | .team => g.idx.team | .cluster => g.idx.cluster | .span => g.idx.span
  | .grid => g.idx.grid | .nlane => 32 | .ngroup => g.idx.ngroup | .nteam => g.idx.nteam
  | .ncluster => g.idx.ncluster | .nspan => g.idx.nspan

/-- SADD (R240). -/
def execSadd (d a b : SReg) (s : State) : Result :=
  .next (scalarOp 4 d ((getS s a) + (getS s b)) 0 s)
/-- SADD_IMM (R240). -/
def execSaddImm (d a : SReg) (i : BitVec 6) (s : State) : Result :=
  .next (scalarOp 4 d ((getS s a) + (imm6 i)) 0 s)
/-- SADD_LIT (R42). -/
def execSaddLit (d a : SReg) (lit : BitVec 32) (s : State) : Result :=
  .next (scalarOp 12 d ((getS s a) + (simm lit)) 0 s)
/-- SSUB (R240). -/
def execSsub (d a b : SReg) (s : State) : Result :=
  .next (scalarOp 4 d ((getS s a) - (getS s b)) 0 s)
/-- SSUB_IMM (R240). -/
def execSsubImm (d a : SReg) (i : BitVec 6) (s : State) : Result :=
  .next (scalarOp 4 d ((getS s a) - (imm6 i)) 0 s)
/-- SSUB_LIT (R42). -/
def execSsubLit (d a : SReg) (lit : BitVec 32) (s : State) : Result :=
  .next (scalarOp 12 d ((getS s a) - (simm lit)) 0 s)
/-- SMUL (R240). -/
def execSmul (d a b : SReg) (s : State) : Result :=
  .next (scalarOp 4 d ((getS s a) * (getS s b)) 0 s)
/-- SMUL_IMM (R240). -/
def execSmulImm (d a : SReg) (i : BitVec 6) (s : State) : Result :=
  .next (scalarOp 4 d ((getS s a) * (imm6 i)) 0 s)
/-- SMUL_LIT (R42). -/
def execSmulLit (d a : SReg) (lit : BitVec 32) (s : State) : Result :=
  .next (scalarOp 12 d ((getS s a) * (simm lit)) 0 s)
/-- SMULH_I64 (R240). -/
def execSmulhI64 (d a b : SReg) (s : State) : Result :=
  .next (scalarOp 4 d (mulhS (getS s a) (getS s b)) 0 s)
/-- SMULH_I64_IMM (R240). -/
def execSmulhI64Imm (d a : SReg) (i : BitVec 6) (s : State) : Result :=
  .next (scalarOp 4 d (mulhS (getS s a) (imm6 i)) 0 s)
/-- SMULH_I64_LIT (R42). -/
def execSmulhI64Lit (d a : SReg) (lit : BitVec 32) (s : State) : Result :=
  .next (scalarOp 12 d (mulhS (getS s a) (simm lit)) 0 s)
/-- SMULH_N64 (R240). -/
def execSmulhN64 (d a b : SReg) (s : State) : Result :=
  .next (scalarOp 4 d (mulhU (getS s a) (getS s b)) 0 s)
/-- SMULH_N64_IMM (R240). -/
def execSmulhN64Imm (d a : SReg) (i : BitVec 6) (s : State) : Result :=
  .next (scalarOp 4 d (mulhU (getS s a) (imm6 i)) 0 s)
/-- SMULH_N64_LIT (R42). -/
def execSmulhN64Lit (d a : SReg) (lit : BitVec 32) (s : State) : Result :=
  .next (scalarOp 12 d (mulhU (getS s a) (simm lit)) 0 s)
/-- SDIV_I64 (R241). -/
def execSdivI64 (d a b : SReg) (s : State) : Result :=
  .next (scalarOp 4 d (divS (getS s a) (getS s b)) (divFlagsS (getS s a) (getS s b)) s)
/-- SDIV_I64_IMM (R241). -/
def execSdivI64Imm (d a : SReg) (i : BitVec 6) (s : State) : Result :=
  .next (scalarOp 4 d (divS (getS s a) (imm6 i)) (divFlagsS (getS s a) (imm6 i)) s)
/-- SDIV_I64_LIT (R241). -/
def execSdivI64Lit (d a : SReg) (lit : BitVec 32) (s : State) : Result :=
  .next (scalarOp 12 d (divS (getS s a) (simm lit)) (divFlagsS (getS s a) (simm lit)) s)
/-- SDIV_N64 (R241). -/
def execSdivN64 (d a b : SReg) (s : State) : Result :=
  .next (scalarOp 4 d (divU (getS s a) (getS s b)) (divFlagsU (getS s b)) s)
/-- SDIV_N64_IMM (R241). -/
def execSdivN64Imm (d a : SReg) (i : BitVec 6) (s : State) : Result :=
  .next (scalarOp 4 d (divU (getS s a) (imm6 i)) (divFlagsU (imm6 i)) s)
/-- SDIV_N64_LIT (R241). -/
def execSdivN64Lit (d a : SReg) (lit : BitVec 32) (s : State) : Result :=
  .next (scalarOp 12 d (divU (getS s a) (simm lit)) (divFlagsU (simm lit)) s)
/-- SREM_I64 (R241). -/
def execSremI64 (d a b : SReg) (s : State) : Result :=
  .next (scalarOp 4 d (remS (getS s a) (getS s b)) (divFlagsS (getS s a) (getS s b)) s)
/-- SREM_I64_IMM (R241). -/
def execSremI64Imm (d a : SReg) (i : BitVec 6) (s : State) : Result :=
  .next (scalarOp 4 d (remS (getS s a) (imm6 i)) (divFlagsS (getS s a) (imm6 i)) s)
/-- SREM_I64_LIT (R241). -/
def execSremI64Lit (d a : SReg) (lit : BitVec 32) (s : State) : Result :=
  .next (scalarOp 12 d (remS (getS s a) (simm lit)) (divFlagsS (getS s a) (simm lit)) s)
/-- SREM_N64 (R241). -/
def execSremN64 (d a b : SReg) (s : State) : Result :=
  .next (scalarOp 4 d (remU (getS s a) (getS s b)) (divFlagsU (getS s b)) s)
/-- SREM_N64_IMM (R241). -/
def execSremN64Imm (d a : SReg) (i : BitVec 6) (s : State) : Result :=
  .next (scalarOp 4 d (remU (getS s a) (imm6 i)) (divFlagsU (imm6 i)) s)
/-- SREM_N64_LIT (R241). -/
def execSremN64Lit (d a : SReg) (lit : BitVec 32) (s : State) : Result :=
  .next (scalarOp 12 d (remU (getS s a) (simm lit)) (divFlagsU (simm lit)) s)
/-- SAND (R240). -/
def execSand (d a b : SReg) (s : State) : Result :=
  .next (scalarOp 4 d ((getS s a) &&& (getS s b)) 0 s)
/-- SAND_IMM (R240). -/
def execSandImm (d a : SReg) (i : BitVec 6) (s : State) : Result :=
  .next (scalarOp 4 d ((getS s a) &&& (imm6 i)) 0 s)
/-- SAND_LIT (R42). -/
def execSandLit (d a : SReg) (lit : BitVec 32) (s : State) : Result :=
  .next (scalarOp 12 d ((getS s a) &&& (simm lit)) 0 s)
/-- SOR (R240). -/
def execSor (d a b : SReg) (s : State) : Result :=
  .next (scalarOp 4 d ((getS s a) ||| (getS s b)) 0 s)
/-- SOR_IMM (R240). -/
def execSorImm (d a : SReg) (i : BitVec 6) (s : State) : Result :=
  .next (scalarOp 4 d ((getS s a) ||| (imm6 i)) 0 s)
/-- SOR_LIT (R42). -/
def execSorLit (d a : SReg) (lit : BitVec 32) (s : State) : Result :=
  .next (scalarOp 12 d ((getS s a) ||| (simm lit)) 0 s)
/-- SXOR (R240). -/
def execSxor (d a b : SReg) (s : State) : Result :=
  .next (scalarOp 4 d ((getS s a) ^^^ (getS s b)) 0 s)
/-- SXOR_IMM (R240). -/
def execSxorImm (d a : SReg) (i : BitVec 6) (s : State) : Result :=
  .next (scalarOp 4 d ((getS s a) ^^^ (imm6 i)) 0 s)
/-- SXOR_LIT (R42). -/
def execSxorLit (d a : SReg) (lit : BitVec 32) (s : State) : Result :=
  .next (scalarOp 12 d ((getS s a) ^^^ (simm lit)) 0 s)
/-- SSHL (R240). -/
def execSshl (d a b : SReg) (s : State) : Result :=
  .next (scalarOp 4 d ((getS s a) <<< shiftCount (getS s b)) 0 s)
/-- SSHL_IMM (R240). -/
def execSshlImm (d a : SReg) (i : BitVec 6) (s : State) : Result :=
  .next (scalarOp 4 d ((getS s a) <<< shiftCount (imm6u i)) 0 s)
/-- SSHL_LIT (R42). -/
def execSshlLit (d a : SReg) (lit : BitVec 32) (s : State) : Result :=
  .next (scalarOp 12 d ((getS s a) <<< shiftCount (simm lit)) 0 s)
/-- SSHR_N64 (R240). -/
def execSshrN64 (d a b : SReg) (s : State) : Result :=
  .next (scalarOp 4 d ((getS s a) >>> shiftCount (getS s b)) 0 s)
/-- SSHR_N64_IMM (R240). -/
def execSshrN64Imm (d a : SReg) (i : BitVec 6) (s : State) : Result :=
  .next (scalarOp 4 d ((getS s a) >>> shiftCount (imm6u i)) 0 s)
/-- SSHR_N64_LIT (R42). -/
def execSshrN64Lit (d a : SReg) (lit : BitVec 32) (s : State) : Result :=
  .next (scalarOp 12 d ((getS s a) >>> shiftCount (simm lit)) 0 s)
/-- SSHR_I64 (R240). -/
def execSshrI64 (d a b : SReg) (s : State) : Result :=
  .next (scalarOp 4 d ((getS s a).sshiftRight (shiftCount (getS s b))) 0 s)
/-- SSHR_I64_IMM (R240). -/
def execSshrI64Imm (d a : SReg) (i : BitVec 6) (s : State) : Result :=
  .next (scalarOp 4 d ((getS s a).sshiftRight (shiftCount (imm6u i))) 0 s)
/-- SSHR_I64_LIT (R42). -/
def execSshrI64Lit (d a : SReg) (lit : BitVec 32) (s : State) : Result :=
  .next (scalarOp 12 d ((getS s a).sshiftRight (shiftCount (simm lit))) 0 s)
/-- SMIN_I64 (R240). -/
def execSminI64 (d a b : SReg) (s : State) : Result :=
  .next (scalarOp 4 d (minS (getS s a) (getS s b)) 0 s)
/-- SMIN_I64_IMM (R240). -/
def execSminI64Imm (d a : SReg) (i : BitVec 6) (s : State) : Result :=
  .next (scalarOp 4 d (minS (getS s a) (imm6 i)) 0 s)
/-- SMIN_I64_LIT (R42). -/
def execSminI64Lit (d a : SReg) (lit : BitVec 32) (s : State) : Result :=
  .next (scalarOp 12 d (minS (getS s a) (simm lit)) 0 s)
/-- SMIN_N64 (R240). -/
def execSminN64 (d a b : SReg) (s : State) : Result :=
  .next (scalarOp 4 d (minU (getS s a) (getS s b)) 0 s)
/-- SMIN_N64_IMM (R240). -/
def execSminN64Imm (d a : SReg) (i : BitVec 6) (s : State) : Result :=
  .next (scalarOp 4 d (minU (getS s a) (imm6 i)) 0 s)
/-- SMIN_N64_LIT (R42). -/
def execSminN64Lit (d a : SReg) (lit : BitVec 32) (s : State) : Result :=
  .next (scalarOp 12 d (minU (getS s a) (simm lit)) 0 s)
/-- SMAX_I64 (R240). -/
def execSmaxI64 (d a b : SReg) (s : State) : Result :=
  .next (scalarOp 4 d (maxS (getS s a) (getS s b)) 0 s)
/-- SMAX_I64_IMM (R240). -/
def execSmaxI64Imm (d a : SReg) (i : BitVec 6) (s : State) : Result :=
  .next (scalarOp 4 d (maxS (getS s a) (imm6 i)) 0 s)
/-- SMAX_I64_LIT (R42). -/
def execSmaxI64Lit (d a : SReg) (lit : BitVec 32) (s : State) : Result :=
  .next (scalarOp 12 d (maxS (getS s a) (simm lit)) 0 s)
/-- SMAX_N64 (R240). -/
def execSmaxN64 (d a b : SReg) (s : State) : Result :=
  .next (scalarOp 4 d (maxU (getS s a) (getS s b)) 0 s)
/-- SMAX_N64_IMM (R240). -/
def execSmaxN64Imm (d a : SReg) (i : BitVec 6) (s : State) : Result :=
  .next (scalarOp 4 d (maxU (getS s a) (imm6 i)) 0 s)
/-- SMAX_N64_LIT (R42). -/
def execSmaxN64Lit (d a : SReg) (lit : BitVec 32) (s : State) : Result :=
  .next (scalarOp 12 d (maxU (getS s a) (simm lit)) 0 s)
/-- SCMP_I64 (R242). -/
def execScmpI64 (cd : Cond) (p : PReg) (a b : SReg) (s : State) : Result :=
  .next (scalarCmp 4 p (condS cd (getS s a) (getS s b)) s)
/-- SCMP_I64_IMM (R242). -/
def execScmpI64Imm (cd : Cond) (p : PReg) (a : SReg) (i : BitVec 6) (s : State) : Result :=
  .next (scalarCmp 4 p (condS cd (getS s a) (imm6 i)) s)
/-- SCMP_I64_LIT (R242). -/
def execScmpI64Lit (cd : Cond) (p : PReg) (a : SReg) (lit : BitVec 32) (s : State) : Result :=
  .next (scalarCmp 12 p (condS cd (getS s a) (simm lit)) s)
/-- SCMP_N64 (R242). -/
def execScmpN64 (cd : Cond) (p : PReg) (a b : SReg) (s : State) : Result :=
  .next (scalarCmp 4 p (condU cd (getS s a) (getS s b)) s)
/-- SCMP_N64_IMM (R242). -/
def execScmpN64Imm (cd : Cond) (p : PReg) (a : SReg) (i : BitVec 6) (s : State) : Result :=
  .next (scalarCmp 4 p (condU cd (getS s a) (imm6 i)) s)
/-- SCMP_N64_LIT (R242). -/
def execScmpN64Lit (cd : Cond) (p : PReg) (a : SReg) (lit : BitVec 32) (s : State) : Result :=
  .next (scalarCmp 12 p (condU cd (getS s a) (simm lit)) s)
/-- SMOV (R243). -/
def execSmov (d a : SReg) (s : State) : Result :=
  .next (scalarOp 4 d (getS s a) 0 s)
/-- SMOV_IMM (R243). -/
def execSmovImm (d : SReg) (i : BitVec 12) (s : State) : Result :=
  .next (scalarOp 4 d (i.signExtend 64) 0 s)
/-- SMOV_INDEX (R243). -/
def execSmovIndex (d : SReg) (x : IndexReg) (s : State) : Result :=
  .next (scalarOp 4 d (BitVec.ofNat 64 (indexValue s.cur x)) 0 s)
/-- SMOV_LIT (R243). -/
def execSmovLit (d : SReg) (lit : BitVec 32) (s : State) : Result :=
  .next (scalarOp 12 d (simm lit) 0 s)
/-- SCLZ (R243). -/
def execSclz (d a : SReg) (s : State) : Result :=
  .next (scalarOp 4 d (BitVec.ofNat 64 (leadZeros 64 (getS s a).toNat)) 0 s)
/-- SCTZ (R243). -/
def execSctz (d a : SReg) (s : State) : Result :=
  .next (scalarOp 4 d (BitVec.ofNat 64 (trailZeros 64 (getS s a).toNat)) 0 s)
/-- SPOPC (R243). -/
def execSpopc (d a : SReg) (s : State) : Result :=
  .next (scalarOp 4 d (BitVec.ofNat 64 (onesIn 64 (getS s a).toNat)) 0 s)
/-- SBREV (R243). -/
def execSbrev (d a : SReg) (s : State) : Result :=
  .next (scalarOp 4 d (BitVec.ofNat 64 (reverseBits 64 (getS s a).toNat)) 0 s)

end Sys2Proof.Machine
end

