-- ==== Sys2Proof/Machine/VectorInt.lean ====
section
/-! DEFINITION. The vector integer instructions (R244 to R248). -/
namespace Sys2Proof.Machine

/-- An exact result modulo 2^w, or clamped under `.sat` with IOV where clamping changed it (R245). -/
def wrapOrClamp (t : Ty) (sat : Bool) (v : Int) : Nat × FlagSet :=
  if sat then (toPattern (tyBits t) (clampInt t v), flagIf (clampInt t v != v) fIOV) else (toPattern (tyBits t) v, 0)
/-- `iadd` (R245). -/
def intAdd (t : Ty) (sat : Bool) (a b : Nat) : Nat × FlagSet := wrapOrClamp t sat (intOf t a + intOf t b)
/-- `isub` (R245). -/
def intSub (t : Ty) (sat : Bool) (a b : Nat) : Nat × FlagSet := wrapOrClamp t sat (intOf t a - intOf t b)
/-- `imul` (R245). -/
def intMul (t : Ty) (a b : Nat) : Nat × FlagSet := (a * b % 2 ^ tyBits t, 0)
/-- `imulh` (R245): bits [2w-1:w] of the exact product. -/
def intMulh (t : Ty) (a b : Nat) : Nat × FlagSet :=
  (toPattern (tyBits t) (intOf t a * intOf t b / (2 ^ tyBits t : Nat)), 0)
/-- The operands of the overflow of a signed division (R246). -/
def divOver (t : Ty) (a b : Nat) : Bool := tyIsSigned t && a == 2 ^ (tyBits t - 1) && b == 2 ^ tyBits t - 1
/-- Flags of a division (R246). -/
def divFlags (t : Ty) (a b : Nat) : FlagSet := if b = 0 then fIDZ else flagIf (divOver t a b) fIOV
/-- `idiv` (R246). -/
def intDiv (t : Ty) (a b : Nat) : Nat × FlagSet :=
  (if b = 0 then 2 ^ tyBits t - 1 else toPattern (tyBits t) (Int.tdiv (intOf t a) (intOf t b)), divFlags t a b)
/-- `irem` (R246). -/
def intRem (t : Ty) (a b : Nat) : Nat × FlagSet :=
  (if b = 0 then a else toPattern (tyBits t) (Int.tmod (intOf t a) (intOf t b)), divFlags t a b)
/-- `imin` (R245). -/
def intMinOf (t : Ty) (a b : Nat) : Nat × FlagSet := (if intOf t a ≤ intOf t b then a else b, 0)
/-- `imax` (R245). -/
def intMaxOf (t : Ty) (a b : Nat) : Nat × FlagSet := (if intOf t a ≤ intOf t b then b else a, 0)
/-- `ineg` (R245): IOV at the least value. -/
def intNeg (t : Ty) (a : Nat) : Nat × FlagSet :=
  (toPattern (tyBits t) (-(intOf t a)), flagIf (a == 2 ^ (tyBits t - 1)) fIOV)
/-- `iabs` (R245): IOV at the least value. -/
def intAbs (t : Ty) (a : Nat) : Nat × FlagSet :=
  (toPattern (tyBits t) (intOf t a).natAbs, flagIf (a == 2 ^ (tyBits t - 1)) fIOV)
/-- `and` (R245). -/
def bitAnd (a b : Nat) : Nat × FlagSet := (a &&& b, 0)
/-- `or` (R245). -/
def bitOr (a b : Nat) : Nat × FlagSet := (a ||| b, 0)
/-- `xor` (R245). -/
def bitXor (a b : Nat) : Nat × FlagSet := (a ^^^ b, 0)
/-- `not` (R245). -/
def bitNot (t : Ty) (a : Nat) : Nat × FlagSet := (2 ^ tyBits t - 1 - a, 0)
/-- `shl` (R245). -/
def shiftLeft (t : Ty) (a b : Nat) : Nat × FlagSet := (a * 2 ^ (b % tyBits t) % 2 ^ tyBits t, 0)
/-- `shr` (R245): logical for `.n`, arithmetic for `.i`. -/
def shiftRight (t : Ty) (a b : Nat) : Nat × FlagSet :=
  (toPattern (tyBits t) (intOf t a / (2 ^ (b % tyBits t) : Nat)), 0)
/-- `icmp` (R247). -/
def intCmp (t : Ty) (c : Cond) (a b : Nat) : Bool × FlagSet := (condInt c (intOf t a) (intOf t b), 0)
/-- `imad` (R245). -/
def intMad (t : Ty) (a b c : Nat) : Nat × FlagSet := ((a * b + c) % 2 ^ tyBits t, 0)
/-- Byte j of a pattern, read as `.i8` or `.n8`. -/
def byteElem (t : Ty) (v j : Nat) : Int := intOf t (v / 2 ^ (8 * j) % 256)
/-- `dot4` (R248): four byte products added to a 32-bit accumulator of the same signedness. -/
def dotFour (t : Ty) (sat : Bool) (a b c : Nat) : Nat × FlagSet :=
  let acc : Ty := if t == .i8 then .i32 else .n32
  wrapOrClamp acc sat ((List.range 4).foldl (fun v j => v + byteElem t a j * byteElem t b j) (intOf acc c))

/-- IADD (R245). -/
def execIadd (ty : Ty) (sat : Bool) (d a b : VReg) (s : State) : Result := .next (vecBin 8 ty d a b (intAdd ty sat) s)
/-- IADD_LIT (R245). -/
def execIaddLit (ty : Ty) (sat : Bool) (d a : VReg) (lit : BitVec 32) (s : State) : Result := .next (vecLit ty d a lit (intAdd ty sat) s)
/-- ISUB (R245). -/
def execIsub (ty : Ty) (sat : Bool) (d a b : VReg) (s : State) : Result := .next (vecBin 8 ty d a b (intSub ty sat) s)
/-- ISUB_LIT (R245). -/
def execIsubLit (ty : Ty) (sat : Bool) (d a : VReg) (lit : BitVec 32) (s : State) : Result := .next (vecLit ty d a lit (intSub ty sat) s)
/-- IMUL (R245). -/
def execImul (ty : Ty) (d a b : VReg) (s : State) : Result := .next (vecBin 8 ty d a b (intMul ty) s)
/-- IMUL_LIT (R245). -/
def execImulLit (ty : Ty) (d a : VReg) (lit : BitVec 32) (s : State) : Result := .next (vecLit ty d a lit (intMul ty) s)
/-- IMULH (R245). -/
def execImulh (ty : Ty) (d a b : VReg) (s : State) : Result := .next (vecBin 8 ty d a b (intMulh ty) s)
/-- IMULH_LIT (R245). -/
def execImulhLit (ty : Ty) (d a : VReg) (lit : BitVec 32) (s : State) : Result := .next (vecLit ty d a lit (intMulh ty) s)
/-- IDIV (R246). -/
def execIdiv (ty : Ty) (d a b : VReg) (s : State) : Result := .next (vecBin 8 ty d a b (intDiv ty) s)
/-- IDIV_LIT (R246). -/
def execIdivLit (ty : Ty) (d a : VReg) (lit : BitVec 32) (s : State) : Result := .next (vecLit ty d a lit (intDiv ty) s)
/-- IREM (R246). -/
def execIrem (ty : Ty) (d a b : VReg) (s : State) : Result := .next (vecBin 8 ty d a b (intRem ty) s)
/-- IREM_LIT (R246). -/
def execIremLit (ty : Ty) (d a : VReg) (lit : BitVec 32) (s : State) : Result := .next (vecLit ty d a lit (intRem ty) s)
/-- IMIN (R245). -/
def execImin (ty : Ty) (d a b : VReg) (s : State) : Result := .next (vecBin 8 ty d a b (intMinOf ty) s)
/-- IMIN_LIT (R245). -/
def execIminLit (ty : Ty) (d a : VReg) (lit : BitVec 32) (s : State) : Result := .next (vecLit ty d a lit (intMinOf ty) s)
/-- IMAX (R245). -/
def execImax (ty : Ty) (d a b : VReg) (s : State) : Result := .next (vecBin 8 ty d a b (intMaxOf ty) s)
/-- IMAX_LIT (R245). -/
def execImaxLit (ty : Ty) (d a : VReg) (lit : BitVec 32) (s : State) : Result := .next (vecLit ty d a lit (intMaxOf ty) s)
/-- IABS (R245). -/
def execIabs (ty : Ty) (d a : VReg) (s : State) : Result := .next (vecUn 8 ty ty d a (intAbs ty) s)
/-- INEG (R245). -/
def execIneg (ty : Ty) (d a : VReg) (s : State) : Result := .next (vecUn 8 ty ty d a (intNeg ty) s)
/-- AND (R245). -/
def execVAnd (ty : Ty) (d a b : VReg) (s : State) : Result := .next (vecBin 8 ty d a b (bitAnd) s)
/-- AND_LIT (R245). -/
def execVAndLit (ty : Ty) (d a : VReg) (lit : BitVec 32) (s : State) : Result := .next (vecLit ty d a lit (bitAnd) s)
/-- OR (R245). -/
def execVOr (ty : Ty) (d a b : VReg) (s : State) : Result := .next (vecBin 8 ty d a b (bitOr) s)
/-- OR_LIT (R245). -/
def execVOrLit (ty : Ty) (d a : VReg) (lit : BitVec 32) (s : State) : Result := .next (vecLit ty d a lit (bitOr) s)
/-- XOR (R245). -/
def execVXor (ty : Ty) (d a b : VReg) (s : State) : Result := .next (vecBin 8 ty d a b (bitXor) s)
/-- XOR_LIT (R245). -/
def execVXorLit (ty : Ty) (d a : VReg) (lit : BitVec 32) (s : State) : Result := .next (vecLit ty d a lit (bitXor) s)
/-- NOT (R245). -/
def execVNot (ty : Ty) (d a : VReg) (s : State) : Result := .next (vecUn 8 ty ty d a (bitNot ty) s)
/-- SHL (R245). -/
def execShl (ty : Ty) (d a b : VReg) (s : State) : Result := .next (vecBin 8 ty d a b (shiftLeft ty) s)
/-- SHL_LIT (R245). -/
def execShlLit (ty : Ty) (d a : VReg) (lit : BitVec 32) (s : State) : Result := .next (vecLit ty d a lit (shiftLeft ty) s)
/-- SHR (R245). -/
def execShr (ty : Ty) (d a b : VReg) (s : State) : Result := .next (vecBin 8 ty d a b (shiftRight ty) s)
/-- SHR_LIT (R245). -/
def execShrLit (ty : Ty) (d a : VReg) (lit : BitVec 32) (s : State) : Result := .next (vecLit ty d a lit (shiftRight ty) s)
/-- ICMP (R247). -/
def execIcmp (ty : Ty) (cd : Cond) (p : PReg) (a b : VReg) (s : State) : Result := .next (vecCmp ty p a b (intCmp ty cd) s)
/-- ICMP_LIT (R247). -/
def execIcmpLit (ty : Ty) (cd : Cond) (p : PReg) (a : VReg) (lit : BitVec 32) (s : State) : Result :=
  .next (vecCmpLit ty p a lit (intCmp ty cd) s)
/-- SEL (R247). -/
def execSel (ty : Ty) (ps : PReg) (d a b : VReg) (s : State) : Result :=
  .next (vectorOp 8 (regsOf ty d ++ regsOf ty a ++ regsOf ty b) (regsOf ty d)
    (fun i l => wordOf (if (getP s ps).getLsbD l then laneVal s ty a l else laneVal s ty b l) i) (fun _ => 0) s)
/-- MOV (R247). -/
def execMov (ty : Ty) (d a : VReg) (s : State) : Result := .next (vecUn 8 ty ty d a (fun v => (v, 0)) s)
/-- MOV_LIT (R247). -/
def execMovLit (ty : Ty) (d : VReg) (lit : BitVec 32) (s : State) : Result :=
  .next (vectorOp 12 (regsOf ty d) (regsOf ty d) (fun i _ => wordOf (litVal ty lit) i) (fun _ => 0) s)
/-- MOV_LANE (R247). -/
def execMovLane (d : VReg) (s : State) : Result :=
  .next (vectorOp 8 [d.toNat] [d.toNat] (fun _ l => BitVec.ofNat 32 l) (fun _ => 0) s)
/-- CLZ (R245). -/
def execClz (ty : Ty) (d a : VReg) (s : State) : Result := .next (vecUn 8 ty ty d a (fun v => (leadZeros (tyBits ty) v, 0)) s)
/-- POPC (R245). -/
def execPopc (ty : Ty) (d a : VReg) (s : State) : Result := .next (vecUn 8 ty ty d a (fun v => (onesIn (tyBits ty) v, 0)) s)
/-- BREV (R245). -/
def execBrev (ty : Ty) (d a : VReg) (s : State) : Result := .next (vecUn 8 ty ty d a (fun v => (reverseBits (tyBits ty) v, 0)) s)
/-- IMAD (R245). -/
def execImad (ty : Ty) (d a b c : VReg) (s : State) : Result := .next (vecTri ty d a b c (intMad ty) s)
/-- DOT4 (R248). -/
def execDot4 (ty : Ty) (sat : Bool) (d a b c : VReg) (s : State) : Result :=
  .next (vecTri .b32 d a b c (dotFour ty sat) s)

end Sys2Proof.Machine
end

