-- ==== Sys2Proof/Machine/Crew.lean ====
section
/-! DEFINITION. Crew mode (R291 to R312): seat words and their rules, strokes, the crew instructions, and stream bindings
(R379, R380). -/
namespace Sys2Proof.Machine

/-- Bits [lo + n - 1 : lo] of a seat word. -/
def seatBits (w : BitVec 128) (lo n : Nat) : Nat := w.toNat / 2 ^ lo % 2 ^ n

/-- An input of a seat (R297): kind, queue, number of items needed, and whether it pops. -/
structure SeatIn where
  kind : Nat
  q : Nat
  need : Nat
  pop : Bool
  deriving DecidableEq, Repr

/-- Input i (0 to 2) of a seat word. -/
def seatIn (w : BitVec 128) (i : Nat) : SeatIn :=
  ⟨seatBits w (16 + 12 * i) 2, seatBits w (18 + 12 * i) 4, seatBits w (22 + 12 * i) 4 + 1, w.getLsbD (26 + 12 * i)⟩

/-- The operator of a seat word. -/
def seatOp (w : BitVec 128) : Nat := seatBits w 0 8
/-- The type of a seat word. -/
def seatTy (w : BitVec 128) : Ty := (tyOf (BitVec.ofNat 5 (seatBits w 8 5))).getD .none
/-- The rounding mode of a seat word. -/
def seatRnd (w : BitVec 128) : Rnd := (rndOf (BitVec.ofNat 3 (seatBits w 13 2))).getD .rn
/-- The request type of a stream seat (R38). -/
def seatRt (w : BitVec 128) : ReqTy :=
  match seatBits w 13 3 with
  | 1 => .own | 2 => .wt | 3 => .si | 4 => .unc | _ => .none
/-- LIT of a seat word. -/
def seatLit (w : BitVec 128) : BitVec 32 := w.extractLsb' 96 32
/-- The source type of a `cvt` seat. -/
def seatSrc (w : BitVec 128) : Ty := (tyOf (BitVec.ofNat 5 (seatBits w 96 5))).getD .none

/-- The queue inputs of a seat. -/
def queueIns (w : BitVec 128) : List SeatIn := ((List.range 3).map (seatIn w)).filter (fun x => x.kind = 1)
/-- The enabled outputs of a seat: queue and destination lane. -/
def seatOuts (w : BitVec 128) : List (Nat × Nat) :=
  ([52, 62].filter (fun b => w.getLsbD b)).map (fun b => (seatBits w (b + 1) 4, seatBits w (b + 5) 5))
/-- The queues that a seat names. -/
def seatQueues (w : BitVec 128) : List Nat := (queueIns w).map SeatIn.q ++ (seatOuts w).map Prod.fst

/-- Inputs that an operator takes (R298). -/
def inputsOf (op : Nat) : List Bool :=
  if op = 4 then [true, true, true]
  else if op = 0x10 then [false, false, false]
  else if op = 0x0A || op = 0x0B || op = 0x11 then [true, false, false]
  else [true, true, false]

/-- The types of a compute operator (R298). -/
def seatTyOk (op : Nat) (t : Ty) : Bool :=
  let base := t == .f32 || t == .f16 || t == .bf16 || t == .i32 || t == .n32
  if op = 2 then base
  else if op ≤ 6 then base || t == .tap8 || t == .tap16 || t == .tap32
  else t == .b32

/-- Rules 1 and 2 of R299 on the inputs of a word: kinds, presence, and fields that must be zero. -/
def inputsOk (w : BitVec 128) (op : Nat) : Bool :=
  (List.range 3).all (fun i =>
    let x := seatIn w i
    x.kind != 3 && (x.kind != 0) == (inputsOf op).getD i false && (x.kind = 1 || (x.q = 0 && x.need = 1 && !x.pop)))

/-- Reserved bits, and the fields of outputs that are not enabled, are zero. -/
def spareOk (w : BitVec 128) : Bool :=
  !(w.getLsbD 27) && !(w.getLsbD 39) && !(w.getLsbD 51) && seatBits w 84 12 = 0 &&
  [52, 62].all (fun b => w.getLsbD b || seatBits w b 10 = 0)

/-- Rules 1 and 2 of R299 on a stream seat. -/
def streamOk (w : BitVec 128) (op : Nat) : Bool :=
  let bits := tyBits (seatTy w)
  (bits = 8 || bits = 16 || bits = 32) && seatBits w 13 3 ≤ 4 &&
  if op = 0x10 then !(seatOuts w).isEmpty
  else (seatOuts w).isEmpty && seatBits w 78 6 = 0 && (seatIn w 0).kind = 1 && (seatIn w 0).pop

/-- Rules 1 and 2 of R299 on a compute seat. -/
def computeOk (w : BitVec 128) (op : Nat) : Bool :=
  let t := seatTy w
  let lit := seatBits w 96 32
  seatBits w 72 12 = 0 && !(w.getLsbD 15) && (queueIns w).any SeatIn.pop &&
  if op = 0x0B then
    lit < 32 && tyBits t ≤ 32 && tyBits (seatSrc w) ≤ 32 && cvtOk (seatRnd w) t (seatSrc w) &&
    (seatBits w 13 2 = 0 || !(tyIsTap t || tyIsInt t))
  else
    seatTyOk op t && (seatBits w 13 2 = 0 || (tyF3 t && op ≤ 4)) &&
    (lit = 0 || (List.range 3).any (fun i => (seatIn w i).kind = 2))

/-- Rules 1 and 2 of R299 on a word. -/
def wordOk (w : BitVec 128) : Bool :=
  let op := seatOp w
  if op = 0 then w = 0
  else if op ≤ 0x0B then spareOk w && inputsOk w op && computeOk w op
  else if op = 0x10 || op = 0x11 then spareOk w && inputsOk w op && streamOk w op
  else false

/-- The seats, by number, that read a queue. -/
def seatReaders (ws : List (BitVec 128)) (q : Nat) : List Nat :=
  (List.range 32).flatMap (fun i => ((queueIns (ws.getD i 0)).filter (fun x => x.q = q)).map (fun _ => i))
/-- The seats that write a queue, with their destination lanes. -/
def writersOf (ws : List (BitVec 128)) (q : Nat) : List (Nat × Nat) :=
  (List.range 32).flatMap (fun i => ((seatOuts (ws.getD i 0)).filter (fun x => x.1 = q)).map (fun x => (i, x.2)))

/-- A queue is claimed by a crew (R296). -/
def claimed (ws : List (BitVec 128)) (q : Nat) : Bool := !(seatReaders ws q).isEmpty || !(writersOf ws q).isEmpty

/-- The home lane of a claimed queue (R296). -/
def homeOf (ws : List (BitVec 128)) (q : Nat) : Nat :=
  match seatReaders ws q, writersOf ws q with
  | r :: _, _ => r
  | [], w :: _ => w.2
  | [], [] => 0

/-- Two claimed queues share a (lane, register) pair (R296). -/
def queuesClash (g : Group) (ws : List (BitVec 128)) (p q : Nat) : Bool :=
  let a := queueOf g p
  let b := queueOf g q
  p != q && claimed ws q && homeOf ws p = homeOf ws q && a.base < b.base + b.depth && b.base < a.base + a.depth

/-- Rules 3 to 6 of R299 on one seat among all. -/
def seatFits (g : Group) (ws : List (BitVec 128)) (i : Nat) : Bool :=
  let w := ws.getD i 0
  (queueIns w).all (fun x => (queueOf g x.q).valid && x.need ≤ (queueOf g x.q).depth && (seatReaders ws x.q).length = 1) &&
  (seatOuts w).all (fun o => (queueOf g o.1).valid && (writersOf ws o.1).length = 1 &&
    (seatReaders ws o.1).all (fun r => r = o.2)) &&
  (seatQueues w).all (fun q => (queueOf g q).base + (queueOf g q).depth ≤ g.allot &&
    !((List.range 16).any (queuesClash g ws q)))

/-- The lowest seat that R299 refuses. -/
def badSeat (g : Group) (ws : List (BitVec 128)) : Option Nat :=
  (List.range 32).find? (fun i => !(wordOk (ws.getD i 0)) || !(seatFits g ws i))

/-- A sink seat (R302). -/
def isSink (x : Seat) : Bool := seatOp x.word = 0x11
/-- A stream seat. -/
def isStream (x : Seat) : Bool := seatOp x.word = 0x10 || isSink x

/-- A seat with a word read from an address; the stream registers of a stream seat are read (R302). -/
def newSeat (s : State) (w : BitVec 128) (addr : Word) : Seat :=
  let ld := seatOp w = 0x10
  ⟨w, addr, if ld || seatOp w = 0x11 then getS s (BitVec.ofNat 6 (seatBits w 72 6)) else 0,
    if ld then getS s (BitVec.ofNat 6 (seatBits w 78 6)) else 0, 0, false⟩

/-- The words of seats. -/
def wordsOfSeats (xs : List Seat) : List (BitVec 128) := xs.map Seat.word

/-- HOME of every claimed queue set (R296). -/
def setHomes (xs : List Seat) (g : Group) : Group :=
  let ws := wordsOfSeats xs
  { g with queues := (List.range 16).map (fun q =>
      let e := queueOf g q
      if claimed ws q then { e with home := homeOf ws q } else e) }

/-- The 16 bytes of a seat word in a scratchpad. -/
def seatWord (s : State) (off : Nat) : BitVec 128 := BitVec.ofNat 128 (leVal (tbytes s.smem (s.cur.core * 0x180000 + off) 16))

/-- The team scratchpad alone (R308). -/
def crewSpace (a : VAddr) (_ : Loc) : Option Cause :=
  if localBase ≤ a.toNat && a.toNat < localBase + 0x180000 then none else some .crewConfig

/-- The checks of R308 on n seat words at a register's address, which alone is translated, then the operation with their
scratchpad offset. -/
def readSeats (v : Word) (n : Nat) (s : State) (k : Nat → State → State) : State :=
  let a : VAddr := v.setWidth 57
  checkOne .load 1 (16 * n) a v (crewSpace a) .alignment (a.toNat % 16 == 0) s fun l _ s =>
    afterPosted [(l, 16 * n)] s fun s => k (a.toNat - localBase) s

/-- "Crew config" (R307). -/
def crewConfig (addr : Word) (s : State) : State := raiseGroup .crewConfig addr s

/-- The streams of the pipelines of the queue that started the group's launch: those whose entry names this group, for n
seats (R377, R379). -/
def pipeMatches (s : State) (n : Nat) (e : PipeEntry) : Bool :=
  let g := s.cur
  e.nseat = n && e.grid = g.idx.grid && e.span = g.idx.span && e.cluster = g.idx.cluster && e.team = g.idx.team &&
    e.group = g.idx.group

/-- The queue of the issuing group's launch. -/
def launchQueue (s : State) : Nat := ((s.launches.find? (fun l => l.id = s.cur.launch)).map Launch.queue).getD 32

/-- The binding that a `crew.enter` with n takes (R379): the first pending packet with a stream, not taken, of a
matching pipeline. -/
def bindingFor (s : State) (n : Nat) : Option (Nat × Nat) :=
  let k := queueAt s (launchQueue s)
  (pendingBinds k).findSome? (fun p =>
    (p.streams.find? (fun x => x.taken.isNone && k.pipes.any (fun e => e.pipe = x.pipe && pipeMatches s n e))).map
      (fun x => (p.seq, x.pipe)))

/-- The streams of a packet for a pipeline. -/
def streamsFor (s : State) (q : Nat) (b : Nat × Nat) : List Stream :=
  (((queueAt s q).pkts.filter (fun p => p.seq = b.1)).flatMap Pkt.streams).filter (fun x => x.pipe = b.2)

/-- Streams of a queue's packets changed. -/
def setStreams (q : Nat) (sel : Pkt → Stream → Bool) (f : Stream → Stream) (s : State) : State :=
  setQueue q (fun k => { k with pkts := k.pkts.map (fun p =>
    { p with streams := p.streams.map (fun x => if sel p x then f x else x) }) }) s

/-- A BIND without a sink completes when every stream has been taken (R380). -/
def bindTaken (q seq : Nat) (s : State) : State :=
  match (queueAt s q).pkts.find? (fun p => p.seq = seq) with
  | some p => if p.streams.all (fun x => x.taken.isSome && !x.sink) then finishWork q seq 1 s else s
  | none => s

/-- A seat takes its stream (R379). -/
def bindSeat (xs : List Stream) (i : Nat) (x : Seat) : Seat :=
  match xs.find? (fun b => b.seat = i) with
  | some b => { x with base := b.base.setWidth 64, count := if seatOp x.word = 0x10 then BitVec.ofNat 64 b.count else x.count }
  | none => x

/-- The crew starts (R292, R308): the SIMT state is parked, the crew predicates are false. The parked pc is that of the
next instruction until a `crew.leave` issues (log 78). -/
def startCrew (xs : List Seat) (g : Group) : Group :=
  let a := g.arch
  setHomes xs { g with
    park := some ⟨a.pc + 16, a.em, a.lpart, a.preds, a.stack⟩, pidx := 0, crew := some ⟨xs, [], false, true⟩,
    arch := { a with preds := [], stack := [] } }

/-- CREW_ENTER (R308, R379). -/
def execCrewEnter (a : SReg) (n : BitVec 6) (s : State) : Result :=
  let v := getS s a
  .next (notCrew s fun s => onceForGroup 16 s fun s => afterFence s fun s =>
    readSeats v n.toNat s fun off s =>
      let xs := (List.range 32).map (fun i =>
        newSeat s (if i < n.toNat then seatWord s (off + 16 * i) else 0) (v + BitVec.ofNat 64 (16 * i)))
      match badSeat s.cur (wordsOfSeats xs) with
      | some i => crewConfig (v + BitVec.ofNat 64 (16 * i)) s
      | none =>
        let q := launchQueue s
        let b := bindingFor s n.toNat
        let bs := (b.map (streamsFor s q)).getD []
        match (List.range 32).find? (fun i => bs.any (fun x => x.seat = i) && !((xs[i]?).any isStream)) with
        | some i => crewConfig (v + BitVec.ofNat 64 (16 * i)) s
        | none =>
          let gid := s.cur.gid
          let by_ := (s.cur.asid, s.cur.part.toNat)
          let s := advance 16 (updCur (startCrew ((List.range 32).zipWith (bindSeat bs) xs)) s)
          match b with
          | none => s
          | some p => bindTaken q p.1 (setStreams q (fun k x => k.seq = p.1 && x.pipe = p.2) (fun x => { x with taken := some gid, taker := some by_ }) s))

/-- "Crew state" (R309, R310). -/
def crewOnly (s : State) (k : Crew → State → State) : State :=
  match s.cur.crew with
  | none => onceForGroup 16 s fun s => raiseOpen .crewState s
  | some c => onceForGroup 16 s fun s => k c s

/-- The crew has drained (R309): every sink has popped its token, every claimed queue is empty, every stream store is
performed. -/
def drainedCrew (g : Group) (c : Crew) : Bool :=
  c.seats.all (fun x => !(isSink x) || x.fin) && g.posted.isEmpty &&
  (List.range 16).all (fun q => !(claimed (wordsOfSeats c.seats) q) || ((queueOf g q).full = 0 && (queueOf g q).pend = 0))

/-- A group's registers with the parked ones restored (R292). -/
def unpark (k : Park) (a : Arch) : Arch :=
  { a with em := k.em &&& a.live, lpart := k.lpart, preds := k.preds, stack := k.stack }

/-- A group without its crew, its parked state restored (R309). -/
def endCrew (g : Group) : Group :=
  { g with crew := none, park := none, pidx := 0, arch := (g.park.map (fun k => unpark k g.arch)).getD g.arch }

/-- The SIMT stream continues after the `crew.leave` (R309). -/
def leaveCrew (s : State) : State := advance 16 (updCur endCrew s)

/-- The place where the SIMT stream will continue is parked, once the `crew.leave` has issued (R309, R316: the line after
it; log 78). -/
def parkPc (g : Group) : Group := { g with park := g.park.map (fun k => { k with pc := g.arch.pc + 16 }) }

/-- CREW_LEAVE (R309). -/
def execCrewLeave (s : State) : Result :=
  .next (crewOnly s fun c s => if drainedCrew s.cur c then leaveCrew s else block .drain (updCur parkPc s))

/-- CREW_DRAINED (R309): a group that waits at its `crew.leave` leaves, if its crew has drained. -/
def execCrewDrained (gid : Nat) (s : State) : Result :=
  .next (onGroup gid (fun s =>
    match s.cur.crew with
    | some c => if s.cur.wait == some .drain && drainedCrew s.cur c then leaveCrew s else s
    | none => s) s)

/-- SEAT_LD (R310). -/
def execSeatLd (n : BitVec 5) (a : SReg) (s : State) : Result :=
  let v := getS s a
  .next (crewOnly s fun _ s => readSeats v 1 s fun off s =>
    match s.cur.crew with
    | none => s
    | some c =>
      if (c.seats[n.toNat]?).any (fun x => x.word != 0 && !x.fin) then crewConfig v s
      else
        let xs := c.seats.set n.toNat (newSeat s (seatWord s off) v)
        match badSeat s.cur (wordsOfSeats xs) with
        | some i => crewConfig (((xs[i]?).map Seat.addr).getD v) s
        | none => advance 16 (updCur (fun g => setHomes xs { g with crew := some { c with seats := xs } }) s))

/-- A queue-table entry written. -/
def defineQueue (q : Nat) (e : QueueEntry) (g : Group) : Group :=
  { g with queues := (List.range 16).map (fun i => if i = q then e else queueOf g i) }

/-- QDEF (R311). -/
def execQdef (q : BitVec 4) (b : VReg) (dep : BitVec 5) (s : State) : Result :=
  let e : QueueEntry := ⟨true, b.toNat, dep.toNat, 0, 0, 0, 0, 0, 0⟩
  .next (notCrew s fun s => regCheck ((List.range dep.toNat).map (fun i => b.toNat + i)) s fun s =>
    onceForGroup 16 s fun s => advance 16 (updCur (defineQueue q.toNat e) s))

/-- Free slots of a queue (R294). -/
def queueRoom (e : QueueEntry) : Nat := e.depth - e.full - e.pend

/-- A queue entry changed. -/
def setEntry (q : Nat) (f : QueueEntry → QueueEntry) (g : Group) : Group := { g with queues := g.queues.modify q f }

/-- Items popped from a queue (R295): the slot registers are left as they are. -/
def popEntry (n : Nat) (e : QueueEntry) : QueueEntry := { e with full := e.full - n, head := (e.head + n) % max e.depth 1 }

/-- One slot reserved that lands at once with the register's present contents (R312). -/
def republish (q : Nat) (g : Group) : Group :=
  let e := queueOf g q
  let tail := (e.tail + 1) % max e.depth 1
  match g.crew with
  | none => setEntry q (fun e => { e with full := e.full + 1, tail := tail, tok := e.tok &&& ~~~(BitVec.twoPow 16 e.tail) }) g
  | some c =>
    let v := tget 0 g.arch.vregs (32 * (e.base + e.tail) + e.home)
    landed (setEntry q (fun e => { e with pend := e.pend + 1, tail := tail })
      { g with crew := some { c with infl := c.infl ++ [⟨q, e.tail, 0, false, v⟩] } })

/-- Some slots republished. -/
def republishN (q : Nat) : Nat → Group → Group
  | 0, g => g
  | n + 1, g => republishN q n (republish q g)

/-- What a firing does beyond its queues (R302). -/
inductive SeatEffect where
  | none
  /-- the next element of a stream -/
  | element (ps : List Posted) (bytes : Nat)
  | popFifo (bank : Nat)
  | popToken (bank : Nat)
  | pushFifo (bank : Nat) (v : LaneWord)
  | pushToken (bank : Nat)
  deriving DecidableEq, Repr

/-- A firing (R301): the queues it pops, whether its outputs are tokens, its result and latency, its flags, whether the
seat finishes. -/
structure Firing where
  seat : Nat
  pops : List Nat
  tok : Bool
  val : LaneWord
  lat : Nat
  flags : FlagSet
  fin : Bool
  eff : SeatEffect
  deriving DecidableEq, Repr

/-- A seat's fault (R305). -/
structure SeatFault where
  seat : Nat
  cause : Cause
  sub : BitVec 16
  addr : Word
  flags : FlagSet
  deriving DecidableEq, Repr

/-- What a seat does in a stroke. -/
inductive SeatStep where
  | rest
  | fires (f : Firing)
  | faults (f : SeatFault)
  deriving DecidableEq, Repr

/-- The head of a queue is a token. -/
def headTok (e : QueueEntry) : Bool := e.full != 0 && e.tok.getLsbD e.head
/-- The item at the head of a queue. -/
def headVal (g : Group) (e : QueueEntry) : LaneWord := tget 0 g.arch.vregs (32 * (e.base + e.head) + e.home)

/-- Every enabled output has a free slot (R301). -/
def roomOut (g : Group) (w : BitVec 128) : Bool := (seatOuts w).all (fun o => 1 ≤ queueRoom (queueOf g o.1))

/-- The pops of a seat. -/
def popsOf (w : BitVec 128) : List Nat := ((queueIns w).filter SeatIn.pop).map SeatIn.q

/-- The operand of an input (R298): the head of its queue, or the constant. -/
def operand (g : Group) (w : BitVec 128) (t : Ty) (i : Nat) : Nat :=
  let x := seatIn w i
  (if x.kind = 1 then (headVal g (queueOf g x.q)).toNat else (seatLit w).toNat) % 2 ^ tyBits t

/-- The result of a compute seat in its lane (R298). -/
def seatResult (op : Nat) (t ts : Ty) (r : Rnd) (a b c : Nat) : Nat × FlagSet :=
  let fl := tyF3 t
  let tap := tyIsTap t
  match op with
  | 1 => if fl then floatAdd (fmtOf t) r a b else if tap then tapSum t a b else intAdd t false a b
  | 2 => if fl then floatSub (fmtOf t) r a b else intSub t false a b
  | 3 => if fl then floatMul (fmtOf t) r a b else if tap then tapProduct t a b else intMul t a b
  | 4 => if fl then floatFma (fmtOf t) r a b c else if tap then tapFused t a b c else intMad t a b c
  | 5 => if fl then floatMinMax (fmtOf t) false a b else if tap then tapMin t a b else intMinOf t a b
  | 6 => if fl then floatMinMax (fmtOf t) true a b else if tap then tapMax t a b else intMaxOf t a b
  | 7 => bitAnd a b
  | 8 => bitOr a b
  | 9 => bitXor a b
  | 0x0B => convertNum t ts r false a
  | _ => (a, 0)

/-- The latency of a compute seat in strokes (R238, R298). -/
def seatLatency (op : Nat) (t : Ty) : Nat :=
  if op = 0x0B then 4 else if tyIsTap t then 8 else if tyF3 t || op = 3 || op = 4 then 6 else 4

/-- The flags of a lane that are enabled (R237, R350). -/
def enabledFlags (g : Group) (l : Nat) (fl : FlagSet) : FlagSet :=
  (List.range 7).foldl (fun m f => if fl.getLsbD f && (enabledIn g f).getLsbD l then m ||| BitVec.twoPow 7 f else m) 0

/-- A compute seat in a stroke (R301, R303). -/
def computeStep (g : Group) (i : Nat) (x : Seat) : SeatStep :=
  let w := x.word
  let pops := popsOf w
  let op := seatOp w
  let t := seatTy w
  if pops.any (fun q => headTok (queueOf g q)) && pops.any (fun q => (queueOf g q).full != 0 && !(headTok (queueOf g q))) then
    .faults ⟨i, .streamMismatch, 0, x.addr, 0⟩
  else if !(roomOut g w) then .rest
  else if pops.all (fun q => headTok (queueOf g q)) then .fires ⟨i, pops, true, 0, 1, 0, true, .none⟩
  else if (queueIns w).any (fun y => (queueOf g y.q).full < y.need || headTok (queueOf g y.q)) then .rest
  else
    let ft := if op = 0x0B then seatSrc w else t
    let r := seatResult op t (seatSrc w) (seatRnd w) (operand g w ft 0) (operand g w ft 1) (operand g w ft 2)
    let en := enabledFlags g i r.2
    if en != 0 then .faults ⟨i, .arithmetic, en.setWidth 16, r.2.setWidth 64, r.2⟩
    else .fires ⟨i, pops, false, wordOf r.1 0, seatLatency op t, r.2, false, .none⟩

/-- The address of a stream's element (R302); in the FIFO space LIT is ignored. -/
def inFifoSpace (a : VAddr) : Bool := localBase + 0x200000000 ≤ a.toNat && a.toNat < localBase + 0x200180000
/-- The address of element k of a stream seat. -/
def elemAddr (x : Seat) : VAddr :=
  let b : VAddr := x.base.setWidth 57
  if inFifoSpace b then b else b + BitVec.ofNat 57 x.k * (seatLit x.word).signExtend 57

/-- What the checks of a stream element give: it may be accessed, its walk or its bank waits, or it faults. -/
inductive ElemCheck where
  | ok
  | wait
  | fault (f : SeatFault)
  deriving DecidableEq, Repr

/-- The checks of R154 on one element of a stream. -/
def elemCheck (k : AccKind) (acc : FifoAcc) (i : Nat) (x : Seat) (s : State) : State × LaneAcc × ElemCheck :=
  let n := tyBits (seatTy x.word) / 8
  let a := elemAddr x
  let t := translateSpan (whoOf s.cur) k a n s
  let y : LaneAcc := ⟨i, a, t.2.1, t.2.2.1, t.2.2.2⟩
  let bad := fun (c : Cause) (sub : Nat) => ElemCheck.fault ⟨i, c, BitVec.ofNat 16 sub, a.setWidth 64, 0⟩
  match laneFault y with
  | some 0 => (t.1, y, bad .poison 0)
  | some f => (faultRecord (dieOf s.cur.core) s.cur.asid y.fa f t.1, y, bad .translation f)
  | none =>
    if y.x1 == .wait || (anySwitching [y] t.1).isSome then (t.1, y, .wait)
    else match fifoSpace acc (n == 4) [y] t.1 y with
    | some c => (t.1, y, bad c 0)
    | none => (t.1, y, if localBase ≤ a.toNat && !(allocOk (whoOf s.cur) a n t.1) then bad .allocation 0 else .ok)

/-- The strokes after which a stream load lands (R83, R302): those of an own scratchpad access and of an L1 hit; any other
is a free number (log 6). -/
def loadLatency (hit : Bool) (l : Loc) (s : State) : State × Nat :=
  match l with
  | .smem c _ => if c = s.cur.core then (s, 6) else (nextFree s, 1 + Config.freeNat s.free)
  | _ => if hit then (s, 8) else (nextFree s, 1 + Config.freeNat s.free)

/-- A loaded value in 32 bits (R190). -/
def extendElem (t : Ty) (v : Nat) : LaneWord :=
  if tyIsSigned t then BitVec.ofInt 32 (intOf t v) else BitVec.ofNat 32 v

/-- A seat goes on if what came before it has not ended its context (R352). -/
def seatRuns (g : Group) (s : State) (k : State → State × SeatStep) : State × SeatStep := if stillRuns g s then k s else (s, .rest)

/-- An `ld` seat reads its next element from memory. -/
def loadElem (i : Nat) (x : Seat) (y : LaneAcc) (s : State) : State × SeatStep :=
  let n := tyBits (seatTy x.word) / 8
  let rs := memRanges n [y]
  let need := beforeAccess s rs
  seatRuns s.cur (performNeeded need s) fun s =>
    if mustWait need rs s then (s, .rest)
    else
      let hit := rs.all (servedInL1 s (seatRt x.word))
      let r := readLanes (whoOf s.cur) (seatRt x.word) n [y] s
      seatRuns s.cur r.1 fun s =>
        if !r.2.bad.isEmpty then (s, .faults ⟨i, .poison, 1, y.addr.setWidth 64, 0⟩)
        else
          let l := loadLatency hit (laneLoc y) s
          (l.1, .fires ⟨i, [], false, extendElem (seatTy x.word) (valAt r.2.vals i), l.2, 0, false, .element [] n⟩)

/-- An `ld` seat at a FIFO bank (R302): it waits while the bank holds nothing, pops a data item, or passes a token. -/
def loadFifo (i b : Nat) (y : LaneAcc) (s : State) : State × SeatStep :=
  match (bankOf s s.cur.core b).fifo.items with
  | [] => (s, .rest)
  | some v :: _ => (nextFree s, .fires ⟨i, [], false, v, 1 + Config.freeNat s.free, 0, false, .popFifo b⟩)
  | none :: _ =>
    if fifoRefuses .tclr s.cur.core s.cur.slot b s then (s, .faults ⟨i, .fifoAccess, 0, y.addr.setWidth 64, 0⟩)
    else (s, .fires ⟨i, [], true, 0, 1, 0, true, .popToken b⟩)

/-- An `ld` seat in a stroke (R302). -/
def loadStep (i : Nat) (x : Seat) (s : State) : State × SeatStep :=
  if !(roomOut s.cur x.word) then (s, .rest)
  else if !(inFifoSpace (x.base.setWidth 57)) && x.count.toNat ≤ x.k then (s, .fires ⟨i, [], true, 0, 1, 0, true, .none⟩)
  else
    match elemCheck .load .pop i x s with
    | (s, _, .fault f) => (s, .faults f)
    | (s, _, .wait) => (s, .rest)
    | (s, y, .ok) =>
      match laneBank y with
      | some b => loadFifo i b y s
      | none => loadElem i x y s

/-- A store of a seat is an access of its own. -/
def nextTick (s : State) : State := { s with tick := s.tick + 1 }

/-- An `st` seat in a stroke (R302). -/
def storeStep (i : Nat) (x : Seat) (s : State) : State × SeatStep :=
  let q := (seatIn x.word 0).q
  let e := queueOf s.cur q
  let n := tyBits (seatTy x.word) / 8
  let tok := headTok e
  let fifo := inFifoSpace (x.base.setWidth 57)
  if e.full = 0 || (!tok && e.full < (seatIn x.word 0).need) then (s, .rest)
  else if tok && !fifo then (s, .fires ⟨i, [q], true, 0, 1, 0, true, .none⟩)
  else
    match elemCheck .store (if tok then .tset else .push) i x s with
    | (s, _, .fault f) => (s, .faults f)
    | (s, _, .wait) => (s, .rest)
    | (s, y, .ok) =>
      match laneBank y with
      | some b =>
        if fifoRoom (bankOf s s.cur.core b).fifo = 0 then (s, .rest)
        else if tok then (s, .fires ⟨i, [q], true, 0, 1, 0, true, .pushToken b⟩)
        else (s, .fires ⟨i, [q], false, 0, 1, 0, false, .pushFifo b (headVal s.cur e)⟩)
      | none =>
        if s.commitPend && (laneRanges n y).any (fun l => (homeAddr s l.1).isSome) then (s, .rest)
        else
          let ps := storePosts s (seatRt x.word) n (fun _ => (headVal s.cur e).toNat % 2 ^ (8 * n)) [y]
          (nextTick s, .fires ⟨i, [q], false, 0, 1, 0, false, .element ps n⟩)

/-- What every seat does in a stroke, from the queue state at its start (R301). -/
def seatSteps : List (Nat × Seat) → State → State × List SeatStep
  | [], s => (s, [])
  | (i, x) :: xs, s =>
    let r := if x.fin || seatOp x.word = 0 || !s.cur.placed then (s, .rest)
      else if seatOp x.word = 0x10 then loadStep i x s
      else if seatOp x.word = 0x11 then storeStep i x s
      else (s, computeStep s.cur i x)
    let q := seatSteps xs r.1
    (q.1, r.2 :: q.2)

/-- A slot reserved in an output for a result (R295, R301). -/
def reserve (f : Firing) (q : Nat) (g : Group) : Group :=
  let e := queueOf g q
  setEntry q (fun e => { e with pend := e.pend + 1, tail := (e.tail + 1) % max e.depth 1 })
    { g with crew := g.crew.map (fun c => { c with infl := c.infl ++ [⟨q, e.tail, f.lat, f.tok, f.val⟩] }) }

/-- A seat changed. -/
def setSeat (i : Nat) (f : Seat → Seat) (g : Group) : Group :=
  { g with crew := g.crew.map (fun c => { c with seats := c.seats.modify i f }) }

/-- A firing's queues, flags and seat (R301). -/
def fireQueues (f : Firing) (g : Group) : Group :=
  let outs := seatOuts (((g.crew.bind (fun c => c.seats[f.seat]?)).map Seat.word).getD 0)
  let g := f.pops.foldl (fun g q => setEntry q (popEntry 1) g) g
  let g := outs.foldl (fun g o => reserve f o.1 g) g
  let g := setSeat f.seat (fun x => { x with fin := x.fin || f.fin, k := if f.fin || f.eff == .none then x.k else x.k + 1 }) g
  { g with arch := { g.arch with ffl := accrueTbl (BitVec.twoPow 32 f.seat) (fun _ => f.flags) g.arch.ffl } }

/-- The stream of a pending BIND that a seat of the issuing group has taken. -/
def ownStream (s : State) (i : Nat) (x : Stream) : Bool := x.sink && !x.done && x.taken == some s.cur.gid && x.seat = i

/-- Bytes stored by a sink noted in its BIND (R380). -/
def noteSink (i n : Nat) (s : State) : State :=
  setStreams (launchQueue s) (fun p x => p.status.isNone && ownStream s i x) (fun x => { x with bytes := x.bytes + n }) s

/-- A sink has popped its token: its BIND completes when every sink has (R380), with an event record at this core; the
status word is a release of the sinks' stores (R371), which go first. -/
def endSink (i : Nat) (s : State) : State :=
  let q := launchQueue s
  match (pendingBinds (queueAt s q)).find? (fun p => p.streams.any (ownStream s i)) with
  | none => s
  | some p =>
    let s := setStreams q (fun k x => k.seq = p.seq && ownStream s i x) (fun x => { x with done := true }) (cleanCore s.cur.core (performGroups s))
    let xs := ((queueAt s q).pkts.filter (fun k => k.seq = p.seq)).flatMap Pkt.streams
    if xs.all (fun x => !x.sink || x.done) then
      let pipe := ((p.streams.find? (ownStream s i)).map Stream.pipe).getD 0
      let mine := xs.filter (fun x => x.sink && x.pipe = pipe)
      eventPush 0 s.cur.core s.cur.slot pipe 4 0 (mine.foldl (fun n x => n + x.bytes) 0) 0 (finishWork q p.seq 1 s)
    else s

/-- A firing (R301, R302). A seat that finds its FIFO emptied or filled by another in the same stroke does not fire. -/
def fire (s : State) (f : Firing) : State :=
  let core := s.cur.core
  match f.eff with
  | .none =>
    let s := updCur (fireQueues f) s
    if f.fin && ((s.cur.crew.bind (fun c => c.seats[f.seat]?)).any isSink) then endSink f.seat s else s
  | .element ps n =>
    let s := updCur (fun g => { fireQueues f g with posted := g.posted ++ ps }) s
    if ps.isEmpty then s else noteSink f.seat n s
  | .popFifo b =>
    match (bankOf s core b).fifo.items with
    | some v :: _ => popItems core b 1 false (updCur (fireQueues { f with val := v }) s)
    | _ => s
  | .popToken b =>
    if headToken (bankOf s core b).fifo then popItems core b 1 true (updCur (fireQueues f) s) else s
  | .pushFifo b v =>
    if fifoRoom (bankOf s core b).fifo = 0 then s
    else noteSink f.seat 4 (pushItems core b [some v] (updCur (fireQueues f) s))
  | .pushToken b =>
    if fifoRoom (bankOf s core b).fifo = 0 then s else endSink f.seat (pushItems core b [none] (updCur (fireQueues f) s))

/-- The faults of a stroke. -/
def faultsIn : List SeatStep → List SeatFault
  | [] => []
  | .faults f :: r => f :: faultsIn r
  | _ :: r => faultsIn r

/-- The firings of a stroke. -/
def firingsIn : List SeatStep → List Firing
  | [] => []
  | .fires f :: r => f :: firingsIn r
  | _ :: r => firingsIn r

/-- The trap of a stroke in which seats fault (R305): their flags accrue in their lanes. -/
def crewTrap (f : SeatFault) (fs : List SeatFault) (s : State) : State :=
  let lm := fs.foldl (fun m x => m ||| BitVec.twoPow 32 x.seat) (0 : Mask)
  let ar := fs.filter (fun x => x.cause == .arithmetic)
  let sub := if f.cause == .arithmetic then ar.foldl (fun m x => m ||| x.sub) (0 : BitVec 16) else f.sub
  let ffl := ar.foldl (fun t x => accrueTbl (BitVec.twoPow 32 x.seat) (fun _ => x.flags) t) s.cur.arch.ffl
  raise ⟨f.cause, sub, lm, f.addr, s.cur.arch.pc⟩ (updArch (fun a => { a with ffl := ffl }) s)

/-- One stroke of the issuing group's crew (R301): results land, then every seat acts on the state at the start. The first is
made once the first control instruction has issued (R316). -/
def stroke (s : State) : State :=
  match s.cur.crew with
  | none => s
  | some c =>
    if c.stopped || s.cur.pend.isSome || s.cur.request == .stopped || c.fresh then s
    else
      let s := updCur landed (updCur (fun g => { g with crew := g.crew.map (fun c =>
        { c with infl := c.infl.map (fun x => { x with lands := x.lands - 1 }) }) }) s)
      let seats := (s.cur.crew.map Crew.seats).getD []
      let r := seatSteps ((List.range seats.length).zip seats) s
      match faultsIn r.2 with
      | f :: fs => crewTrap f (f :: fs) r.1
      | [] =>
        if !r.1.cur.placed then r.1
        else updCur (fun g => { g with pidx := g.pidx + 1 }) ((firingsIn r.2).foldl fire r.1)

/-- CREW_STROKE (R301). -/
def execCrewStroke (gid : Nat) (s : State) : Result := .next (onGroup gid stroke s)

/-- The stroke in which the issuing group's control instruction issues has ended (R301): stroke 0 does for one that issues in
it (R316). A stroke in which a seat faults ends the instruction. -/
def strokeEnds (s : State) (k : State → State) : State :=
  if inCrew s && s.cur.pidx == 0 then
    let s := stroke s
    if !s.cur.placed || s.cur.pend.isSome || s.cur.crew.any Crew.stopped then s else k s
  else k s

/-- A queue instruction (R312), on the state at the end of the stroke in which it issues (R301): an undefined handle or too
large a number traps; a condition that does not hold waits in crew mode and traps in SIMT mode. -/
def queueOp (q : Nat) (free : Bool) (n : Nat) (s : State) (k : State → State) : State :=
  onceForGroup 16 s fun s => strokeEnds s fun s =>
    let e := queueOf s.cur q
    if !e.valid || e.depth < n then raiseOpen .queueState s
    else if n ≤ (if free then queueRoom e else e.full) then advance 16 (k s)
    else if inCrew s then block (.queue q free n) s
    else raiseOpen .queueState s

/-- QADV_H (R312). -/
def execQadvH (q : BitVec 4) (n : BitVec 5) (s : State) : Result :=
  .next (queueOp q.toNat false n.toNat s fun s => updCur (setEntry q.toNat (popEntry n.toNat)) s)

/-- QADV_T (R312). -/
def execQadvT (q : BitVec 4) (n : BitVec 5) (s : State) : Result :=
  .next (queueOp q.toNat true n.toNat s fun s => updCur (republishN q.toNat n.toNat) s)

/-- QWAIT (R312): `fill`, or `free`. -/
def execQwait (free : Bool) (q : BitVec 4) (n : BitVec 5) (s : State) : Result :=
  .next (queueOp q.toNat free n.toNat s fun s => s)

end Sys2Proof.Machine
end

