-- ==== Sys2Proof/Machine/Preempt.lean ====
section
/-! DEFINITION. Pre-emption points (R134, R306, R353, R354), deferred traps (R134, R362), and the step by which a
waiting group goes on. -/
namespace Sys2Proof.Machine

/-- A wait that a pre-emption request ends, or that is none (R353): not one inside `bmode`, `gen.bump`, `fence.table`, a
matrix instruction (R333), or a `bar` before its arrival. -/
def waitLeft (w : Option Wait) : Bool :=
  match w with
  | some (.bank _) | some (.bump _ _) | some .table | some .commit | some (.disarm _) | some (.spill _) | some .arrive => false
  | _ => true

/-- A wait that is saved as it stands (R353): arrived at a barrier, or in `mwait`. -/
def keepWait (w : Option Wait) : Option Wait :=
  match w with
  | some (.bar l) => some (.bar l)
  | some .mwait => some .mwait
  | _ => none

/-- A trap that a rollback drops: any but a deferred poison trap (R134, R362). -/
def firmTrap (g : Group) : Option TrapInfo := g.pend.filter (fun t => t.cause == .poison && t.sub == 1)

/-- The group is at a pre-emption point (R353): it may be stopped now. -/
def canStop (g : Group) : Bool :=
  g.placed && !(masked g) && g.passes.isNone && waitLeft g.wait && g.arch.live != 0 &&
  (if g.fence.isSome then (firmTrap g).isNone else g.pend.isNone)

/-- A group stopped at its pre-emption point: speculation past a fence is discarded and the fence issues again (R134), a
crew's results land (R306), a wait is left or kept. -/
def stopGroup (g : Group) : Group :=
  let g := landAll g
  let g := match g.fence with
    | none => g
    | some f => { g with arch := { f.snap with pc := f.addr }, queues := f.qsnap, fence := none, pend := none, came := none }
  { g with request := .stopped, yielding := [], starved := false, late := false, wait := keepWait g.wait,
           since := if (keepWait g.wait).isSome then g.since else 0 }

/-- A request that has reached a group is taken where it can be, held under masked traps, or stays (R353, R354). -/
def takeRequest (g : Group) : Group :=
  if g.request == .pending then
    if masked g then { g with request := .held } else if canStop g then stopGroup g else g
  else g

/-- A request held under masked traps is taken (R354). -/
def takeHeld (g : Group) : Group := if g.request == .held then stopGroup g else g

/-- A group of a gang (R353): a span of a launch, or every span of a co-resident one. -/
def inGang (launch span : Nat) (g : Group) : Bool := g.placed && g.launch = launch && (g.coresident || g.idx.span = span)

/-- A gang with a save area may be pre-empted (R375). -/
def savable (s : State) (launch : Nat) : Bool := s.launches.any (fun l => l.id = launch && l.save != 0)

/-- PREEMPTION_REQUEST (R353): the Cox asks a gang to stop. -/
def requestGang (launch span : Nat) (s : State) : State :=
  if savable s launch then
    mapGroups (fun g =>
      if inGang launch span g && g.request == .none then takeRequest { g with request := .pending } else g) s
  else s

/-- PREEMPTION_REQUEST (R353). -/
def execPreemptionRequest (launch span : Nat) (s : State) : Result := .next (requestGang launch span s)

/-- GRACE_EXPIRY (R354): a request is still held. -/
def execGraceExpiry (gid : Nat) (s : State) : Result :=
  .next (match findGroup gid s with
    | some g => if g.request == .held then endContext 0x83 0 0 g.asid g.part s else s
    | none => s)

/-- A waiting trap of the issuing group taken, once it need not wait and its repechage passes are done (R134, R362); the
program counter of a deferred poison trap is that of the next instruction. -/
def takePending (s : State) : State :=
  match s.cur.pend with
  | none => s
  | some t =>
    if trapWaits s.cur || s.cur.passes.isSome then s
    else takeTrap (if t.cause == .poison && t.sub == 1 then { t with epc := s.cur.arch.pc } else t) s

/-- TRAP_ENTRY (R349): the trap that a group's instruction or access has raised. -/
def execTrapEntry (gid : Nat) (s : State) : Result := .next (onGroup gid takePending s)

end Sys2Proof.Machine
end

