-- ==== Sys2Proof/Machine/Issue.lean ====
section
/-! DEFINITION. Which group of a pipe issues next (R232), and giving up the pipe (R278). -/
namespace Sys2Proof.Machine

/-- The launch of a group lets its groups issue: a TIMED launch holds them until its time (R382). -/
def launchStarted (s : State) (g : Group) : Bool := s.launches.all (fun l => !(l.id = g.launch) || l.started)

/-- Two groups stand on one pipe of one core. -/
def samePipe (g h : Group) : Bool := g.core = h.core && g.pipe = h.pipe

/-- No other group of its pipe is in crew mode (R291). -/
def pipeFree (s : State) (g : Group) : Bool := (allGroups s).all (fun h => h.gid = g.gid || !(samePipe g h) || h.crew.isNone)

/-- The fence, if any, lets the group issue past it (R133). -/
def fencePasses (g : Group) : Bool :=
  match g.fence with
  | some f => f.rolls < 4
  | none => true

/-- The group's next instruction can issue, apart from a pipe given up (R232). -/
def canIssue (s : State) (g : Group) : Bool :=
  g.placed && g.request != .stopped && g.wait.isNone && g.arch.live != 0 && g.passes.isNone && g.pend.isNone &&
  fencePasses g && launchStarted s g && pipeFree s g

/-- A group that gave up the pipe is ready again: every group it let pass has issued, or is no longer ready (R278). -/
def yieldOver (s : State) (g : Group) : Bool :=
  g.yielding.all (fun y => (allGroups s).all (fun h => !(h.gid = y) || !(canIssue s h)))

/-- The group is ready (R232): its next instruction can issue at once. -/
def ready (s : State) (g : Group) : Bool := canIssue s g && yieldOver s g && !g.late

/-- The order of R232 between ready groups of a pipe: g goes before h. Ties of placement go by order within the gang. -/
def goesBefore (g h : Group) : Bool :=
  if g.starved || h.starved then g.starved && (!(h.starved) || g.since ≤ h.since)
  else if g.cls = h.cls then g.seq ≤ h.seq
  else h.cls.toNat < g.cls.toNat

/-- A ready group that no other ready group of its pipe goes before. -/
def chosen (s : State) (g : Group) : Bool :=
  (allGroups s).all (fun h => h.gid = g.gid || !(samePipe g h) || !(ready s h) || goesBefore g h)

/-- A group that may be the one that issues: the choice of its pipe where it is ready. A group that waits may be tried. -/
def selectable (s : State) (g : Group) : Bool :=
  g.placed && g.request != .stopped && launchStarted s g && pipeFree s g && (!(ready s g) || chosen s g)

/-- A group becomes the one that issues. -/
def switchTo (gid : Nat) (s : State) : State :=
  if s.cur.placed && s.cur.gid = gid then s
  else match s.groups.find? (fun g => g.placed && g.gid = gid) with
    | none => s
    | some g =>
      let rest := s.groups.filter (fun x => !(x.gid = gid))
      { s with cur := g, groups := if s.cur.placed then s.cur :: rest else rest }

/-- The groups of a pipe that go before a group are held back by the latencies of their next instructions (R238). -/
def holdBack (g : Group) (s : State) : State :=
  mapGroups (fun h => if samePipe g h && h.gid != g.gid && !(goesBefore g h) && !h.starved then { h with late := true } else h) s

/-- A cycle has passed on a pipe: what its groups waited for by latency is there. -/
def cyclePasses (g : Group) (s : State) : State := mapGroups (fun h => { h with late := h.late && !(samePipe g h) }) s

/-- A group is asked to issue next: it does where its pipe chooses it, or where latencies hold back those that go before it,
a free choice (log 6). -/
def selectGroup (g : Group) (s : State) : State :=
  if selectable s g then switchTo g.gid s
  else if !(ready s g) then s
  else if Config.freeBit s.free then switchTo g.gid (holdBack g (nextFree s))
  else nextFree s

/-- ISSUE_SELECT (R232): the next instruction to be issued is a group's. -/
def execIssueSelect (gid : Nat) (s : State) : Result :=
  .next (match findGroup gid s with
    | some g => selectGroup { g with late := false } (mapGroups (fun h => if h.gid = gid then { h with late := false } else h) s)
    | none => s)

/-- A group that has been ready and unissued for 4,096 cycles. -/
def starve (tick : Nat) (g : Group) : Group := if g.starved then g else { g with starved := true, since := tick }

/-- ISSUE_STARVATION (R232): 4,096 cycles have passed for a ready group. -/
def execIssueStarvation (gid : Nat) (s : State) : Result :=
  .next (match findGroup gid s with
    | some g =>
      if ready s g then mapGroups (fun h => if h.gid = gid then starve (s.tick + 1) h else h) { s with tick := s.tick + 1 } else s
    | none => s)

/-- The issuing group issues: it is no longer starved, groups that let it pass note it, and a cycle passes on its pipe
(R232, R278). -/
def issued (s : State) : State :=
  let gid := s.cur.gid
  mapGroups (fun g =>
    let g := { g with yielding := g.yielding.filter (fun y => y != gid) }
    if g.gid = gid && g.starved then { g with starved := false, since := 0 } else g) (cyclePasses s.cur s)

/-- The issuing group gives up the pipe to the groups of it that are ready (R278). -/
def giveUp (s : State) : State :=
  let others := (allGroups s).filter (fun h => !(h.gid = s.cur.gid) && samePipe s.cur h && ready s h)
  updCur (fun g => { g with yielding := others.map Group.gid }) s

/-- YIELD_TIMEOUT (R278): 64 cycles have passed; the group is ready again. -/
def execYieldTimeout (gid : Nat) (s : State) : Result :=
  .next (mapGroups (fun g => if g.gid = gid then { g with yielding := [] } else g) s)

end Sys2Proof.Machine
end

