-- ==== Sys2Proof/Machine/Packets.lean ====
section
/-! DEFINITION. Packets as a Cox thread takes them from its ring (R365, R368 to R372), and the packets PAD, CONFIG, BIND,
WAIT and SIGNAL (R369, R373, R374, R377 to R380). -/
namespace Sys2Proof.Machine

/-- The bits [lo + n - 1 : lo] of a word. -/
def wbits (v : Word) (lo n : Nat) : Nat := v.toNat / 2 ^ lo % 2 ^ n

/-- The Cox has nothing to wait for: no commit drains, and nothing waits for the host port (R102, R113). -/
def coxIdle (s : State) : Bool := !s.commitPend && s.hostAcks.isEmpty && s.heldWrites.isEmpty

/-- What the Cox has still to do writes in a line. -/
def heldIn (pa : Nat) (h : HeldWrite) : Bool :=
  match h with
  | .byte a _ _ => a / 128 = pa / 128
  | .host _ _ | .release | .status _ _ | .cpl _ _ | .interrupt _ _ => false

/-- A read of the Cox in a line of device memory must wait: for a commit (R113), for the host port (R102), or for its own
earlier writes there. -/
def coxWaits (s : State) (pa : Nat) : Bool :=
  s.commitPend || s.heldWrites.any (heldIn pa) || (homeCell s.regions pa).any (fun cell => hostWaits s (cell / 128))

/-- n bytes in one line of device memory as the Cox reads them at their home, uncached and at system scope (R96, R102,
R365): what their sectors hide is dealt with first (R419); poison answers it as a peer port's read, with ones and a record
(DESIGN CHOICE: R362 names no read of the Cox; log 75). -/
def coxBytes (part a n : Nat) (s : State) : State × List Byte :=
  match homeCell s.regions a with
  | none => (noRegionCheck a part s, allOnesBytes n)
  | some cell =>
    let line := cell / 128
    let m := maskRange (cell % 128) n
    let s := checkSectors line (sectorsOf m) s
    if meetsPoison s a line m then (portPoison a line s, allOnesBytes n)
    else
      let s := homeServe line m s
      (s, tbytes s.mem cell n)

/-- n bytes of a ring read (R365): in host memory, or at their homes. -/
def readRing (k : Queue) (a n : Nat) (s : State) : State × List Byte :=
  if k.host then (s, tbytes s.hostMem a n) else coxBytes k.part a n s

/-- The words of some bytes. -/
def wordsFrom (n : Nat) (bs : List Byte) : List Word := (List.range n).map (fun i => BitVec.ofNat 64 (leVal ((bs.drop (8 * i)).take 8)))

/-- The unit with a sequence cannot be read yet. -/
def unitWaits (k : Queue) (seq : Nat) (s : State) : Bool := !k.host && coxWaits s (unitPhys k seq)

/-- The units from a sequence on, read from their ring positions (R365); none where one cannot be read yet. -/
def readUnits (k : Queue) : Nat → Nat → State → State × Option (List Byte)
  | 0, _, s => (s, some [])
  | n + 1, seq, s =>
    if unitWaits k seq s then (s, none)
    else
      let r := readRing k (unitPhys k seq) 64 s
      let q := readUnits k n (seq + 1) r.1
      (q.1, q.2.map (fun bs => r.2 ++ bs))

/-- Word i of a packet. -/
def pword (ws : List Word) (i : Nat) : Word := ws.getD i 0

/-- KIND of a header (R368). -/
def kindOf (ws : List Word) : Nat := wbits (pword ws 0) 0 4

/-- Lengths in units that a kind may have (R369, R388). -/
def lengthOk (ws : List Word) (n : Nat) : Bool :=
  match kindOf ws with
  | 0 => n ≤ 3
  | 1 | 3 | 4 | 5 => n = 1
  | 2 => true
  | 6 => n = 2
  | 7 => if wbits (pword ws 1) 0 3 = 0 then n = 3 else n = 1
  | _ => false

/-- The stream entries that a BIND holds (R378): two in unit 0, four in each further unit. -/
def bindEntries (ws : List Word) (n : Nat) : List (Word × Word) :=
  ([2, 4] ++ (List.range (4 * (n - 1))).map (fun i => 8 + 2 * i)).map (fun i => (pword ws i, pword ws (i + 1)))

/-- NSTREAM (R378). -/
def nstream (ws : List Word) : Nat := wbits (pword ws 1) 0 4 + 1

/-- A BIND that R378 refuses. -/
def badBind (ws : List Word) (n : Nat) : Bool :=
  let es := bindEntries ws n
  wbits (pword ws 1) 4 60 != 0 || pword ws 6 != 0 || es.length < nstream ws ||
  (es.take (nstream ws)).any (fun e => wbits e.1 57 7 != 0 || wbits e.2 42 22 != 0) ||
  (es.drop (nstream ws)).any (fun e => e.1 != 0 || e.2 != 0)

/-- A SET whose fields lie outside their ranges (R388). -/
def badSet (ws : List Word) : Bool :=
  let g := (pword ws 2).toNat
  g < 1000 || 10 ^ 9 < g || wbits (pword ws 3) 0 8 = 0 || wbits (pword ws 3) 8 5 < 16 || 30 < wbits (pword ws 3) 8 5

/-- Reserved bits of a LAUNCH unit (R375). -/
def badLaunch (ws : List Word) : Bool := wbits (pword ws 3) 44 20 != 0 || wbits (pword ws 4) 16 16 != 0

/-- A bad packet (R370). -/
def badPacket (admin : Bool) (ws : List Word) (n : Nat) : Bool :=
  let h := pword ws 0
  wbits h 13 19 != 0 || wbits h 7 1 != 0 || !(lengthOk ws n) ||
  match kindOf ws with
  | 1 => badLaunch ws
  | 2 => badBind ws n
  | 3 => wbits (pword ws 1) 4 60 != 0 || wbits (pword ws 2) 32 32 != 0 || wbits (pword ws 3) 24 40 != 0 ||
      pword ws 4 != 0 || pword ws 5 != 0 || pword ws 6 != 0
  | 4 => 5 < wbits (pword ws 3) 0 4
  | 5 => wbits (pword ws 3) 0 2 = 3
  | 6 => badLaunch (ws.drop 8)
  | 7 => !admin || wbits (pword ws 1) 0 3 = 7 || (wbits (pword ws 1) 0 3 = 1 && badSet ws)
  | _ => false

/-- The thread runs, and its next unit lies below SUBMIT (R370, R372). -/
def headReady (k : Queue) : Bool := k.en && k.state = 1 && !k.refused && k.next < k.submit

/-- A packet that the thread has taken (R372): it is recorded (R392), and completes later. -/
def acceptPkt (q n : Nat) (bs : List Byte) (s : State) : State :=
  let k := queueAt s q
  let int := wbits (pword (wordsFrom 1 bs) 0) 6 1 = 1
  setQueue q (fun k => { k with next := k.next + n, pkts := k.pkts ++ [⟨k.next, n, int, none, [], false, none⟩] })
    (recordWake k.part 1 q bs s)

/-- The thread takes the packet at its next sequence (R370), if it is one of those a test selects: it waits until all its
units are readable, stops the queue on a fault in the order of R370, and else acts on the packet's words. An oversize
packet is refused without the wait, which could not end (log 54). A read of the ring may end the queue's own context (R361),
which stops the thread; one that must wait is made again later. -/
def takePacket (q : Nat) (sel : List Word → Bool) (s : State) (act : List Word → Nat → State → State) : State :=
  let k := queueAt s q
  if !(headReady k) then s
  else match readUnits k 1 k.next s with
  | (h, none) => h
  | (h, some hb) =>
    let n := wbits (pword (wordsFrom 1 hb) 0) 4 2 + 1
    if (queueAt h q).state != 1 then h
    else if 2 ^ k.size < n then queueFault q 2 k.next h
    else if k.submit < k.next + n then s
    else if 2 ^ k.size < k.next % 2 ^ k.size + n then queueFault q 1 k.next h
    else match readUnits k n k.next s with
    | (r, none) => r
    | (r, some bs) =>
      let ws := wordsFrom (8 * n) bs
      if (queueAt r q).state != 1 then r
      else if badPacket k.admin ws n then queueFault q 3 k.next r
      else if sel ws then act ws k.next (acceptPkt q n bs r)
      else s

/-- Packets of one kind. -/
def takeKind (q kind : Nat) (s : State) (act : List Word → Nat → State → State) : State :=
  takePacket q (fun ws => kindOf ws = kind) s act

/-- PAD (R369). -/
def execPadPkt (q : Nat) (s : State) : Result := .next (takeKind q 0 s fun _ seq s => finishPkt q seq 1 s)

/-- The entry that a CONFIG packet writes (R377). -/
def configEntry (ws : List Word) : PipeEntry :=
  let v := pword ws 3
  ⟨wbits (pword ws 1) 0 4, wbits (pword ws 2) 0 32, wbits v 0 2, wbits v 2 7, wbits v 9 4, wbits v 13 5, wbits v 18 6⟩

/-- CONFIG (R377): the entry replaces the old one. -/
def execConfigPkt (q : Nat) (s : State) : Result :=
  .next (takeKind q 3 s fun ws seq s =>
    let e := configEntry ws
    finishPkt q seq 1 (setQueue q (fun k => { k with pipes := e :: k.pipes.filter (fun x => !(x.pipe = e.pipe)) }) s))

/-- A stream entry (R378). -/
def streamOf (e : Word × Word) : Stream :=
  ⟨BitVec.ofNat 57 e.1.toNat, wbits e.2 0 32, wbits e.2 32 5, wbits e.2 37 4, wbits e.2 41 1 = 1, none, none, false, 0⟩

/-- BIND (R379): pending, unless it names a pipeline without an entry. -/
def execBindPkt (q : Nat) (s : State) : Result :=
  .next (takeKind q 2 s fun ws seq s =>
    let xs := ((bindEntries ws 4).take (nstream ws)).map streamOf
    let k := queueAt s q
    if xs.all (fun x => k.pipes.any (fun e => e.pipe = x.pipe)) then
      setQueue q (fun k => { k with pkts := k.pkts.map (fun p => if p.seq = seq then { p with streams := xs } else p) }) s
    else finishPkt q seq 5 s)

/-- The Cox as an accessor (R66, R373, R374): it has no core, and its translations are cached apart from the dies', as those of
a core 385 of its own (DESIGN CHOICE: R65 does not say where the Cox's are cached; log 85). -/
def coxWho (asid : BitVec 16) (part : Nat) : Who := ⟨385, asid, BitVec.ofNat 3 part, 0, 0⟩

/-- The location of the aligned 8 bytes at an address of a WAIT or SIGNAL, which must lie in the global or the host window;
else a faulting target. -/
def coxTarget (k : Queue) (kind : AccKind) (a : Word) (s : State) : State × Xlat :=
  let v : VAddr := BitVec.ofNat 57 (a.toNat / 8 * 8)
  if localBase ≤ v.toNat || windowTarget v = 1 then (s, .fault 1) else translate (coxWho k.asid k.part) kind v s

/-- The 8 bytes at a location as the Cox reads them at system scope. -/
def coxRead (part : Nat) (l : Loc) (s : State) : State × Nat :=
  match l with
  | .dev pa _ =>
    let r := coxBytes part pa 8 s
    (r.1, leVal r.2)
  | .host pa => (s, leVal (tbytes s.hostMem pa 8))
  | .peer _ _ | .smem _ _ | .fifo _ | .absent => (s, 0)

/-- A read of the Cox at a location must wait. -/
def targetWaits (s : State) (l : Loc) : Bool :=
  match l with
  | .dev pa _ => coxWaits s pa
  | .host _ | .peer _ _ | .smem _ _ | .fifo _ | .absent => false

/-- The comparison of a WAIT (R373). -/
def waitHolds (cond v value : Nat) : Bool :=
  if cond = 1 then v = value else if cond = 2 then v != value else if cond = 3 then value ≤ v else v < value

/-- The state of a WAIT (R373): it holds, it does not or cannot be read yet, or its target faults. The value read is kept
(R401). -/
def checkWait (q seq : Nat) (w : Word × Word × Nat) (s : State) : State × Option Bool :=
  let k := queueAt s q
  if w.2.2 = 0 then (s, some (seq ≤ k.cpl))
  else if w.2.2 = 5 then (s, some (w.2.1.toNat ≤ (queueAt s (wbits w.1 0 5)).cpl))
  else
    match coxTarget k .load w.1 s with
    | (s, .fault _) => (s, none)
    | (s, .wait) => (s, some false)
    | (s, .ok l) =>
      if targetWaits s l then (s, some false)
      else
        let r := coxRead k.part l s
        (setQueue q (fun k => { k with seen := BitVec.ofNat 64 r.2 }) r.1, some (waitHolds w.2.2 r.2 w.2.1.toNat))

/-- The thread goes on after a WAIT with a status, or stays blocked on it; a queue that a read has stopped stays so. -/
def decideWait (q seq : Nat) (w : Word × Word × Nat) (s : State) : State :=
  match checkWait q seq w s with
  | (s, some false) => setQueue q (fun k => { k with state := if k.state = 3 then 3 else 2, waits := some w }) s
  | (s, r) =>
    finishPkt q seq (if r.isSome then 1 else 8)
      (setQueue q (fun k => { k with state := if k.state = 2 then 1 else k.state, waits := none }) s)

/-- WAIT (R373). -/
def execWaitPkt (q : Nat) (s : State) : Result :=
  .next (takeKind q 4 s fun ws seq s => decideWait q seq (pword ws 1, pword ws 2, wbits (pword ws 3) 0 4) s)

/-- WAIT_REEVALUATE (R372, R373): the condition of a blocked thread is read again; a thread that a refused PART blocks
goes on (DESIGN CHOICE: R372 does not say what ends that block; log 59). -/
def execWaitReevaluate (q : Nat) (s : State) : Result :=
  let k := queueAt s q
  .next (if k.refused then setQueue q (fun k => { k with refused := false }) s
    else match k.waits with
      | some w => if k.state = 2 then decideWait q (k.next - 1) w s else s
      | none => s)

/-- Bytes written by the Cox in one line at system scope, answered as a peer port's write where they meet poison or a
retired page (R362; DESIGN CHOICE, log 75). -/
def coxWrite (part : Nat) (l : Loc) (bs : List Byte) (s : State) : State :=
  match l with
  | .dev pa _ =>
    match homeCell s.regions pa with
    | none => noRegionCheck pa part s
    | some cell =>
      if meetsPoison s pa (cell / 128) (maskRange (cell % 128) bs.length) then portPoison pa (cell / 128) s
      else putPhys peerTag pa bs s
  | .host pa => putHost pa bs s
  | .peer _ _ | .smem _ _ | .fifo _ | .absent => s

/-- The read-modify-write or store of a SIGNAL at a location (R374). -/
def signalAt (q seq op v : Nat) (l : Loc) (s : State) : State :=
  let part := (queueAt s q).part
  if op = 0 then finishWork q seq 1 (coxWrite part l (leBytes 8 v) s)
  else if op = 1 then
    let r := coxRead part l s
    let bad := match l with
      | .dev pa _ => (homeCell r.1.regions pa).all (fun c => meetsPoison r.1 pa (c / 128) (maskRange (c % 128) 8))
      | _ => false
    finishWork q seq 1 (if bad then r.1 else coxWrite part l (leBytes 8 (r.2 + v)) r.1)
  else finishWork q seq 1 s

/-- A SIGNAL acts (R374), once its release is complete and its target can be reached: its release performs what the reduction
unit holds, and waits for the host port (R107). -/
def signalActs (q seq : Nat) (x : Nat × Word × Nat) (s : State) : State :=
  let s := flushWhere (fun _ => true) s
  if !(released s) then s
  else match coxTarget (queueAt s q) (if x.1 = 2 then .load else .atomic) x.2.1 s with
    | (s, .wait) => s
    | (s, r) =>
      if (match r with | .ok l => targetWaits s l | .wait | .fault _ => false) then s
      else
        let s := setQueue q (fun k => { k with pkts := k.pkts.map (fun p => if p.seq = seq then { p with signal := none } else p) }) s
        match r with
        | .ok l => signalAt q seq x.1 x.2.2 l s
        | .wait | .fault _ => finishPkt q seq 8 s

/-- SIGNAL (R374): the thread hands it on, and it acts at once or later (R372). -/
def execSignalPkt (q : Nat) (s : State) : Result :=
  .next (takeKind q 5 s fun ws seq s =>
    let x := (wbits (pword ws 3) 0 2, pword ws 1, (pword ws 2).toNat)
    signalActs q seq x
      (setQueue q (fun k => { k with pkts := k.pkts.map (fun p => if p.seq = seq then { p with signal := some x } else p) }) s))

/-- The SIGNALs of all queues that have not acted, in ring order. -/
def dueSignals (s : State) : List (Nat × Nat × (Nat × Word × Nat)) :=
  (List.range 32).flatMap (fun q => (queueAt s q).pkts.filterMap (fun p => p.signal.map (fun x => (q, p.seq, x))))

/-- What every group and core has stored is performed at its home (R98). -/
def cleanAll (s : State) : State :=
  let cores := ((s.copies.filter (fun c => c.dirty != 0 && c.client != hostClient)).map Copy.client).eraseDups
  cores.foldl (fun s c => cleanCore c s) s

/-- What the Cox has still to do goes on: the status words that are due are written, once everything that their work has stored
is performed at its home and the host port has acknowledged what that caused (R107, R371), and the SIGNALs that wait act. -/
def endDue (s : State) : State :=
  let s := retryHeld s
  let s := if s.dueStatus.isEmpty then s else retryStatus (cleanAll (performGroups s))
  (dueSignals s).foldl (fun s d => signalActs d.1 d.2.1 d.2.2 s) s

/-- HOST_PORT_ACKNOWLEDGEMENT (R105): the host has given up its copies of a line; what waited for that goes on, unless a fatal
error has stopped the Cox (R428). -/
def execHostPortAcknowledgement (pa : Nat) (s : State) : Result :=
  let s := { s with hostAcks := s.hostAcks.filter (fun c => !(c.pa = pa / 128 * 128)) }
  .next (if s.halted || s.boot != .ready then s else endDue s)

end Sys2Proof.Machine
end

