-- ==== Sys2Proof/Machine/QueueRegs.lean ====
section
/-! DEFINITION. The queue registers as the driver writes and reads them (R364 to R367), and the reset of a queue, rung 2 of
the recovery ladder (R391). -/
namespace Sys2Proof.Machine

/-- A write of SUBMIT that is not kept (R366). -/
def writeSubmit (q v : Nat) (s : State) : State :=
  let k := queueAt s q
  if !k.devenq && k.submit ≤ v && v ≤ k.cpl + 2 ^ k.size then setQueue q (fun k => { k with submit := v }) s
  else logEvent k.part 2 q 0 (BitVec.ofNat 64 v) s

/-- DOORBELL (R366): a write of the register at 0x10. A write made while the queue is stopped is kept. -/
def execDoorbell (q : Nat) (v : Word) (s : State) : Result :=
  let n := wbits v 0 48
  .next (if (queueAt s q).state = 3 then setQueue q (fun k => { k with kept := k.kept ++ [n] }) s else writeSubmit q n s)

/-- A queue starts to run (R370): the kept writes of SUBMIT take effect; a thread that waited goes on waiting. -/
def runQueue (q : Nat) (s : State) : State :=
  let ks := (queueAt s q).kept
  let s := setQueue q (fun k => { k with en := true, state := if k.waits.isSome then 2 else 1, kept := [], refused := false }) s
  ks.foldl (fun s n => writeSubmit q n s) s

/-- The fields of the register at 0x08 that a write changes (R364): all but ASID only while EN = 0. -/
def writeFields (v : Word) (k : Queue) : Queue :=
  let k := { k with asid := BitVec.ofNat 16 (wbits v 16 16) }
  if k.en then k
  else { k with admin := wbits v 15 1 = 1, devenq := wbits v 14 1 = 1, size := wbits v 0 5 }

/-- A write of EN (R364): accepted with a SIZE from 1 to 16, once the boot is done (R426). -/
def writeEn (q : Nat) (en : Bool) (s : State) : State :=
  let k := queueAt s q
  if en && !k.en then (if 1 ≤ k.size && k.size ≤ 16 && s.boot == .ready then runQueue q s else s)
  else if !en && k.en then setQueue q (fun k => { k with en := false, state := 0 }) s
  else s

/-- QUEUE_EN_WRITE (R364): a write of the register at 0x08 without RST. -/
def execQueueEnWrite (q : Nat) (v : Word) (s : State) : Result :=
  .next (writeEn q (wbits v 13 1 = 1) (setQueue q (writeFields v) s))

/-- Spans that a queue reset cancels (R391): those not placed and those parked. -/
def cancelled (x : Span) : Bool :=
  match x.st with
  | .waiting | .parked => true
  | _ => false

/-- A span that has run or is to run on after a queue reset. -/
def runsOn (x : Span) : Bool :=
  match x.st with
  | .placed | .saved => true
  | _ => false

/-- A launch's groups and teams go at once, as R352 ends them (R382). -/
def endLaunch (id : Nat) (s : State) : State :=
  let ts := s.teams.filter (fun t => t.launch = id)
  let s := { s with
    groups := s.groups.filter (fun g => !(g.launch = id)),
    cur := if s.cur.launch = id then { s.cur with placed := false } else s.cur,
    saves := s.saves.filter (fun v => !(v.launch = id)) }
  ts.foldl (fun s t => freeTeam t.core t.slot s) s

/-- A launch of a queue that is reset (R382, R391): a TIMED one that is placed ends; else its cancelled spans go, and what
runs on no longer reports. -/
def resetLaunch (l : Launch) (s : State) : State :=
  let s := { s with roundDue := s.roundDue ++ reservedDies l }
  let gone := fun (s : State) => { s with launches := s.launches.filter (fun x => !(x.id = l.id)) }
  if l.timed.isSome && l.spans.any runsOn then gone (endLaunch l.id s)
  else
    let s := { s with saves := s.saves.filter (fun v =>
      !(v.launch = l.id && l.spans.any (fun x => x.num = v.span && x.st == .parked))) }
    if l.spans.any runsOn then
      setLaunch l.id (fun l => { l with orphan := true, spans := l.spans.filter (fun x => !(cancelled x)) }) s
    else gone s

/-- The launch of a packet. -/
def launchAt (s : State) (q seq : Nat) : Option Launch := s.launches.find? (fun l => l.queue = q && l.seq = seq && !l.orphan)

/-- A packet that a queue reset completes with status 0x07 (R391): unplaced or held work, a WAIT, a pending BIND, a SIGNAL that
has not acted. -/
def cancelsPkt (s : State) (q : Nat) (p : Pkt) : Bool :=
  let k := queueAt s q
  p.status.isNone && (!p.streams.isEmpty || p.signal.isSome || (k.waits.isSome && p.seq + p.units = k.next) ||
    (launchAt s q p.seq).any (fun l => l.timed.isSome || l.spans.any cancelled))

/-- The packets of a queue that its thread has not read, from a sequence up to SUBMIT, with the status 0x07 that a reset
gives them (R391). A header whose line the Cox may not read yet is taken as its home holds it. -/
def cancelUnread (q : Nat) : Nat → Nat → State → State
  | 0, _, s => s
  | fuel + 1, seq, s =>
    let k := queueAt s q
    let r := if unitWaits k seq s then (s, peekBytes s (unitPhys k seq) 8) else readRing k (unitPhys k seq) 8 s
    let h := pword (wordsFrom 1 r.2) 0
    let n := wbits h 4 2 + 1
    if k.submit < seq + n then s
    else
      cancelUnread q fuel (seq + n) (finishPkt q seq 7
        (setQueue q (fun k => { k with pkts := k.pkts ++ [⟨seq, n, wbits h 6 1 = 1, none, [], false, none⟩] }) r.1))

/-- The status words of a queue that are due are written before its reset passes them, behind their release (R107, R391). -/
def settleDue (q : Nat) (s : State) : State :=
  let due := s.dueStatus.filter (fun d => d.1 = q)
  if due.isEmpty then s
  else due.foldl (fun s d => finishPkt d.1 d.2.1 d.2.2 s)
    (doHeld .release { s with dueStatus := s.dueStatus.filter (fun d => !(d.1 = q)) })

/-- Rung 2 (R391): statuses in ring order, then the launches of the queue, then the queue's own registers; CPL passes no status
word that has still to be written (R371). -/
def resetQueueRung (q : Nat) (s : State) : State :=
  let s := settleDue q s
  let out := (queueAt s q).pkts.filter (cancelsPkt s q)
  let s := out.foldl (fun s p => finishPkt q p.seq 7 s) s
  let s := cancelUnread q ((queueAt s q).submit - (queueAt s q).next) (queueAt s q).next s
  let ls := s.launches.filter (fun l => l.queue = q && !l.orphan)
  let s := ls.foldl (fun s l => resetLaunch l s) s
  let at_ := (queueAt s q).submit
  queueFault q 5 at_ (doHeld (.cpl q at_)
    (setQueue q (fun k => { k with next := at_, pkts := [], waits := none, refused := false }) s))

/-- The event-log record of a rung of the ladder (R391). -/
def logRung (part q rung : Nat) (s : State) : State := logEvent part 8 q rung 0 s

/-- QUEUE_RST (R391): RST written with 1. -/
def execQueueRst (q : Nat) (s : State) : Result :=
  .next (logRung (queueAt s q).part q 2 (resetQueueRung q s))

/-- The status word of a queue at 0x20 (R364). -/
def queueStatus (k : Queue) : Word := BitVec.ofNat 64 (k.fseq % 2 ^ 48 * 2 ^ 16 + k.fault % 256 * 256 + k.state)

/-- The register block of a queue (R364): ring base, control, SUBMIT, CPL, status, ELSEQ, and two reserved words. -/
def queueBlock (s : State) (q : Nat) : List Word :=
  let k := queueAt s q
  [BitVec.ofNat 64 (k.host.toNat * 2 ^ 63 + k.base), BitVec.ofNat 64 (k.asid.toNat * 2 ^ 16 + k.admin.toNat * 2 ^ 15 +
    k.devenq.toNat * 2 ^ 14 + k.en.toNat * 2 ^ 13 + k.part * 2 ^ 9 + k.size),
   BitVec.ofNat 64 (k.submit % 2 ^ 48), BitVec.ofNat 64 (k.cpl % 2 ^ 48), queueStatus k,
   BitVec.ofNat 64 ((partOf s k.part).elSeq - 1), 0, 0]

/-- QUEUE_SNAPSHOT_READ (R367): SUBMIT, CPL, the status word and ELSEQ of one instant. -/
def execQueueSnapshotRead (q : Nat) (s : State) : Result :=
  .next { s with hostRead := ((queueBlock s q).drop 2).take 4 }

end Sys2Proof.Machine
end

