-- ==== Sys2Proof/Machine/Marshal.lean ====
section
/-! DEFINITION. The shape of a launch and where its teams fit (R76, R79, R82, R220 to R223, R230, R384). -/
namespace Sys2Proof.Machine

/-- The columns and rows of a die's mesh. -/
def meshCols : Nat := 12
def meshRows : Nat := 8

/-- What R230 gives of a kernel header: SMEM and the four role entries. -/
structure KernelHeader where
  smem : Nat
  roles : List RoleEntry
  deriving DecidableEq, Repr

/-- A role entry that R230 accepts. -/
def roleOk (r : Nat) (v : Word) : Bool :=
  wbits v 10 22 = 0 && wbits v 5 3 = 0 && wbits v 0 5 ≤ 16 && wbits v 32 2 = 0 && (wbits v 0 5 != 0 || v = 0) &&
  (r != 0 || (wbits v 0 5 != 0 && wbits v 8 2 = 0 && wbits v 32 32 = 0))

/-- A kernel header that R230 accepts. -/
def parseHeader (ws : List Word) : Option KernelHeader :=
  let rs := (List.range 4).map (fun r => pword ws (2 + r))
  if pword ws 0 = 0x4B480001 && wbits (pword ws 1) 13 51 = 0 && wbits (pword ws 1) 0 13 ≤ 6144 &&
      (List.range 4).all (fun r => roleOk r (rs.getD r 0)) && pword ws 6 = 0 && pword ws 7 = 0 then
    some ⟨wbits (pword ws 1) 0 13, rs.map (fun v => ⟨wbits v 0 5, BitVec.ofNat 2 (wbits v 8 2), BitVec.ofNat 32 (wbits v 32 32)⟩)⟩
  else none

/-- The header of a kernel read at system scope under an ASID (R230, R376): none where the read faults, leaves the global
window or meets poison, or R230 refuses the header. The outer option is none while the walk waits, and for a reader that
may wait while the line does. -/
def readHeader (waits : Bool) (asid : BitVec 16) (part : Nat) (entry : VAddr) (s : State) : State × Option (Option KernelHeader) :=
  let a := entry - 64
  if 0x100000000000000 ≤ a.toNat then (s, some none)
  else match translateP (coxWho asid part) .load a s with
    | (s, .ok (.dev pa _)) =>
      if waits && coxWaits s pa then (s, none)
      else
        let r := coxBytes part pa 64 s
        let bad := (homeCell r.1.regions pa).any (fun c => meetsPoison r.1 pa (c / 128) (maskRange (c % 128) 64))
        (r.1, some (if bad then none else parseHeader (wordsFrom 8 r.2)))
    | (s, .wait) => (s, none)
    | (s, _) => (s, some none)

/-- A launch's fields from its unit (R375), before its dies are given their spans. -/
def launchOf (q seq part id : Nat) (timed : Option (Nat × Nat)) (ws : List Word) : Launch :=
  let v := pword ws 3
  let addr := fun i => BitVec.ofNat 57 (pword ws i).toNat
  let dies := (List.range 4).filter (fun d => wbits v (19 + d) 1 = 1)
  let spans := (List.range dies.length).map (fun i => (⟨i, dies.getD i 0, .waiting, 0, [], false⟩ : Span))
  { id := id, queue := q, seq := seq, entry := addr 1, data := addr 2, tvec := addr 5, save := addr 6,
    groups := wbits v 0 5 + 1, w := wbits v 5 4 + 1, h := wbits v 9 3 + 1, clusters := wbits v 12 7 + 1,
    smem := wbits v 23 13, regs := wbits v 36 4 + 1, pclass := wbits v 40 2, cor := wbits v 42 1 = 1,
    priv := wbits v 43 1 = 1, asid := BitVec.ofNat 16 (wbits (pword ws 4) 0 16), grid := wbits (pword ws 4) 32 32,
    part := part, timed := timed, held := timed.isSome, started := timed.isNone, late := none, orphan := false, spans := spans }

/-- The cores of a cluster with an origin on a die, row-major from the north-west corner (R58, R221). -/
def clusterCores (die w h origin : Nat) : List Nat :=
  (List.range h).flatMap (fun i => (List.range w).map (fun j => 96 * die + origin + 12 * i + j))

/-- The origins of a die at which a cluster stays on the mesh, rows first (R384). -/
def origins (w h : Nat) : List Nat :=
  (List.range meshRows).flatMap (fun r =>
    ((List.range meshCols).filter (fun c => c + w ≤ meshCols && r + h ≤ meshRows)).map (fun c => 12 * r + c))

/-- Clusters placed one at a time (R384): each at the first origin where every core can take a team; a core takes one team
of a launch (R220). Answers the cores cluster by cluster. -/
def packClusters (ok : Nat → Bool) (die w h : Nat) : Nat → List Nat → Option (List (List Nat))
  | 0, _ => some []
  | n + 1, used =>
    match (origins w h).find? (fun o => (clusterCores die w h o).all (fun c => ok c && !(used.contains c))) with
    | none => none
    | some o =>
      let cs := clusterCores die w h o
      (packClusters ok die w h n (used ++ cs)).map (fun r => cs :: r)

/-- The core belongs to a partition (R387). -/
def coreIn (s : State) (part core : Nat) : Bool := tget 0 s.coreOwner core = part

/-- The shape keeps to R220 and the fields to their ranges. -/
def shapeOk (l : Launch) : Bool := l.w ≤ 12 && l.w * l.h ≤ 12 && !l.spans.isEmpty && l.smem ≤ 6144

/-- Every die of the launch has a core of the partition (R376). -/
def diesOk (s : State) (l : Launch) : Bool := l.spans.all (fun x => (List.range 96).any (fun i => coreIn s l.part (96 * x.die + i)))

/-- Every span would fit the partition's cores on its die with no other team present (R376). -/
def spansFit (s : State) (l : Launch) : Bool :=
  l.spans.all (fun x => (packClusters (coreIn s l.part) x.die l.w l.h l.clusters []).isSome)

/-- The kernel header of a launch passes the checks of R376. -/
def headerFits (l : Launch) (h : KernelHeader) : Bool := h.smem ≤ l.smem && h.roles.all (fun r => r.allot ≤ l.regs)

/-- V and part of an ASID-table entry (R67, R70), once it can be read. -/
def asidEntry (asid : BitVec 16) (part : Nat) (s : State) : State × Option Bool :=
  let a := s.asidBase.toNat + 16 * asid.toNat
  if coxWaits s a then (s, none)
  else
    let r := coxBytes part a 16 s
    (r.1, some (leVal r.2 % 2 = 1 && leVal r.2 / 2 ^ 80 % 8 = part))

/-- The checks of a LAUNCH (R376): the status of the first that fails, or none; the outer option is none while one of
its reads waits. A co-resident launch that exceeds its partition's cores is not co-residable (R233), where the check of
each span would give 0x04 before (DEDUCED; log 71). -/
def checkLaunch (l : Launch) (s : State) : State × Option (Option Nat) :=
  match asidEntry l.asid l.part s with
  | (s, none) => (s, none)
  | (s, some false) => (s, some (some 2))
  | (s, some true) =>
    if !(shapeOk l && diesOk s l && (l.cor || spansFit s l) && l.entry.toNat % 64 = 0 && l.data.toNat % 4096 = 0) then (s, some (some 4))
    else match readHeader true l.asid l.part l.entry s with
      | (s, none) => (s, none)
      | (s, some none) => (s, some (some 4))
      | (s, some (some h)) =>
        (s, some (if !(headerFits l h) then some 4 else if l.cor && !(spansFit s l) then some 3 else none))

/-- A launch packet that a thread has taken, in a state `s0` before: one that passes goes on, one that fails completes with
its status, and one whose reads wait is not taken yet. -/
def submitLaunch (q seq : Nat) (l : Launch) (s0 s : State) : State :=
  match checkLaunch l s with
  | (_, none) => s0
  | (s, some (some code)) => finishPkt q seq code s
  | (s, some none) => { s with launches := s.launches ++ [l], gids := s.gids + 1 }

/-- LAUNCH (R376): a launch that passes hands its spans to the marshals, in the order of submission. -/
def execLaunchPkt (q : Nat) (s : State) : Result :=
  .next (takeKind q 1 s fun ws seq s1 => submitLaunch q seq (launchOf q seq (queueAt s1 q).part s1.gids none ws) s s1)

/-- Packets in the stakeboat (R381). -/
def inStakeboat (s : State) : Nat := (s.launches.filter Launch.held).length

/-- TIMED (R381): the image of unit 1 is checked and the packet put into the stakeboat; the thread blocks while it is
full. -/
def execTimedPkt (q : Nat) (s : State) : Result :=
  .next (takePacket q (fun ws => kindOf ws = 6 && inStakeboat s < 64) s fun ws seq s1 =>
    let t := ((pword ws 1).toNat, (pword ws 2).toNat)
    submitLaunch q seq (launchOf q seq (queueAt s1 q).part s1.gids (some t) (ws.drop 8)) s s1)

/-- A team's plan on a core: its slot, the base of extent 0, and each group's pipe and first register block. -/
structure TeamPlan where
  slot : Nat
  base : Nat
  places : List (Nat × Nat)
  deriving DecidableEq, Repr

/-- Register blocks in use on the pipes of a core: pipe, first block, count (R76). -/
def blocksUsed (s : State) (core : Nat) : List (Nat × Nat × Nat) :=
  ((allGroups s).filter (fun g => g.core = core)).map (fun g => (g.pipe, g.blk, g.nblk))

/-- The first block of the lowest free run of n blocks on a pipe, which holds at most 32 groups (R76, R223). -/
def freeRun (used : List (Nat × Nat × Nat)) (n pipe : Nat) : Option Nat :=
  let here := used.filter (fun u => u.1 = pipe)
  if 32 ≤ here.length then none
  else (List.range (65 - n)).find? (fun b => here.all (fun u => b + n ≤ u.2.1 || u.2.1 + u.2.2 ≤ b))

/-- The pipe and block of a group (R223): the first pipe from g modulo 8 upward with room. -/
def placeGroup (used : List (Nat × Nat × Nat)) (n g : Nat) : Option (Nat × Nat) :=
  (List.range 8).findSome? (fun i => (freeRun used n ((g + i) % 8)).map (fun b => ((g + i) % 8, b)))

/-- Every group of a team placed, in order (R223); none if one does not fit. -/
def placeGroups (n : Nat) : List Nat → List (Nat × Nat × Nat) → Option (List (Nat × Nat))
  | [], _ => some []
  | g :: r, used =>
    match placeGroup used n g with
    | none => none
    | some p => (placeGroups n r ((p.1, p.2, n) :: used)).map (fun ps => p :: ps)

/-- The groups of a saved team placed as they would start, but each that is in crew mode on a pipe without a crew (R291,
R356): their places in the team, with whether they hold a crew, the blocks in use, the pipes that hold a crew. -/
def placeSaved (n : Nat) : List (Nat × Bool) → List (Nat × Nat × Nat) → List Nat → Option (List (Nat × Nat))
  | [], _, _ => some []
  | (g, crew) :: r, used, crews =>
    match placeGroup (if crew then used ++ crews.map (fun p => (p, 0, 64)) else used) n g with
    | none => none
    | some p =>
      (placeSaved n r ((p.1, p.2, n) :: used) (if crew then p.1 :: crews else crews)).map (fun ps => p :: ps)

/-- The pipes of a core that hold a crew (R291). -/
def crewPipes (s : State) (core : Nat) : List Nat :=
  ((allGroups s).filter (fun g => g.core = core && g.crew.isSome)).map Group.pipe

/-- A bank that extent 0 may take (R79, R384): in no allocation, no FIFO, no switch in progress. -/
def bankTakes (s : State) (core b : Nat) : Bool :=
  let k := bankOf s core b
  !(bankAlloc s core b) && k.mode != .fifo && k.next.isNone

/-- Banks that a size in 256-byte units needs. -/
def banksFor (smem : Nat) : Nat := (smem * 256 + 0x7FFF) / 0x8000

/-- The first bank of the lowest run that holds extent 0 (R384); bank 0 for an empty one. -/
def bankRun (s : State) (core smem : Nat) : Option Nat :=
  let n := banksFor smem
  if n = 0 then some 0
  else (List.range (49 - n)).find? (fun b => (List.range n).all (fun i => bankTakes s core (b + i)))

/-- The lowest free team slot of a core (R79). -/
def freeSlot (s : State) (core : Nat) : Option Nat :=
  (List.range 8).find? (fun t => !(s.teams.any (fun x => x.core = core && x.slot = t)))

/-- How a core would take a team of a launch (R223, R384), reservations apart. -/
def planTeam (s : State) (l : Launch) (core : Nat) : Option TeamPlan :=
  match freeSlot s core, bankRun s core l.smem, placeGroups l.regs (List.range l.groups) (blocksUsed s core) with
  | some t, some b, some ps => some ⟨t, 0x8000 * b, ps⟩
  | _, _, _ => none

/-- A core is reserved against a candidate: for another launch of equal or higher class (R384). -/
def reservedFor (s : State) (l : Launch) (core : Nat) : Bool :=
  s.launches.any (fun x => !(x.id = l.id) && l.pclass ≤ x.pclass && x.spans.any (fun p => p.resv.contains core))

/-- A core can take a team of a launch (R384). -/
def canTake (s : State) (l : Launch) (core : Nat) : Bool :=
  coreIn s l.part core && !(reservedFor s l core) && (planTeam s l core).isSome

end Sys2Proof.Machine
end

