-- ==== Sys2Proof/Machine/Engine.lean ====
section
/-! DEFINITION. The copy engine (R182 to R189), its event queue (R92, R188), the range-overlap scoreboard (R331, R332),
and `sfree` (R167). A word of local memory is a number: core * 0x60000 + word. -/
namespace Sys2Proof.Machine

/-- The engines at the homes: a client that holds no copy (R100). -/
def engineClient : Nat := 386

/-- A team as an accessor: what its engine operations translate under (R66). -/
def teamWho (core slot : Nat) (s : State) : Who :=
  match teamAt s core slot with
  | some t => ⟨core, t.asid, t.part, slot, t.nteam⟩
  | none => ⟨core, 0, 0, slot, 0⟩

/-- The word of a local address. -/
def localWord (w : Who) (s : State) (a : VAddr) : Option Nat :=
  if localBase ≤ a.toNat then
    match localLoc w (a.toNat - localBase) s with
    | .ok (.smem c o) => some (c * 0x60000 + o / 4)
    | _ => none
  else none

/-- The words that hold n bytes from a local address. -/
def wordsAt (w : Who) (s : State) (a : VAddr) (n : Nat) : List Nat :=
  (List.range ((a.toNat % 4 + n + 3) / 4)).filterMap (fun i => localWord w s (a - BitVec.ofNat 57 (a.toNat % 4) + BitVec.ofNat 57 (4 * i)))

/-- The offsets of a descriptor's elements at source and destination (R182), dimension 0 innermost. -/
def elemOffsets : List Dim → List (Int × Int)
  | [] => [(0, 0)]
  | d :: ds => (elemOffsets ds).flatMap (fun o =>
      (List.range d.ext).map (fun (i : Nat) => (o.1 + (i : Int) * d.sstr, o.2 + (i : Int) * d.dstr)))

/-- The source and destination addresses of a copy's elements, modulo 2^57 (R182). -/
def copyElems (c : CopyOp) : List (VAddr × VAddr) :=
  (elemOffsets c.dims).map (fun o => (c.src + BitVec.ofInt 57 o.1, c.dst + BitVec.ofInt 57 o.2))

/-- The aligned 256-byte block of an address. -/
def blockOf (a : VAddr) : VAddr := a - BitVec.ofNat 57 (a.toNat % 256)

/-- The destination blocks of a copy, each once (R184). -/
def copyBlocks (c : CopyOp) : List VAddr :=
  ((copyElems c).flatMap (fun e => [blockOf e.2, blockOf (e.2 + BitVec.ofNat 57 (c.esize - 1))])).eraseDups

/-- Blocks of a copy that are not written. -/
def blocksLeft (c : CopyOp) : List VAddr := (copyBlocks c).filter (fun b => !(c.blocks.contains b))

/-- Local words that some element addresses touch. -/
def elemWords (w : Who) (s : State) (n : Nat) (as : List VAddr) : List Nat :=
  if as.any (fun a => localBase ≤ a.toNat) then as.flatMap (fun a => wordsAt w s a n) else []

/-- The read set and the write set of an operation (R331). -/
structure Sets where
  reads : List Nat
  writes : List Nat
  deriving DecidableEq, Repr

/-- Two lists of words share one. -/
def overlaps (a b : List Nat) : Bool := a.any b.contains

/-- Two operations conflict (R332). -/
def setsConflict (x y : Sets) : Bool :=
  overlaps x.writes y.writes || overlaps x.writes y.reads || overlaps x.reads y.writes

/-- The sets of a copy (R331). -/
def copySets (s : State) (c : CopyOp) : Sets :=
  let w := teamWho c.core c.slot s
  let es := copyElems c
  ⟨elemWords w s c.esize (es.map (fun e => e.1)), elemWords w s c.esize (es.map (fun e => e.2))⟩

/-- A field of a slot's configuration block (R323). -/
def cfgBits (k : Slot) (i lo n : Nat) : Nat := (k.cfg.getD i 0).toNat / 2 ^ lo % 2 ^ n

/-- The words of a region (R322): some rows of some bytes. -/
def regionWords (w : Who) (s : State) (base pitch rows bytes : Nat) : List Nat :=
  (List.range rows).flatMap (fun r => wordsAt w s (BitVec.ofNat 57 (base + r * pitch)) bytes)

/-- Bytes of an operand row (R322). -/
def rowBytes (o : MxOp) : Nat := (o.k * tyBits o.ty + 7) / 8

/-- The words of region A of a slot (R322). -/
def aWords (s : State) (k : Slot) (o : MxOp) : List Nat :=
  regionWords (teamWho k.core k.team s) s (cfgBits k 0 0 57) (cfgBits k 4 0 24) o.m (rowBytes o)
/-- The words of region B. -/
def bWords (s : State) (k : Slot) (o : MxOp) : List Nat :=
  regionWords (teamWho k.core k.team s) s (cfgBits k 1 0 57) (cfgBits k 4 32 24) o.n (rowBytes o)
/-- The words of region D. -/
def dWords (s : State) (k : Slot) (o : MxOp) : List Nat :=
  regionWords (teamWho k.core k.team s) s (cfgBits k 2 0 57) (cfgBits k 5 0 24) o.m (4 * o.n)
/-- The words of region OUT: none without a base. -/
def oWords (s : State) (k : Slot) (o : MxOp) : List Nat :=
  if cfgBits k 3 0 57 = 0 then []
  else regionWords (teamWho k.core k.team s) s (cfgBits k 3 0 57) (cfgBits k 5 32 24) o.m (4 * o.n)

/-- The sets of a slot's firing (R331). -/
def firingSets (s : State) (k : Slot) : Sets :=
  match k.op with
  | none => ⟨[], []⟩
  | some o => ⟨aWords s k o ++ bWords s k o, dWords s k o⟩

/-- A slot as a `sacc` sees it: with the configuration and the operation that stood when it issued (DESIGN CHOICE: R338
does not say what a later `mxcfg` or `mma` does to a queued one; log 77). -/
def saccSlot (k : Slot) (c : MxCmd) : Slot := { k with cfg := c.cfg, op := some c.op }

/-- The sets of a `sacc` (R331). -/
def saccSets (s : State) (k : Slot) (c : MxCmd) : Sets :=
  match k.op with
  | none => ⟨[], []⟩
  | some o =>
    let w := teamWho k.core k.team s
    let d := dWords s k o
    let out := oWords s k o
    ⟨d ++ out ++ wordsAt w s c.sa o.m ++ wordsAt w s c.sb o.n, out ++ d⟩

/-- The sets of an `mxspill` from a first word (R331, R341). -/
def spillSets (word : Nat) : Sets := ⟨[], (List.range 1024).map (fun i => word + i)⟩

/-- The slots of a team. -/
def teamSlots (s : State) (core slot : Nat) : List Slot := s.slots.filter (fun k => k.core = core && k.team = slot)

/-- A firing that holds a bank. -/
def inFiring (k : Slot) : Bool := k.st == .firing || k.st == .suspended

/-- The sets of a team's running firings. -/
def firingsOf (s : State) (core slot : Nat) : List Sets :=
  ((teamSlots s core slot).filter inFiring).map (firingSets s)

/-- The first word of an `mxspill` that a group of a team waits to start. -/
def spillOf (core slot : Nat) (g : Group) : Option (Nat × Nat) :=
  match g.wait with
  | some (.spill w) => if g.placed && g.core = core && g.slot = slot then some (g.since, w) else none
  | _ => none

/-- The commands of a team that have not completed: order of issue, whether started, sets (R332). -/
def commandsOf (s : State) (core slot : Nat) : List (Nat × Bool × Sets) :=
  (s.copyOps.filter (fun c => c.core = core && c.slot = slot)).map (fun c => (c.issued, c.st == .running, copySets s c)) ++
  (teamSlots s core slot).flatMap (fun k => k.cmds.map (fun c => (c.issued, c.running, saccSets s (saccSlot k c) c))) ++
  ((s.cur :: s.groups).filterMap (spillOf core slot)).map (fun x => (x.1, false, spillSets x.2))

/-- The scoreboard lets a command of a team start (R332): no command issued before it, and no running firing,
conflicts with it. -/
def commandFree (core slot issued : Nat) (x : Sets) (s : State) : Bool :=
  !((commandsOf s core slot).any (fun c => c.1 < issued && setsConflict x c.2.2)) &&
  !((firingsOf s core slot).any (setsConflict x))

/-- The scoreboard lets a firing of a team start (R332): no started command and no running firing conflicts. -/
def firingFree (k : Slot) (s : State) : Bool :=
  let x := firingSets s k
  !((commandsOf s k.core k.team).any (fun c => c.2.1 && setsConflict x c.2.2)) &&
  !((firingsOf s k.core k.team).any (setsConflict x))

/-- The order of issue of the next command. -/
def nextIssue (s : State) : Nat := s.tick + 1

/-- A request type by its code (R38). -/
def reqType : Nat → Option ReqTy
  | 0 => some .none | 1 => some .own | 2 => some .wt | 3 => some .si | 4 => some .unc | _ => none

/-- A descriptor's header (R182): source, destination, request types, element size, number of dimensions. -/
structure DescHead where
  src : VAddr
  dst : VAddr
  srt : ReqTy
  drt : ReqTy
  esize : Nat
  ndim : Nat
  deriving DecidableEq, Repr

/-- A header's fields, none where R183 refuses it. -/
def parseHead (bs : List Byte) : Option DescHead :=
  let w := fun i => leVal ((bs.drop (8 * i)).take 8)
  let c := w 2
  if 2 ^ 57 ≤ w 0 || 2 ^ 57 ≤ w 1 || 2 ^ 15 ≤ c || c / 2 ^ 11 % 2 != 0 || c / 2 ^ 7 % 2 != 0 || w 3 != 0 then none
  else if 4 < c / 16 % 8 || c % 16 = 0 || 12 < c % 16 then none
  else match reqType (c / 2 ^ 8 % 8), reqType (c / 2 ^ 12 % 8) with
    | some srt, some drt => some ⟨BitVec.ofNat 57 (w 0), BitVec.ofNat 57 (w 1), srt, drt, 2 ^ (c / 16 % 8), c % 16⟩
    | _, _ => none

/-- One dimension entry (R182). -/
def parseDim (n : Nat) : Dim :=
  ⟨n % 2 ^ 32, (BitVec.ofNat 48 (n / 2 ^ 32)).toInt, (BitVec.ofNat 48 (n / 2 ^ 80)).toInt⟩

/-- The dimension entries, none where R183 refuses them. -/
def parseDims (h : DescHead) (bs : List Byte) : Option (List Dim) :=
  let ds := (List.range h.ndim).map (fun i => parseDim (leVal ((bs.drop (16 * i)).take 16)))
  if ds.any (fun d => d.ext = 0) || 2 ^ 40 ≤ ds.foldl (fun n d => n * d.ext) h.esize then none else some ds

/-- An address in the FIFO space or in the reserved range (R57, R183). -/
def notCopyable (a : VAddr) : Bool :=
  (0x1C0000000000000 ≤ a.toNat && a.toNat < localBase) ||
  (localBase + 0x200000000 ≤ a.toNat && a.toNat < localBase + 0x200180000)

/-- Any byte of some elements lies where a copy may not go (R183). -/
def badOperand (n : Nat) (as : List VAddr) : Bool :=
  as.any (fun a => notCopyable a || notCopyable (a + BitVec.ofNat 57 (n - 1)))

/-- The check of R83 on a local operand of an engine command: the range from its lowest to its highest byte. `taddr` of the
trap is the operand's lowest byte address (DESIGN CHOICE: R83 and R183 name none; log 21). -/
def localOperand (k : AccKind) (n : Nat) (as : List VAddr) (s : State) (cont : State → State) : State :=
  if as.all (fun a => a.toNat < localBase) then cont s
  else
    let lo := as.foldl (fun m a => min m a.toNat) (2 ^ 57)
    let hi := as.foldl (fun m a => max m (a.toNat + n)) 0
    let a : VAddr := BitVec.ofNat 57 lo
    match translate (whoOf s.cur) k a s with
    | (s, .fault f) => oneTrap .translation (BitVec.ofNat 16 f) (a.setWidth 64) (faultRecord (dieOf s.cur.core) s.cur.asid a f s)
    | (s, .wait) => block .posted s
    | (s, .ok _) =>
      if localBase ≤ lo && allocOk (whoOf s.cur) a (hi - lo) s then cont s
      else oneTrap .allocation 0 (a.setWidth 64) s

/-- The checks of R177 on a command's object: none for 0. -/
def commandObject (v : Word) (s : State) (k : State → State) : State :=
  let a : VAddr := v.setWidth 57
  if v = 0 then k s
  else checkOne .store 1 16 a v objSpace .alignment (a.toNat % 16 == 0) s fun _ _ s => k s

/-- The group's posted operations performed first (R121: they are before what an engine command starts). -/
def drained (s : State) (k : State → State) : State := afterNeeded (fun _ => true) [] s k

/-- Where a descriptor may lie (R182): the global window or the team scratchpad. One that lies elsewhere, or is not aligned
to 32 bytes, traps "descriptor" (DESIGN CHOICE: no rule names the cause; log 36). -/
def descSpace (a : VAddr) (_ : Loc) : Option Cause :=
  if a.toNat < 0x100000000000000 || (localBase ≤ a.toNat && a.toNat < localBase + 0x180000) then none
  else some .descriptor

/-- Bytes that an engine command reads as a `.unc` load of its group (R183); poison traps at once. -/
def readDesc (a : VAddr) (n : Nat) (l1 l2 : Loc) (v : Word) (s : State) (k : List Byte → State → State) : State :=
  let ls := spanLocs a n l1 l2
  if ls.any (locBusy s) then block .posted s
  else
    let r := readEach (whoOf s.cur) .unc ls s
    ifRuns s.cur r.1 fun s => if r.2.poison then oneTrap .poison 1 v s else k r.2.bytes s

/-- The copy engines of a die that a partition owns (R387): the device has 32, numbered 8 die + engine. -/
def enginesOf (s : State) (die part : Nat) : List Nat :=
  (List.range 8).map (fun i => 8 * die + i) |>.filter (fun e => tget 0 s.engineOwner e = part)

/-- A copy engine for a copy of a core: any of its die that its partition owns (R387), by a free choice (log 6). -/
def pickEngine (s : State) (core part free : Nat) : Option Nat :=
  let es := enginesOf s (dieOf core) part
  es[Config.freeNat free % es.length]?

/-- A copy engine as an engine that appends records (R92). -/
def recorderOf (c : CopyOp) : Nat := (c.engine.map (fun e => e + 1)).getD 0

/-- An identifier of a copy (R185): any 16-bit value but 0 that no outstanding copy of the core holds (log 6). -/
def freshIdent (s : State) (core : Nat) : Nat :=
  let base := Config.freeNat s.free
  let used := (s.copyOps.filter (fun c => c.core = core)).map CopyOp.ident
  ((List.range (used.length + 1)).map (fun i => (base + i) % 65535 + 1)).find? (fun i => !(used.contains i)) |>.getD 1

/-- Copies of a team that have not completed (R185). -/
def copiesOf (s : State) (core slot : Nat) : List CopyOp := s.copyOps.filter (fun c => c.core = core && c.slot = slot)

/-- A checked copy queued, its identifier written (R185). -/
def issueCopy (i : SReg) (c : CopyOp) (s : State) : State :=
  if 16 ≤ (copiesOf s s.cur.core s.cur.slot).length then block .engine s
  else
    let n := freshIdent s s.cur.core
    advance 16 (setS i (BitVec.ofNat 64 n)
      { s with
        copyOps := s.copyOps ++ [{ c with ident := n, issued := nextIssue s, engine := pickEngine s c.core c.part.toNat (s.free + 1) }],
        tick := s.tick + 1, free := s.free + 2 })

/-- `copy.t` and `copy.arm` (R183, R185, R186). -/
def copyOp (trigger : Option SReg) (ev : Bool) (i d o : SReg) (s : State) : State :=
  notCrew s fun s => onceForGroup 16 s fun s => afterFence s fun s => drained s fun s =>
    let v := getS s d
    let a : VAddr := v.setWidth 57
    checkOne .load 32 32 a v (descSpace a) .descriptor (a.toNat % 32 == 0) s fun l1 l2 s =>
      readDesc a 32 l1 l2 v s fun hb s =>
        match parseHead hb with
        | none => oneTrap .descriptor 0 v s
        | some h =>
          checkOne .load (16 * h.ndim) (16 * h.ndim) (a + 32) v (descSpace (a + 32)) .descriptor true s fun l1 l2 s =>
            readDesc (a + 32) (16 * h.ndim) l1 l2 v s fun db s =>
              match parseDims h db with
              | none => oneTrap .descriptor 0 v s
              | some ds =>
                let c : CopyOp := ⟨s.cur.core, s.cur.slot, 0, s.cur.asid, s.cur.part, a, h.src, h.dst, h.srt, h.drt,
                  h.esize, ds, (getS s o).setWidth 57, ev, trigger.map (fun r => (getS s r).setWidth 57),
                  if trigger.isSome then .armed else .queued, [], 0, 0, none, []⟩
                let srcs := (copyElems c).map (fun e => e.1)
                let dsts := (copyElems c).map (fun e => e.2)
                if badOperand h.esize srcs || badOperand h.esize dsts then oneTrap .descriptor 0 v s
                else
                  localOperand .engineRead h.esize srcs s fun s => localOperand .engineWrite h.esize dsts s fun s =>
                    commandObject (getS s o) s fun s => issueCopy i c s

/-- COPY_T (R185). -/
def execCopyT (ev : Bool) (i d o : SReg) (s : State) : Result := .next (copyOp none ev i d o s)
/-- COPY_ARM (R186). -/
def execCopyArm (ev : Bool) (i d o r : SReg) (s : State) : Result := .next (copyOp (some r) ev i d o s)

/-- A copy taken out of the engine. -/
def dropCopy (core ident : Nat) (s : State) : State :=
  { s with copyOps := s.copyOps.filter (fun c => !(c.core = core && c.ident = ident)) }

/-- COPY_CANCEL (R187): a copy that has written no byte. -/
def execCopyCancel (p : PReg) (i : SReg) (s : State) : Result :=
  .next (notCrew s fun s => onceForGroup 16 s fun s => afterFence s fun s =>
    let core := s.cur.core
    let slot := s.cur.slot
    match (copiesOf s core slot).find? (fun c => c.ident = (getS s i).toNat && c.blocks.isEmpty && c.early.isEmpty) with
    | none => advance 16 (setP allLanes p 0 s)
    | some c =>
      let s := dropCopy core c.ident s
      let s := if c.ev then eventPush (recorderOf c) core slot c.ident 0 8 0 c.obj s else s
      advance 16 (setP allLanes p allLanes s))

/-- EVPOP (R188): the oldest event-queue word of the team. -/
def execEvpop (d : SReg) (p : PReg) (s : State) : Result :=
  .next (notCrew s fun s => onceForGroup 16 s fun s => afterFence s fun s =>
    let mine := fun (e : EvWord) => e.core = s.cur.core && e.slot = s.cur.slot
    let seen := (evWords s s.cur.core).take (evVisible s s.cur.core)
    match seen.find? mine with
    | none => advance 16 (setP allLanes p 0 (setS d 0 s))
    | some e => advance 16 (setP allLanes p allLanes (setS d e.word { s with evq := s.evq.eraseP mine })))

/-- A copy changed. -/
def setCopyOp (core ident : Nat) (f : CopyOp → CopyOp) (s : State) : State :=
  { s with copyOps := s.copyOps.map (fun c => if c.core = core && c.ident = ident then f c else c) }

/-- An engine's access to a byte: where it leads, or the fault kind, 9 where R83 refuses it (R92). -/
def engineByte (w : Who) (k : AccKind) (a : VAddr) (s : State) : State × Xlat :=
  match translateP w k a s with
  | (s, .ok l) => if localBase ≤ a.toNat && !(allocOk w a 1 s) then (s, .fault 9) else (s, .ok l)
  | r => r

/-- What the translation of an engine's bytes gives: their locations, the first fault, or that a walk waits. -/
inductive EngineSpan where
  | locs (ls : List Loc)
  | fault (kind : Nat) (addr : VAddr)
  | wait
  deriving DecidableEq, Repr

/-- A location put before others. -/
def EngineSpan.cons (l : Loc) : EngineSpan → EngineSpan
  | .locs ls => .locs (l :: ls)
  | r => r

/-- Bytes of an engine operation translated. -/
def engineBytes (w : Who) (k : AccKind) : List VAddr → State → State × EngineSpan
  | [], s => (s, .locs [])
  | a :: r, s =>
    match engineByte w k a s with
    | (s, .fault f) => (s, .fault f a)
    | (s, .wait) => (s, .wait)
    | (s, .ok l) =>
      let q := engineBytes w k r s
      (q.1, q.2.cons l)

/-- The source bytes that may be moved to a destination byte (R184): those of the elements written there. -/
def sourcesOf (c : CopyOp) (es : List (VAddr × VAddr)) (b : VAddr) : List VAddr :=
  es.filterMap (fun e => if (b - e.2).toNat < c.esize then some (e.1 + (b - e.2)) else none)

/-- The elements of a copy with a byte in a block. -/
def blockElems (c : CopyOp) (b : VAddr) : List (VAddr × VAddr) :=
  (copyElems c).filter (fun e => (e.2 - b).toNat < 256 || (e.2 + BitVec.ofNat 57 (c.esize - 1) - b).toNat < 256)

/-- Bytes of a piece, an element's bytes in the block for each element (R135, R184). -/
def pieceBytes (c : CopyOp) (b : VAddr) : Nat :=
  ((blockElems c b).map (fun e => ((List.range c.esize).filter (fun i => (e.2 + BitVec.ofNat 57 i - b).toNat < 256)).length)).sum

/-- The moves of a piece: destination and source bytes. Where elements overlap, any of them (log 6). -/
def piecePlan (c : CopyOp) (b : VAddr) (free : Nat) : List (VAddr × VAddr) :=
  let es := blockElems c b
  (List.range 256).filterMap (fun i =>
    let d := b + BitVec.ofNat 57 i
    match sourcesOf c es d with
    | [] => none
    | [x] => some (d, x)
    | xs => some (d, xs.getD (Config.freeNat (free + i) % xs.length) 0))

/-- Unrecorded copies of a line leave every core: what an engine writes is read by those that acquire it (R129). -/
def dropUnrecorded (line : Nat) (s : State) : State :=
  (s.copies.filter (fun c => c.line = line && c.kind == .unrecorded)).foldl (fun s c => takeBack c s) s

/-- Bytes read by an engine: their values, and whether one met poison (R362). -/
def engineRead (w : Who) (rt : ReqTy) (ls : List Loc) (s : State) : State × Got :=
  readEach { w with core := engineClient } (if rt == .own || rt == .wt || rt == .si then .unc else rt) ls s

/-- A copy by its core and identifier. -/
def copyAt (s : State) (core ident : Nat) : Option CopyOp := s.copyOps.find? (fun c => c.core = core && c.ident = ident)

/-- What an engine writes in one access (R137): an aligned word that it writes whole, or a byte. -/
structure EngineUnit where
  addr : VAddr
  bytes : List (VAddr × VAddr)
  deriving DecidableEq, Repr

/-- The accesses that write a piece: its moves taken together where they fill an aligned word. -/
def unitsOf (plan : List (VAddr × VAddr)) : List EngineUnit :=
  let wordAt := fun (m : VAddr × VAddr) => plan.filter (fun x => x.1.toNat / 4 == m.1.toNat / 4)
  plan.filterMap (fun m =>
    if (wordAt m).length < 4 then some ⟨m.1, [m]⟩ else if m.1.toNat % 4 = 0 then some ⟨m.1, wordAt m⟩ else none)

/-- An engine's write of bytes that lie together, at its target; true where it met a retired page. -/
def engineWrite (w : Who) (l : Loc) (bs : List Byte) (s : State) : State × Bool :=
  let cell := locCell s l
  let x := writeLoc { w with core := engineClient } .unc l cell bs s
  (match cell with
    | some c => dropUnrecorded (c / 128) x.1
    | none => x.1, x.2)

/-- The copy fails on poison or a retired page (R362): its context ends. -/
def endCopyContext (c : CopyOp) (s : State) : State := endContext 0x84 0 0 c.asid c.part s

/-- One access of a copy: its bytes translated, read and written (R184); nothing where a walk or a line waits or a fault
is met, which is left to COPY_FAULT. True where it is done. -/
def moveUnit (c : CopyOp) (u : EngineUnit) (s : State) : State × Bool :=
  let w := teamWho c.core c.slot s
  match engineBytes w .engineWrite (u.bytes.map (fun m => m.1)) s with
  | (s, .locs ds) =>
    match engineBytes w .engineRead (u.bytes.map (fun m => m.2)) s with
    | (s, .locs ss) =>
      if (ds ++ ss).any (locBusy s) then (s, false)
      else
        let r := engineRead w c.srt ss s
        if (copyAt r.1 c.core c.ident).isNone then (r.1, false)
        else if r.2.poison then (endCopyContext c r.1, false)
        else
          let x := engineWrite w (ds.headD .absent) r.2.bytes r.1
          if (copyAt x.1 c.core c.ident).isNone then (x.1, false)
          else if x.2 then (endCopyContext c x.1, false)
          else (x.1, true)
    | (s, _) => (s, false)
  | (s, _) => (s, false)

/-- A copy changed, as it runs on. -/
def runCopy (c : CopyOp) (f : CopyOp → CopyOp) (s : State) : State :=
  setCopyOp c.core c.ident (fun y => { f y with st := .running, engine := c.engine }) s

/-- Some accesses of a copy one after the other, each noted, until one is not done. -/
def moveUnits (c : CopyOp) : List EngineUnit → State → State × Bool
  | [], s => (s, true)
  | u :: r, s =>
    match moveUnit c u s with
    | (s, true) => moveUnits c r (runCopy c (fun y => { y with early := y.early ++ [u.addr] }) s)
    | (s, false) => (s, false)

/-- Bytes counted into a team's object, if it has one (R135). -/
def countInto (w : Who) (obj : VAddr) (n : Nat) (s : State) : State :=
  if obj = 0 then s
  else match translate w .engineWrite obj s with
    | (s, .ok (.smem c o)) => completeObj (c * 0x180000 + o) n s
    | (s, _) => s

/-- The accesses of a block that are not made yet. -/
def unitsLeft (c : CopyOp) (b : VAddr) (free : Nat) : List EngineUnit :=
  (unitsOf (piecePlan c b free)).filter (fun u => !(c.early.contains u.addr))

/-- One piece of a copy: the rest of it moved, and the piece counted (R184). -/
def movePiece (c : CopyOp) (b : VAddr) (s : State) : State :=
  match moveUnits c (unitsLeft c b s.free) { s with free := s.free + 256 } with
  | (s, false) => s
  | (s, true) =>
    let n := pieceBytes c b
    countInto (teamWho c.core c.slot s) c.obj n (runCopy c (fun y =>
      { y with blocks := y.blocks ++ [b], bytes := y.bytes + n,
               early := y.early.filter (fun a => !(blockOf a == b)) }) s)

/-- A copy with the engine that runs it, if it runs or may start now (R92, R332). -/
def copyGoes (s : State) (c : CopyOp) : Option CopyOp :=
  let c := { c with engine := c.engine.or (pickEngine s c.core c.part.toNat s.free) }
  if c.st == .running || (c.st == .queued && c.engine.isSome && !(engineHolds s (recorderOf c)) &&
      commandFree c.core c.slot c.issued (copySets s c) s)
  then some c else none

/-- One of a copy's blocks that are left, by a free choice (log 6). -/
def someBlock (c : CopyOp) (s : State) : Option VAddr :=
  match blocksLeft c with
  | [] => none
  | [b] => some b
  | bs => bs[Config.freeNat s.free % bs.length]?

/-- ENGINE_PIECE_COMPLETE (R184): one more block of a copy, in any order; a block that faults is left to COPY_FAULT. -/
def execEnginePieceComplete (core ident : Nat) (s : State) : Result :=
  .next (match (copyAt s core ident).bind (copyGoes s) with
    | none => s
    | some c =>
      match someBlock c s with
      | none => s
      | some b => movePiece c b { s with free := s.free + 1 })

/-- ENGINE_PIECE_COMPLETE, before it: a word or an edge byte of a piece becomes visible (R137, R138), any of those that
are left (log 6). -/
def execEnginePieceWord (core ident : Nat) (s : State) : Result :=
  .next (match (copyAt s core ident).bind (copyGoes s) with
    | none => s
    | some c =>
      match someBlock c s with
      | none => s
      | some b =>
        let us := unitsLeft c b (s.free + 2)
        (moveUnits c (us[Config.freeNat (s.free + 1) % us.length]?).toList { s with free := s.free + 258 }).1)

/-- A copy ends with a status (R185, R189): its record where one is due. -/
def endCopy (c : CopyOp) (stat : Nat) (addr : VAddr) (s : State) : State :=
  let s := dropCopy c.core c.ident s
  if c.ev || stat != 0 then eventPush (recorderOf c) c.core c.slot c.ident 0 stat c.bytes addr s else s

/-- COPY_COMPLETE (R185). -/
def execCopyComplete (core ident : Nat) (s : State) : Result :=
  .next (match copyAt s core ident with
    | some c => if c.st == .running && (blocksLeft c).isEmpty then endCopy c 0 c.obj s else s
    | none => s)

/-- The fault that the first faulting block of a list meets. -/
def copyFaultOf (c : CopyOp) : List VAddr → State → Option (Nat × VAddr)
  | [], _ => none
  | b :: bs, s =>
    let w := teamWho c.core c.slot s
    let plan := piecePlan c b s.free
    match (engineBytes w .engineWrite (plan.map (fun m => m.1)) s).2 with
    | .fault k a => some (k, a)
    | .wait => none
    | .locs _ => match (engineBytes w .engineRead (plan.map (fun m => m.2)) s).2 with
      | .fault k a => some (k, a)
      | .wait => none
      | .locs _ => copyFaultOf c bs s

/-- A piece of a copy is in flight: some of its bytes are written, not all (R189). -/
def begun (c : CopyOp) (b : VAddr) : Bool := c.early.any (fun a => blockOf a == b)

/-- The pieces of a copy that are in flight are finished, as far as they do not fault (R189). -/
def finishBegun (core ident : Nat) : List VAddr → State → State
  | [], s => s
  | b :: bs, s => finishBegun core ident bs (match copyAt s core ident with
    | some c => if begun c b then movePiece c b s else s
    | none => s)

/-- Bytes of pieces in flight that are written (R189): an aligned word, or a byte. -/
def earlyBytes (c : CopyOp) : Nat :=
  (c.early.map (fun a =>
    (((unitsOf (piecePlan c (blockOf a) 0)).find? (fun u => u.addr == a)).map (fun u => u.bytes.length)).getD 1)).sum

/-- A copy ends on a fault (R189), with the bytes that it has written; a retired page ends its context (R362). The bytes of a
piece that the fault itself cuts are not counted into the object (log 34). -/
def faultEnds (c : CopyOp) (kind : Nat) (a : VAddr) (s : State) : State :=
  if kind = 0 then endCopyContext c s
  else
    let s := endCopy { c with bytes := c.bytes + earlyBytes c } kind a s
    if kind = 9 then s else faultRecord (dieOf c.core) c.asid a kind s

/-- COPY_FAULT (R189): a copy that meets a fault in a block, any of those left (log 6), finishes and counts the pieces in
flight, and completes with the fault kind. A piece in flight that can neither be finished yet nor faults delays it. -/
def execCopyFault (core ident : Nat) (s : State) : Result :=
  .next (match (copyAt s core ident).bind (copyGoes s) with
    | none => s
    | some c =>
      let bs := blocksLeft c
      let n := if bs.length ≤ 1 then 0 else Config.freeNat s.free % bs.length
      match copyFaultOf c (bs.drop n ++ bs.take n) { s with free := s.free + 1 } with
      | none => s
      | some (k, a) =>
        let s := finishBegun core ident bs { s with free := s.free + 1 }
        match (copyAt s core ident).map (fun y => { y with engine := c.engine }) with
        | none => s
        | some c =>
          if ((blocksLeft c).filter (begun c)).all (fun b => (copyFaultOf c [b] s).isSome) then faultEnds c k a s else s)

/-- Some words touch an extent of a core. -/
def inExt (core : Nat) (e : Extent) (w : Nat) : Bool :=
  core * 0x60000 + e.base / 4 ≤ w && w < core * 0x60000 + (e.base + e.size) / 4

/-- One of n bytes from a location lies in an extent of a core. -/
def locInExt (core : Nat) (e : Extent) (l : Loc) (n : Nat) : Bool :=
  match l with
  | .smem c o => c = core && e.base < o + n && o < e.base + e.size
  | _ => false

/-- A group's accesses that are not performed yet. -/
def unperformed (g : Group) : List Posted := g.posted ++ ((g.fence.map FenceRec.held).getD []).flatten

/-- Something of a team is still to be performed in an extent (R167): accesses of its groups, engine operations. -/
def extentBusy (core slot : Nat) (e : Extent) (s : State) : Bool :=
  (allGroups s).any (fun g => g.core = core && g.slot = slot &&
    ((unperformed g).any (fun p => locInExt core e p.loc (postedLen p)) ||
      g.passes.any (fun p => p.left.any (fun x => locInExt core e x.loc 1)))) ||
  (commandsOf s core slot).any (fun c => (c.2.2.reads ++ c.2.2.writes).any (inExt core e)) ||
  (firingsOf s core slot).any (fun x => (x.reads ++ x.writes).any (inExt core e))

/-- SFREE (R167). -/
def execSfree (a : SReg) (s : State) : Result :=
  .next (notCrew s fun s => onceForGroup 8 s fun s => afterFence s fun s =>
    let core := s.cur.core
    let slot := s.cur.slot
    let exts := ((teamAt s core slot).map Team.exts).getD []
    match exts.find? (fun e => e.num != 0 && decide ((getS s a).toNat = localBase + e.base)) with
    | none => oneTrap .allocation 0 (getS s a) s
    | some e =>
      drained s fun s =>
        if extentBusy core slot e s then block (.free e.base) s
        else advance 8 (setTeam core slot (fun t => { t with exts := t.exts.filter (fun x => x.num != e.num) }) s))

end Sys2Proof.Machine
end

