-- ==== Sys2Proof/Machine/Matrix.lean ====
section
/-! DEFINITION. The matrix engine (R319 to R341): its slots, the checks of its instructions, the array's K-blocks, the
consumed events, and the scaling unit. -/
namespace Sys2Proof.Machine

/-- A slot of a core that is not FREE. -/
def slotAt (s : State) (core num : Nat) : Option Slot := s.slots.find? (fun k => k.core = core && k.num = num)
/-- A slot changed. -/
def setSlot (core num : Nat) (f : Slot → Slot) (s : State) : State :=
  { s with slots := s.slots.map (fun k => if k.core = core && k.num = num then f k else k) }
/-- A slot claimed by a team, in state SET (R320, R321). -/
def newSlot (core num team : Nat) : Slot :=
  ⟨core, num, .set, team, [], 0, none, 0, none, false, false, false, false, false, 0, 0, 0, 0, [], [], []⟩

/-- The state codes of R321. -/
def slotCode : SlotSt → Nat
  | .free => 0 | .set => 1 | .loaded => 2 | .armed => 3 | .firing => 4 | .suspended => 5

/-- Armed, firing or suspended: a reader of its operands (R325). -/
def isArmed (k : Slot) : Bool := k.st == .armed || inFiring k

/-- "Matrix state" (R320, R321); no rule states its `taddr`, which is free (log 21). -/
def matrixState (s : State) : State := raiseOpen .matrixState s

/-- A matrix instruction on a slot (R320, R333): one that another team owns is refused. -/
def matrixOp (k : BitVec 2) (s : State) (cont : Option Slot → State → State) : State :=
  notCrew s fun s => onceForGroup 16 s fun s => afterFence s fun s =>
    match slotAt s s.cur.core k.toNat with
    | some x => if x.team = s.cur.slot then cont (some x) s else matrixState s
    | none => cont none s

/-- An address in the team scratchpad window (R58). -/
def inScratch (a : Nat) : Bool := localBase ≤ a && a < localBase + 0x180000
/-- An address in the cluster window (R58). -/
def inCluster (a : Nat) : Bool := localBase + 0x100000000 ≤ a && a < localBase + 0x101800000

/-- A base of a configuration block that R323 and R334 accept. -/
def baseOk (w : Nat) : Bool := w % 4 = 0 && (w = 0 || inScratch w || inCluster w)
/-- A pitch that R323 accepts. -/
def pitchOk (p : Nat) : Bool := p % 4 = 0 && p != 0

/-- A configuration block that R323 and R334 accept. -/
def configOk (c : List Word) : Bool :=
  let w := fun i => (c.getD i 0).toNat
  (List.range 4).all (fun i => w i < 2 ^ 57 && baseOk (w i)) &&
  w 4 / 2 ^ 24 % 2 ^ 8 = 0 && w 4 < 2 ^ 56 && w 5 / 2 ^ 24 % 2 ^ 8 = 0 && w 5 < 2 ^ 56 &&
  pitchOk (w 4 % 2 ^ 24) && pitchOk (w 4 / 2 ^ 32 % 2 ^ 24) && pitchOk (w 5 % 2 ^ 24) &&
  (w 3 = 0 || w 5 / 2 ^ 32 % 4 = 0) && w 6 < 8 && w 7 = 0

/-- A configuration loaded into a slot by R321. -/
def loadConfig (num : Nat) (v : Word) (c : List Word) (s : State) : State :=
  let core := s.cur.core
  let s := if (slotAt s core num).isSome then s else { s with slots := s.slots ++ [newSlot core num s.cur.slot] }
  setSlot core num (fun k => { k with st := .set, cfg := c, cfgAddr := v, op := none }) s

/-- MXCFG (R334). -/
def execMxcfg (k : BitVec 2) (cfg : SReg) (s : State) : Result :=
  .next (matrixOp k s fun x s =>
    let v := getS s cfg
    let off := v.toNat - localBase
    if x.any isArmed then matrixState s
    else if !(inScratch v.toNat) || v.toNat % 64 != 0 then oneTrap .matrixConfig 0 v s
    else if !(allocOk (whoOf s.cur) (v.setWidth 57) 64 s) then oneTrap .allocation 0 v s
    else
      afterPosted [(.smem s.cur.core off, 64)] s fun s =>
        let bs := tbytes s.smem (s.cur.core * 0x180000 + off) 64
        let c := (List.range 8).map (fun i => BitVec.ofNat 64 (leVal ((bs.drop (8 * i)).take 8)))
        if configOk c then advance 16 (loadConfig k.toNat v c s) else oneTrap .matrixConfig 0 v s)

/-- The addresses of the words of a region (R322). -/
def rowWords (base pitch rows bytes : Nat) : List VAddr :=
  (List.range rows).flatMap (fun r =>
    let a := base + r * pitch
    (List.range ((a % 4 + bytes + 3) / 4)).map (fun i => BitVec.ofNat 57 (a - a % 4 + 4 * i)))

/-- The addresses of the words of all regions of a slot under an operation (R335). -/
def slotWords (k : Slot) (o : MxOp) : List VAddr :=
  rowWords (cfgBits k 0 0 57) (cfgBits k 4 0 24) o.m (rowBytes o) ++
  rowWords (cfgBits k 1 0 57) (cfgBits k 4 32 24) o.n (rowBytes o) ++
  rowWords (cfgBits k 2 0 57) (cfgBits k 5 0 24) o.m (4 * o.n) ++
  (if cfgBits k 3 0 57 = 0 then [] else rowWords (cfgBits k 3 0 57) (cfgBits k 5 32 24) o.m (4 * o.n))

/-- The scalar value that a shape check of R335 refuses, if any. For a row longer than its pitch, and for OBASE = 0, it is the
scalar that gives the row's length (DESIGN CHOICE: R333 does not say whether that is a shape error; log 21). -/
def badShape (k : Slot) (o : MxOp) : Option Nat :=
  if o.m = 0 || 32 < o.m then some o.m
  else if o.n = 0 || 32 < o.n then some o.n
  else if o.k = 0 || (if o.mx then 32 else 65535) < o.k then some o.k
  else if cfgBits k 4 0 24 < rowBytes o || cfgBits k 4 32 24 < rowBytes o then some o.k
  else if cfgBits k 5 0 24 < 4 * o.n then some o.n
  else if o.mx && (cfgBits k 3 0 57 = 0 || cfgBits k 5 32 24 < 4 * o.n) then some o.n
  else none

/-- The lowest of some addresses. -/
def lowestAddr : List VAddr → Option VAddr
  | [] => none
  | a :: r => match lowestAddr r with
    | none => some a
    | some b => some (if a.toNat ≤ b.toNat then a else b)

/-- The fault kind of an address (R71), if it faults. -/
def faultOf (s : State) (a : VAddr) : Option Nat :=
  match (translate (whoOf s.cur) .load a s).2 with
  | .fault k => some k
  | .ok _ | .wait => none

/-- The address checks of R335 on the words of the regions: R71, the windows (R322), then R83. A word that translates but
lies in neither window, as under ABASE = 0, traps "matrix config" with the block's address (DESIGN CHOICE: no rule names its
cause; log 21). -/
def checkWords (ca : Word) (ws : List VAddr) (s : State) (cont : State → State) : State :=
  match lowestAddr (ws.filter (fun a => (faultOf s a).isSome)) with
  | some a =>
    let f := (faultOf s a).getD 1
    oneTrap .translation (BitVec.ofNat 16 f) (a.setWidth 64) (faultRecord (dieOf s.cur.core) s.cur.asid a f s)
  | none =>
    if ws.any (fun a => !(inScratch a.toNat || inCluster a.toNat)) then oneTrap .matrixConfig 0 ca s
    else match lowestAddr (ws.filter (fun a => !(allocOk (whoOf s.cur) a 4 s))) with
      | some a => oneTrap .allocation 0 (a.setWidth 64) s
      | none => cont s

/-- D disjoint from A and B; OUT disjoint from A, B and D (R335). -/
def disjointOk (s : State) (k : Slot) (o : MxOp) : Bool :=
  let ab := aWords s k o ++ bWords s k o
  let d := dWords s k o
  !(overlaps d ab) && !(overlaps (oWords s k o) (ab ++ d))

/-- The shape and region checks of R335, in order. `taddr` of a disjointness error is the block's address (DESIGN CHOICE: R333
names block errors and shape errors only; log 21). -/
def checkShape (k : Slot) (o : MxOp) (g : Word) (s : State) (cont : State → State) : State :=
  match badShape k o with
  | some v => oneTrap .matrixConfig 0 (BitVec.ofNat 64 v) s
  | none =>
    checkWords k.cfgAddr (slotWords k o) s fun s =>
      if !(disjointOk s k o) then oneTrap .matrixConfig 0 k.cfgAddr s
      else commandObject g s cont

/-- MMA (R336). -/
def execMma (mx : Bool) (ty : Ty) (k : BitVec 2) (m n kk o : SReg) (s : State) : Result :=
  .next (matrixOp k s fun x s =>
    match x with
    | none => matrixState s
    | some x =>
      if isArmed x then matrixState s
      else
        let op : MxOp := ⟨mx, ty, (getS s m).toNat, (getS s n).toNat, (getS s kk).toNat, (getS s o).setWidth 57⟩
        checkShape x op (getS s o) s fun s =>
          advance 16 (setSlot x.core x.num (fun y => { y with st := .loaded, op := some op }) s))

/-- A local address canonicalised to a scratchpad byte. -/
def baseKey (w : Who) (s : State) (a : Nat) : Option Nat :=
  match localLoc w (a - localBase) s with
  | .ok (.smem c o) => if localBase ≤ a then some (c * 0x180000 + o) else none
  | _ => none

/-- The keys of a slot's operand bases A and B. -/
def aKey (s : State) (k : Slot) : Option Nat := baseKey (teamWho k.core k.team s) s (cfgBits k 0 0 57)
/-- The key of operand base B. -/
def bKey (s : State) (k : Slot) : Option Nat := baseKey (teamWho k.core k.team s) s (cfgBits k 1 0 57)

/-- Two lists hold the same words. -/
def sameWords (a b : List Nat) : Bool := a.all b.contains && b.all a.contains

/-- Two operand regions of two slots that R337 accepts. -/
def operandsOk (ka kb : Option Nat) (wa wb : List Nat) : Bool :=
  sameWords wa wb || (!(ka == kb) && !(overlaps wa wb))

/-- R337 accepts an armed slot beside a slot: identical operands, or a D that is the other's operand, or no overlap. -/
def besideOk (s : State) (x : Slot) (o : MxOp) (y : Slot) : Bool :=
  match y.op with
  | none => true
  | some p =>
    let xs := [(aKey s x, aWords s x o), (bKey s x, bWords s x o)]
    let ys := [(aKey s y, aWords s y p), (bKey s y, bWords s y p)]
    let chain := fun (d : List Nat) (rs : List (Option Nat × List Nat)) =>
      rs.all (fun r => sameWords d r.2 || !(overlaps d r.2))
    let dx := dWords s x o
    let dy := dWords s y p
    let ox := oWords s x o
    let oy := oWords s y p
    xs.all (fun a => ys.all (fun b => operandsOk a.1 b.1 a.2 b.2)) && chain dx ys && chain dy xs && !(overlaps dx dy) &&
      !(overlaps ox (ys.flatMap (fun r => r.2) ++ dy ++ oy)) && !(overlaps oy (xs.flatMap (fun r => r.2) ++ dx))

/-- The armed slots of a core that name a base as an operand (R325). -/
def readersOf (s : State) (core : Nat) (key : Nat) : List Slot :=
  s.slots.filter (fun k => k.core = core && isArmed k && (aKey s k == some key || bKey s k == some key))

/-- A reader has consumed the region at a base since its last consumed event (R325). -/
def hasConsumed (s : State) (key : Nat) (k : Slot) : Bool :=
  (aKey s k != some key || k.consA) && (bKey s k != some key || k.consB)

/-- The words of the operand region at a base: of A and of B where both have that base. -/
def regionOf (s : State) (key : Nat) (k : Slot) : List Nat :=
  match k.op with
  | none => []
  | some o => (if aKey s k == some key then aWords s k o else []) ++ (if bKey s k == some key then bWords s k o else [])

/-- A copy waits for the consumed event of the region at a base (R186). -/
def armedOn (s : State) (key : Nat) (c : CopyOp) : Bool :=
  c.st == .armed && c.trigger.any (fun t => baseKey (teamWho c.core c.slot s) s t.toNat == some key)

/-- A reader after the consumed event of the region at a base. -/
def afterConsumed (s : State) (key : Nat) (k : Slot) : Slot :=
  let a := aKey s k == some key
  let b := bKey s k == some key
  { k with firedA := k.firedA && !a, consA := k.consA && !a, firedB := k.firedB && !b, consB := k.consB && !b }

/-- The consumed event of the region at a base, where every armed reader has consumed it (R325): its words become
EMPTY, and the copies armed on it are queued. -/
def consume (core key : Nat) (s : State) : State :=
  let rs := readersOf s core key
  match rs with
  | [] => s
  | r :: _ =>
    if rs.all (hasConsumed s key) then
      let ws := regionOf s key r
      setTags ws false { s with
        slots := s.slots.map (fun k => if k.core = core && isArmed k then afterConsumed s key k else k),
        copyOps := s.copyOps.map (fun c => if c.core / 96 = core / 96 && armedOn s key c then { c with st := .queued } else c) }
    else s

/-- The keys of the operand bases that the armed slots of a core name. -/
def operandKeys (s : State) (core : Nat) : List Nat :=
  ((s.slots.filter (fun k => k.core = core && isArmed k)).flatMap (fun k => (aKey s k).toList ++ (bKey s k).toList)).eraseDups

/-- Every consumed event of a core that is due fires, before something changes who reads (R325). -/
def fireDue (core : Nat) (s : State) : State := (operandKeys s core).foldl (fun s key => consume core key s) s

/-- The other slots of a core that are armed. -/
def otherArmed (s : State) (x : Slot) : List Slot :=
  s.slots.filter (fun y => y.core = x.core && y.num != x.num && isArmed y)

/-- `mxarm` (R321, R337): the group's earlier accesses come first (R328). `taddr` of an arming error is the block's address
(DESIGN CHOICE: R337 names none; log 21). -/
def mxarmOp (k : BitVec 2) (s : State) : State :=
  matrixOp k s fun x s => drained s fun s =>
    match x with
    | none => matrixState s
    | some x =>
      if isArmed x then advance 16 s
      else match x.op with
        | none => matrixState s
        | some o =>
          checkShape x o (o.obj.setWidth 64) s fun s =>
            if (otherArmed s x).all (besideOk s x o) then
              advance 16 (setSlot x.core x.num (fun y =>
                { y with st := .armed, disarm := false, firedA := false, firedB := false, consA := false, consB := false, ready := 0 }) (fireDue x.core s))
            else oneTrap .matrixConfig 0 x.cfgAddr s

/-- MXARM, slot 0 (R337). -/
def execMxarm0 (s : State) : Result := .next (mxarmOp 0 s)
/-- MXARM, slot 1 (R337). -/
def execMxarm1 (s : State) : Result := .next (mxarmOp 1 s)
/-- MXARM, slot 2 (R337). -/
def execMxarm2 (s : State) : Result := .next (mxarmOp 2 s)
/-- MXARM, slot 3 (R337). -/
def execMxarm3 (s : State) : Result := .next (mxarmOp 3 s)

/-- CONSUMED_EVENT (R325), of the operand region at a base as a core's team scratchpad or a cluster window names it. -/
def execConsumedEvent (core : Nat) (base : VAddr) (s : State) : Result :=
  .next (match (s.slots.filter (fun k => k.core = core && isArmed k)).find? (fun k =>
      cfgBits k 0 0 57 = base.toNat || cfgBits k 1 0 57 = base.toNat) with
    | none => s
    | some k =>
      match baseKey (teamWho core k.team s) s base.toNat with
      | none => s
      | some key => consume core key s)

/-- A slot disarmed (R321, R325): events that are due fire, the counts of its operands fall, and an event that then holds
fires at once. -/
def disarm (k : Slot) (s : State) : State :=
  let s := fireDue k.core s
  let ka := aKey s k
  let kb := bKey s k
  let s := setSlot k.core k.num (fun x => { x with st := .loaded, disarm := false }) s
  let s := match ka with
    | some key => consume k.core key s
    | none => s
  match kb with
  | some key => consume k.core key s
  | none => s

/-- `mxdisarm` (R321, R337): it waits for a firing to finish, which disarms the slot; then it is done, whatever the slot has
come to since. -/
def mxdisarmOp (k : BitVec 2) (s : State) : State :=
  matrixOp k s fun x s =>
    match x with
    | none => matrixState s
    | some x =>
      match s.cur.wait with
      | some (.disarm t) => if inFiring x && x.started = t then s else advance 16 s
      | _ =>
        if inFiring x then block (.disarm x.started) (setSlot x.core x.num (fun y => { y with disarm := true }) s)
        else if x.st == .armed then advance 16 (disarm x s)
        else advance 16 s

/-- MXDISARM, slot 0 (R337). -/
def execMxdisarm0 (s : State) : Result := .next (mxdisarmOp 0 s)
/-- MXDISARM, slot 1 (R337). -/
def execMxdisarm1 (s : State) : Result := .next (mxdisarmOp 1 s)
/-- MXDISARM, slot 2 (R337). -/
def execMxdisarm2 (s : State) : Result := .next (mxdisarmOp 2 s)
/-- MXDISARM, slot 3 (R337). -/
def execMxdisarm3 (s : State) : Result := .next (mxdisarmOp 3 s)

/-- The `sacc` and `mxspill` commands of a team that have not completed (R338). -/
def scalings (s : State) (core slot : Nat) : Nat :=
  ((teamSlots s core slot).map (fun k => k.cmds.length)).sum + ((s.cur :: s.groups).filterMap (spillOf core slot)).length

/-- The fault of a range that has been translated, with its address. -/
def spanFault (x : Xlat × Xlat × VAddr) : List (VAddr × Nat) :=
  match x.1 with
  | .fault k => [(x.2.2, k)]
  | .ok _ | .wait => []

/-- The lowest byte from an address at which R83 refuses a range of n bytes. -/
def lostByte (s : State) (a : VAddr) (n : Nat) : List VAddr :=
  if a.toNat < localBase then []
  else (((List.range n).find? (fun i => !(allocOk (whoOf s.cur) a (i + 1) s))).map (fun i => a + BitVec.ofNat 57 i)).toList

/-- An address in a FIFO bank. -/
def fifoAddr (a : VAddr) (x : Xlat) : List VAddr :=
  match x with
  | .ok (.fifo _) => [a]
  | _ => []

/-- The stages of R154 on the two ranges of scale bytes of a `sacc` (R338), stage by stage; `taddr` is the lowest failing
address (R333). -/
def checkScales (m n : Nat) (a b : VAddr) (s : State) (cont : State → State) : State :=
  let x := translateSpan (whoOf s.cur) .load a m s
  let y := translateSpan (whoOf s.cur) .load b n x.1
  let s := y.1
  let faults := spanFault x.2 ++ spanFault y.2
  if x.2.1 == .wait || y.2.1 == .wait then block .posted s
  else match lowestAddr (faults.map (fun f => f.1)) with
  | some p =>
    match ((faults.find? (fun f => f.1 == p)).map (fun f => f.2)).getD 1 with
    | 0 => oneTrap .poison 0 (p.setWidth 64) s
    | k => oneTrap .translation (BitVec.ofNat 16 k) (p.setWidth 64) (faultRecord (dieOf s.cur.core) s.cur.asid p k s)
  | none => match lowestAddr (fifoAddr a x.2.1 ++ fifoAddr b y.2.1) with
    | some p => oneTrap .fifoAccess 0 (p.setWidth 64) s
    | none => match lowestAddr (lostByte s a m ++ lostByte s b n) with
      | some p => oneTrap .allocation 0 (p.setWidth 64) s
      | none => cont s

/-- SACC (R338). -/
def execSacc (k : BitVec 2) (a b : SReg) (s : State) : Result :=
  .next (matrixOp k s fun x s => drained s fun s =>
    match x with
    | none => matrixState s
    | some x =>
      match x.op.filter MxOp.mx with
      | none => matrixState s
      | some o =>
        let sa : VAddr := (getS s a).setWidth 57
        let sb : VAddr := (getS s b).setWidth 57
        checkScales o.m o.n sa sb s fun s =>
          if 16 ≤ scalings s s.cur.core s.cur.slot then block .engine s
          else
            advance 16 (setSlot x.core x.num (fun y => { y with cmds := y.cmds ++ [⟨sa, sb, nextIssue s, x.cfg, o, false, []⟩] })
              { s with tick := s.tick + 1 }))

/-- The status word of a slot (R339). -/
def statusWord (k : Slot) : Word :=
  0#4 ++ BitVec.ofNat 12 k.prog ++ BitVec.ofNat 4 (slotCode k.st) ++ 0#7 ++ k.flags ++ k.rows

/-- MXFLG (R339). -/
def execMxflg (d : SReg) (k : BitVec 2) (s : State) : Result :=
  .next (matrixOp k s fun x s =>
    match x with
    | none => advance 16 (setS d 0 s)
    | some x =>
      advance 16 (setS d (statusWord x) (setSlot x.core x.num (fun y => { y with rows := 0, flags := 0 }) s)))

/-- A word of local memory written and tagged FULL (R84). -/
def putWord (w : Nat) (v : LaneWord) (s : State) : State :=
  { s with smem := tsetList 0 s.smem (4 * w) (leBytes 4 v.toNat), tags := tset false s.tags w true }

/-- The accumulator image of a slot written from a word on (R341). -/
def putImage (k : Slot) (word : Nat) (s : State) : State :=
  (List.range 1024).foldl (fun s i => putWord (word + i) (tget 0 k.acc i) s) s

/-- An `mxspill` that has not begun to wait is drained and has room among the commands (R338); one that waits goes on. -/
def spillIssues (waiting : Bool) (s : State) (k : State → State) : State :=
  if waiting then k s else if 16 ≤ scalings s s.cur.core s.cur.slot then block .engine s else drained s k

/-- MXSPILL (R341): a command of the scoreboard (R331), on which the group waits. -/
def execMxspill (k : BitVec 2) (a : SReg) (s : State) : Result :=
  .next (matrixOp k s fun x s =>
    match x with
    | none => matrixState s
    | some x =>
      let v := getS s a
      let off := v.toNat - localBase
      let word := s.cur.core * 0x60000 + off / 4
      let waiting := s.cur.wait == some (.spill word)
      if !(inScratch v.toNat) || v.toNat % 128 != 0 then oneTrap .matrixConfig 0 v s
      else match lostByte s (v.setWidth 57) 4096 with
      | p :: _ => oneTrap .allocation 0 (p.setWidth 64) s
      | [] =>
        spillIssues waiting s fun s =>
          if commandFree s.cur.core s.cur.slot (if waiting then s.cur.since else nextIssue s) (spillSets word) s then
            advance 16 (putImage x word s)
          else block (.spill word) s)

/-- Element k of width w of an operand row whose first byte has a key (R322). -/
def operandElem (s : State) (key w k : Nat) : Nat :=
  leVal (tbytes s.smem (key + w * k / 8) 3) / 2 ^ (w * k % 8) % 2 ^ w

/-- The scratchpad byte of a row of a region. -/
def rowKey (w : Who) (s : State) (base pitch r : Nat) : Nat :=
  ((localWord w s (BitVec.ofNat 57 (base + r * pitch))).getD 0) * 4

/-- K of a K-block: elements 32 b to 32 b + 31 below K. -/
def blockRange (b : Nat) : List Nat := (List.range 32).map (fun q => 32 * b + q)

/-- The products of a block (R208, step 1): pattern in `.f32` and flags; masked ones are +0. -/
def products (o : MxOp) (x y : Nat → Nat) (b : Nat) : List (Nat × FlagSet) :=
  (blockRange b).map (fun k =>
    if o.k ≤ k then (0, 0) else finish fmtF32 .rn (mulNum (decodeNum o.ty (x k)) (decodeNum o.ty (y k))))

/-- The block sum of R208, steps 1 and 2, and its flags. -/
def blockSum (o : MxOp) (x y : Nat → Nat) (b : Nat) : Nat × FlagSet :=
  let ps := products o x y b
  let t := treeOf .add .f32 (ps.map (fun p => p.1))
  (t.1, ps.foldl (fun f p => f ||| p.2) t.2)

/-- The integer block sum of R208, step 5. -/
def intSum (o : MxOp) (x y : Nat → Nat) (b : Nat) : Int :=
  ((blockRange b).map (fun k => if o.k ≤ k then 0 else intOf o.ty (x k) * intOf o.ty (y k))).sum

/-- Integer operand formats of the array. -/
def isIntOp (o : MxOp) : Bool := o.ty == .i8 || o.ty == .n8

/-- An accumulator after a block (R326), and its flags. -/
def accStep (o : MxOp) (acc : Nat) (x y : Nat → Nat) (b : Nat) : Nat × FlagSet :=
  if isIntOp o then (toPattern 32 ((acc : Int) + intSum o x y b), 0)
  else
    let s := blockSum o x y b
    if o.mx then s
    else
      let a := floatAdd fmtF32 .rn acc s.1
      (a.1, a.2 ||| s.2)

/-- The accumulator that a firing starts with (R326). -/
def accStart (o : MxOp) : LaneWord := if isIntOp o then 0 else 0x80000000

/-- The element numbers 32 i + j of an operation's tile. -/
def tileOf (o : MxOp) : List (Nat × Nat) := (List.range o.m).flatMap (fun i => (List.range o.n).map (fun j => (i, j)))

/-- Flags of row i put into a slot's flag tile (R339). -/
def rowFlags (i : Nat) (f : FlagSet) (k : Slot) : Slot :=
  if f = 0 then k else { k with rows := k.rows ||| BitVec.twoPow 32 i, flags := k.flags ||| f.setWidth 5 }

/-- One K-block of a firing through the array (R326). -/
def runBlock (s : State) (k : Slot) (o : MxOp) : Slot :=
  let w := teamWho k.core k.team s
  let width := tyBits o.ty
  let row := fun (i q : Nat) => operandElem s (rowKey w s (cfgBits k 0 0 57) (cfgBits k 4 0 24) i) width q
  let col := fun (j q : Nat) => operandElem s (rowKey w s (cfgBits k 1 0 57) (cfgBits k 4 32 24) j) width q
  let k := (tileOf o).foldl (fun k e =>
    let r := accStep o (tget 0 k.acc (32 * e.1 + e.2)).toNat (row e.1) (col e.2) k.prog
    rowFlags e.1 r.2 { k with acc := tset 0 k.acc (32 * e.1 + e.2) (BitVec.ofNat 32 r.1) }) k
  let done := decide ((o.k + 31) / 32 ≤ k.prog + 1)
  { k with prog := k.prog + 1, consA := k.consA || done, consB := k.consB || done }

/-- K-blocks of a slot's operation. -/
def blocksOf (k : Slot) : Nat := ((k.op.map MxOp.k).getD 0 + 31) / 32

/-- The conditions of R324 but for selection. -/
def canFire (s : State) (k : Slot) : Bool :=
  match k.op with
  | none => false
  | some o =>
    k.st == .armed && !k.firedA && !k.firedB && !(engineHolds s (arrayEngine k.core)) && tagsAre s true (aWords s k o) &&
      tagsAre s true (bWords s k o) && tagsAre s false (dWords s k o) && firingFree k s

/-- The lowest word of an armed slot's regions that R83 refuses (R321). -/
def lostWord (s : State) (k : Slot) : Option VAddr :=
  match k.op with
  | none => none
  | some o => lowestAddr ((slotWords k o).filter (fun a => !(allocOk (teamWho k.core k.team s) a 4 s)))

/-- Armed slots with a region that R83 refuses are disarmed with STAT 9 (R321). -/
def dropLost (core : Nat) (s : State) : State :=
  (s.slots.filter (fun k => k.core = core && k.st == .armed)).foldl (fun s k =>
    match lostWord s k with
    | none => s
    | some a => eventPush (arrayEngine core) core k.team k.num 1 9 0 a (disarm k s)) s

/-- When the conditions of an armed slot began to hold (R329). -/
def stampSlot (s : State) (k : Slot) : Slot :=
  if k.st == .armed then
    if canFire s k then (if k.ready = 0 then { k with ready := s.tick + 1 } else k) else { k with ready := 0 }
  else k

/-- A slot's conditions have begun or ceased to hold since that was last noted (R329). -/
def stampDue (s : State) : Bool := s.slots.any (fun k => stampSlot s k != k)

/-- The armed slots whose conditions have begun to hold are stamped (R329). -/
def stampReady (s : State) : State := { s with slots := s.slots.map (stampSlot s), tick := s.tick + 1 }

/-- A bank that no firing of a core holds (R329). -/
def freeBank (core : Nat) (s : State) : Option Nat :=
  [0, 1].find? (fun b => !(s.slots.any (fun k => k.core = core && k.bank == some b)))

/-- The candidates of the array (R329). -/
def arrayCandidates (core : Nat) (s : State) : List Slot :=
  s.slots.filter (fun k => k.core = core &&
    ((inFiring k && k.prog < blocksOf k) || ((freeBank core s).isSome && canFire s k)))

/-- CLASS of a slot (R323). -/
def slotClass (k : Slot) : Nat := cfgBits k 6 0 2

/-- The order of selection (R329): class, a firing that holds a bank, the time for which the conditions have held, then
the slot number. -/
def selectBefore (a b : Slot) : Bool :=
  if slotClass a != slotClass b then slotClass b < slotClass a
  else if inFiring a != inFiring b then inFiring a
  else if inFiring a then a.num < b.num
  else if a.ready != b.ready then a.ready < b.ready
  else a.num < b.num

/-- The slot that the array selects (R329): the candidate that none precedes. -/
def arrayChoice (core : Nat) (s : State) : Option Slot :=
  let cs := arrayCandidates core s
  cs.find? (fun a => !(cs.any (fun b => selectBefore b a)))

/-- A slot as its firing starts (R321, R324, R326). -/
def startFiring (bank tick : Nat) (o : MxOp) (k : Slot) : Slot :=
  { k with st := .firing, prog := 0, bank := some bank, firedA := true, firedB := true, started := tick,
           acc := (tileOf o).foldl (fun t e => tset 0 t (32 * e.1 + e.2) (accStart o)) [] }

/-- The selected slot takes one K-block; the other firings with blocks left are suspended (R329). -/
def selectSlot (core : Nat) (k : Slot) (o : MxOp) (s : State) : State :=
  let k1 := if inFiring k then { k with st := .firing } else startFiring ((freeBank core s).getD 0) (s.tick + 1) o k
  let k2 := runBlock s k1 o
  let f := fun (x : Slot) =>
    if x.core = core && x.num = k.num then k2
    else if x.core = core && x.st == .firing && x.prog < blocksOf x then { x with st := .suspended }
    else x
  { s with slots := s.slots.map f, tick := s.tick + 1 }

/-- ARRAY_SELECT (R329): the array of a core selects a candidate and takes one of its K-blocks. -/
def execArraySelect (core : Nat) (s : State) : Result :=
  let s := stampReady (dropLost core s)
  .next (match arrayChoice core s with
    | none => s
    | some k => match k.op with
      | none => s
      | some o => selectSlot core k o s)

/-- The words of a tile of 32-bit words, with their elements. -/
def tileWords (w : Who) (s : State) (base pitch : Nat) (o : MxOp) : List (Nat × Nat × Nat) :=
  (tileOf o).map (fun e => (rowKey w s base pitch e.1 / 4 + e.2, e.1, e.2))

/-- Pieces of a tile counted into an object (R326, R338): the bytes in each aligned 256-byte block. -/
def countTile (w : Who) (obj : VAddr) (ws : List Nat) (s : State) : State :=
  ((ws.map (fun x => x / 64)).eraseDups).foldl (fun s b =>
    countInto w obj (4 * (ws.filter (fun x => x / 64 = b)).length) s) s

/-- EV of a slot (R323). -/
def slotEv (k : Slot) : Bool := cfgBits k 6 2 1 = 1

/-- The record of a firing or a `sacc` (R326, R338). -/
def tileRecord (k : Slot) (o : MxOp) (s : State) : State :=
  if slotEv k then eventPush (arrayEngine k.core) k.core k.team k.num 1 0 (4 * o.m * o.n) o.obj s else s

/-- The number of an element of a tile. -/
def elemNum (x : Nat × Nat × Nat) : Nat := 32 * x.2.1 + x.2.2

/-- The words of a slot's tile D under an operation, with their elements. -/
def dTile (k : Slot) (o : MxOp) (s : State) : List (Nat × Nat × Nat) :=
  tileWords (teamWho k.core k.team s) s (cfgBits k 2 0 57) (cfgBits k 5 0 24) o

/-- A word of D written (R326). -/
def putD (k : Slot) (s : State) (x : Nat × Nat × Nat) : State := putWord x.1 (tget 0 k.acc (elemNum x)) s

/-- Those of a tile's words whose elements are not among some already written (R138). -/
def notYet (early : List Nat) (ws : List (Nat × Nat × Nat)) : List (Nat × Nat × Nat) := ws.filter (fun x => !(early.contains (elemNum x)))

/-- One of some words, by a free choice (log 6). -/
def someWord {α : Type} (xs : List α) (s : State) : Option α := xs[Config.freeNat s.free % xs.length]?

/-- The results of a firing written (R321, R326, R327): the words of D that are not yet. -/
def writeResults (k : Slot) (o : MxOp) (s : State) : State :=
  let w := teamWho k.core k.team s
  let ws := dTile k o s
  let s := (notYet k.early ws).foldl (putD k) s
  let s := setSlot k.core k.num (fun y => { y with st := .armed, bank := none, ready := 0, early := [] }) (fireDue k.core s)
  let s := if k.disarm then disarm { k with st := .armed } s else s
  if o.mx then s else tileRecord k o (countTile w o.obj (ws.map (fun x => x.1)) s)

/-- FIRING_RESULTS_WRITTEN (R326), of a slot all of whose K-blocks have entered. -/
def execFiringResultsWritten (core : Nat) (k : BitVec 2) (s : State) : Result :=
  .next (match slotAt s core k.toNat with
    | none => s
    | some x => match x.op with
      | none => s
      | some o => if inFiring x && blocksOf x ≤ x.prog then writeResults x o s else s)

/-- FIRING_RESULTS_WRITTEN, before it: one word of D becomes visible, any of those that are left (R138; log 6). -/
def execFiringWord (core : Nat) (k : BitVec 2) (s : State) : Result :=
  .next (match slotAt s core k.toNat with
    | none => s
    | some x => match x.op with
      | none => s
      | some o =>
        if inFiring x && blocksOf x ≤ x.prog then
          match someWord (notYet x.early (dTile x o s)) s with
          | none => s
          | some e => setSlot core x.num (fun y => { y with early := y.early ++ [elemNum e] }) (putD x (nextFree s) e)
        else s)

/-- SACC_START (R338): the oldest command of a slot. -/
def execSaccStart (core : Nat) (k : BitVec 2) (s : State) : Result :=
  .next (match slotAt s core k.toNat with
    | none => s
    | some x => match x.cmds with
      | c :: r =>
        if !c.running && !(engineHolds s (arrayEngine core)) && tagsAre s true (dWords s (saccSlot x c) c.op) &&
            commandFree core x.team c.issued (saccSets s (saccSlot x c) c) s then
          setSlot core x.num (fun y => { y with cmds := { c with running := true } :: r }) s
        else s
      | [] => s)

/-- x of R338: one rounding of OUT + 2^e D; a scale of 0xFF gives the canonical NaN without a flag. -/
def scaleStep (sa sb out d : Nat) : Nat × FlagSet :=
  if sa = 255 || sb = 255 then (canonNaN fmtF32, 0)
  else
    let r := addNum .rn (decodeNum .f32 out) (scaleNum (decodeNum .f32 d) ((sa : Int) + (sb : Int) - 254))
    finish fmtF32 .rn r

/-- A word of local memory. -/
def wordValue (s : State) (w : Nat) : Nat := leVal (tbytes s.smem (4 * w) 4)

/-- One element of a `sacc`: its OUT word and its row's flags. -/
def saccElem (sas sbs : List Byte) (dw ow : Nat) (i j : Nat) (core num : Nat) (s : State) : State :=
  let r := scaleStep (sas.getD i 0).toNat (sbs.getD j 0).toNat (wordValue s ow) (wordValue s dw)
  setSlot core num (rowFlags i r.2) (putWord ow (BitVec.ofNat 32 r.1) s)

/-- The pairs of words of D and OUT that a `sacc` has not yet scaled (R138, R338), on its slot as it saw it. -/
def saccLeft (k : Slot) (o : MxOp) (c : MxCmd) (s : State) : List ((Nat × Nat × Nat) × (Nat × Nat × Nat)) :=
  ((dTile k o s).zip (tileWords (teamWho k.core k.team s) s (cfgBits k 3 0 57) (cfgBits k 5 32 24) o)).filter
    (fun x => !(c.early.contains (elemNum x.1)))

/-- The oldest command of a slot leaves it. -/
def dropCmd (k : Slot) (s : State) : State := setSlot k.core k.num (fun y => { y with cmds := y.cmds.drop 1 }) s

/-- A started `sacc` reads its scale bytes and goes on (R338). A translation fault that it meets makes its event record alone,
and no fault record (DESIGN CHOICE: R73 names the accesses of groups and copy engines; log 37). -/
def withScales (k : Slot) (o : MxOp) (c : MxCmd) (s : State) (go : List Byte → State → State) : State :=
  let w := teamWho k.core k.team s
  let addrs := fun (a : VAddr) (n : Nat) => (List.range n).map (fun i => a + BitVec.ofNat 57 i)
  match engineBytes w .engineRead (addrs c.sa o.m ++ addrs c.sb o.n) s with
  | (s, .wait) => s
  | (s, .fault 0 _) => endContext 0x84 0 0 w.asid w.part s
  | (s, .fault f a) => eventPush (arrayEngine k.core) k.core k.team k.num 1 f 0 a (dropCmd k s)
  | (s, .locs ls) =>
    if ls.any (locBusy s) then s
    else
      let r := engineRead w .unc ls s
      let s := r.1
      if (slotAt s k.core k.num).isNone then s
      else if r.2.poison then endContext 0x84 0 0 w.asid w.part s
      else go r.2.bytes s

/-- One pair of words scaled, with the scale bytes of both operands. -/
def saccPair (k : Slot) (o : MxOp) (bs : List Byte) (s : State) (x : (Nat × Nat × Nat) × (Nat × Nat × Nat)) : State :=
  saccElem (bs.take o.m) (bs.drop o.m) x.1.1 x.2.1 x.1.2.1 x.1.2.2 k.core k.num s

/-- A started `sacc` performs (R338), on its slot as it saw it: what is left of it, and its end. -/
def runSacc (k : Slot) (o : MxOp) (c : MxCmd) (s : State) : State :=
  withScales k o c s fun bs s =>
    let w := teamWho k.core k.team s
    let os := tileWords w s (cfgBits k 3 0 57) (cfgBits k 5 32 24) o
    let s := (saccLeft k o c s).foldl (saccPair k o bs) s
    let s := setTags ((dTile k o s).map (fun x => x.1)) false s
    tileRecord k o (countTile w o.obj (os.map (fun x => x.1)) (dropCmd k s))

/-- A word of a started `sacc` becomes visible before the others (R138), any of those that are left (log 6). -/
def saccStep (k : Slot) (o : MxOp) (c : MxCmd) (s : State) : State :=
  withScales k o c s fun bs s =>
    match someWord (saccLeft k o c s) s with
    | none => s
    | some x =>
      setSlot k.core k.num (fun y => { y with cmds := y.cmds.modify 0 (fun c => { c with early := c.early ++ [elemNum x.1] }) })
        (saccPair k o bs (nextFree s) x)

/-- SACC_COMPLETE (R338). -/
def execSaccComplete (core : Nat) (k : BitVec 2) (s : State) : Result :=
  .next (match slotAt s core k.toNat with
    | none => s
    | some x => match x.cmds with
      | c :: _ => if c.running then runSacc (saccSlot x c) c.op c s else s
      | [] => s)

/-- SACC_COMPLETE, before it: one word of OUT becomes visible (R138, R338). -/
def execSaccWord (core : Nat) (k : BitVec 2) (s : State) : Result :=
  .next (match slotAt s core k.toNat with
    | none => s
    | some x => match x.cmds with
      | c :: _ => if c.running then saccStep (saccSlot x c) c.op c s else s
      | [] => s)

end Sys2Proof.Machine
end

