-- ==== Sys2Proof/Machine/Placement.lean ====
section
/-! DEFINITION. The marshal (R383 to R386): candidates of a round, placement of a span (R223, R17), restore of a saved gang
(R356), ages and reservations; and the stakeboat's releases (R382). -/
namespace Sys2Proof.Machine

/-- A group as it starts (R17, R347): its registers but for `s0` and `s1`, its flags and trap registers are zero. -/
def newGroup (l : Launch) (t : Team) (roles : List RoleEntry) (s1 : Word) (g pipe blk gid seq : Nat) : Group :=
  { placed := true, gid := gid, guard := ⟨false, 7⟩, core := t.core, pipe := pipe, slot := t.slot, launch := l.id,
    idx := ⟨g, t.pos, t.cluster, t.span, l.grid, l.groups, l.w * l.h, l.clusters, l.spans.length⟩,
    asid := l.asid, part := BitVec.ofNat 3 l.part, priv := l.priv, coresident := l.cor, seq := seq, entry := l.entry,
    roles := roles, role := 0, cls := 0, allot := 16 * ((roles.head?.map RoleEntry.allot).getD l.regs), blk := blk, nblk := l.regs,
    arch := { pc := l.entry, em := allLanes, live := allLanes, lpart := 5, stack := [],
              sregs := tset 0 (tset 0 [] 0 (l.data.setWidth 64)) 1 s1, vregs := [], preds := [], ffl := [] },
    ften := [], tvec := (l.tvec &&& ~~~3#57).setWidth 64, tcause := 0, tlm := 0, taddr := 0, tepc := 0,
    shadow := ⟨0, 0, [0, 0, 0, 0, 0, 0, 0, 0], 0⟩, rbk := 0, pidx := 0, mon := none, wait := none, since := 0, came := none, fence := none,
    epoch := 0, posted := [], pend := none,
    passes := none, request := .none, yielding := [], starved := false, late := false, crew := none, park := none,
    queues := List.replicate 16 noQueue }

/-- A group joins the resident groups. -/
def addGroup (g : Group) (s : State) : State := { s with groups := s.groups ++ [g] }

/-- Banks of a run switched to scratchpad mode (R79). -/
def takeBanks (core b n : Nat) (s : State) : State := (List.range n).foldl (fun s i => switchBank core (b + i) .scratch 0 s) s

/-- A core's instruction cache invalidated (R25). -/
def dropFetched (core : Nat) (s : State) : State :=
  { s with icache := s.icache.filter (fun e => !(e.1 / 2 ^ 57 / 65536 = core)) }

/-- A team placed on a core (R223): slot, extent 0 (R82), groups, entry state (R17). A kernel's start is an acquire. -/
def placeTeam (l : Launch) (roles : List RoleEntry) (span cluster pos core : Nat) (s : State) : State :=
  match planTeam s l core with
  | none => s
  | some p =>
    let size := 256 * l.smem
    let s := takeBanks core (p.base / 0x8000) (banksFor l.smem) s
    let s := dropFetched core (acquireDrop core true (clearScratch core p.base size s))
    let t : Team := ⟨core, p.slot, l.asid, BitVec.ofNat 3 l.part, l.id, span, cluster, pos, l.w * l.h,
      if size = 0 then [] else [⟨0, p.base, size⟩]⟩
    let s1 := BitVec.ofNat 64 (localBase + p.base)
    let s := { s with teams := s.teams ++ [t] }
    (List.range l.groups).foldl (fun s g =>
      let q := p.places.getD g (0, 0)
      addGroup (newGroup l t roles s1 g q.1 q.2 (s.gids + 1) (s.tick + 1)) { s with gids := s.gids + 1, tick := s.tick + 1 }) s

/-- The clusters of a span on their cores, in order (R221). -/
def placeClusters (l : Launch) (roles : List RoleEntry) (span : Nat) : Nat → List (List Nat) → State → State
  | _, [], s => s
  | n, cs :: r, s =>
    placeClusters l roles span (n + 1) r ((List.range cs.length).foldl (fun s i => placeTeam l roles span n i (cs.getD i 0) s) s)

/-- A span of a launch changed. -/
def setSpan (id num : Nat) (f : Span → Span) (s : State) : State :=
  setLaunch id (fun l => { l with spans := l.spans.map (fun x => if x.num = num then f x else x) }) s

/-- A span that has been placed: its candidate's age and reservation are gone (R385). -/
def placedSpan (x : Span) : Span := { x with st := .placed, age := 0, resv := [], toPark := false }

/-- The marshal reads the header of the kernel (R229); where it can no longer be read, role 0 has the whole reservation. -/
def rolesOf (l : Launch) (s : State) : State × List RoleEntry :=
  match readHeader false l.asid l.part l.entry s with
  | (s, some (some h)) => (s, h.roles)
  | (s, _) => (s, [⟨l.regs, 0, 0⟩, ⟨0, 0, 0⟩, ⟨0, 0, 0⟩, ⟨0, 0, 0⟩])

/-- The lateness of a TIMED launch whose span has just been placed (R382): a span placed after T starts at once. -/
def noteLate (id : Nat) (s : State) : State :=
  match s.launches.find? (fun l => l.id = id) with
  | none => s
  | some l =>
    match l.timed with
    | none => s
    | some t =>
      let s := tickClock s
      let s := if t.1 < s.clock then
          setLaunch id (fun l => { l with started := true, late := some (s.clock - t.1) }) s
        else s
      let l' := (s.launches.find? (fun l => l.id = id)).getD l
      if l'.late.isSome && l'.spans.all (fun x => x.st != .waiting) then
        logEvent l.part 5 l.queue 6 (BitVec.ofNat 64 (l'.late.getD 0)) s
      else s

/-- Where the marshal would place a span (R384). -/
def packSpan (s : State) (l : Launch) (x : Span) : Option (List (List Nat)) :=
  packClusters (canTake s l) x.die l.w l.h l.clusters []

/-- A context runs on the device: a span of one of its launches has been placed and has not finished. One whose launch has a
span that has finished and another that still waits does not (DESIGN CHOICE: R282 leaves open whether it goes on running
then; log 87). -/
def contextRuns (s : State) (asid : BitVec 16) (part : Nat) : Bool :=
  s.launches.any (fun l => l.asid == asid && l.part = part && l.spans.any (fun x => match x.st with
    | .placed | .saved | .parked => true
    | .waiting | .done => false))

/-- A context that starts reports no earlier step of the clock (R282). -/
def startContext (asid : BitVec 16) (part : Nat) (s : State) : State :=
  if contextRuns s asid part then s else { s with stepped := s.stepped.filter (fun k => !(k = asid.toNat + 65536 * part)) }

/-- A span placed (R222, R223). -/
def placeSpan (l : Launch) (x : Span) (cs : List (List Nat)) (s : State) : State :=
  let r := rolesOf l (startContext l.asid l.part s)
  noteLate l.id (setSpan l.id x.num placedSpan (placeClusters l r.2 x.num 0 cs r.1))

/-- The banks of scratchpad that some extents cover. -/
def extentBanks (es : List Extent) : List Nat :=
  (List.range 48).filter (fun b => es.any (fun e => e.base < 0x8000 * (b + 1) && 0x8000 * b < e.base + e.size))

/-- An extent can return to its offsets on a core (R356): no allocation there overlaps it, and every bank that it covers is
in scratchpad mode or can be switched to it. -/
def extentFree (s : State) (core : Nat) (e : Extent) : Bool :=
  !(s.teams.any (fun t => t.core = core && t.exts.any (fun x => x.base < e.base + e.size && e.base < x.base + x.size))) &&
  (extentBanks [e]).all (fun b => (bankOf s core b).mode != .fifo && (bankOf s core b).next.isNone)

/-- FIFO banks of a saved team. -/
def savedFifos (v : Saved) (t : Team) : List (Nat × Bank) :=
  ((v.banks.filter (fun e => e.1 / 48 = t.core && e.2.mode == .fifo && e.2.owner = t.slot)).map (fun e => (e.1 % 48, e.2)))

/-- Matrix slots of a saved team, and its groups. -/
def savedSlots (v : Saved) (t : Team) : List Slot := v.slots.filter (fun k => k.core = t.core && k.team = t.slot)
def savedGroups (v : Saved) (t : Team) : List Group := v.groups.filter (fun g => g.core = t.core && g.slot = t.slot)
def savedCopies (v : Saved) (t : Team) : List CopyOp := v.copies.filter (fun c => c.core = t.core && c.slot = t.slot)

/-- Accumulator banks that no firing of a core holds. -/
def freeBanks (core : Nat) (s : State) : List Nat :=
  [0, 1].filter (fun b => !(s.slots.any (fun k => k.core = core && k.bank == some b)))

/-- How a core would take back a saved team (R356): a free slot, the same offsets and FIFO banks, its matrix slots and
copy identifiers, room for its groups, a pipe without a crew for each crew. -/
def planRestore (s : State) (v : Saved) (l : Launch) (t : Team) (core : Nat) : Option TeamPlan :=
  let fs := (savedFifos v t).map Prod.fst
  let ks := savedSlots v t
  let ok := t.exts.all (extentFree s core) && fs.all (bankTakes s core) &&
    ks.all (fun k => !(s.slots.any (fun x => x.core = core && x.num = k.num))) &&
    (ks.filter (fun k => k.bank.isSome)).length ≤ (freeBanks core s).length &&
    (savedCopies v t).all (fun c => !(s.copyOps.any (fun x => x.core = core && x.ident = c.ident)))
  match freeSlot s core, placeSaved l.regs ((savedGroups v t).map (fun g => (g.idx.group, g.crew.isSome))) (blocksUsed s core) (crewPipes s core) with
  | some n, some ps => if ok then some ⟨n, 0, ps⟩ else none
  | _, _ => none

/-- The team of a saved gang at a place in a cluster. -/
def savedTeam (v : Saved) (cluster pos : Nat) : Option Team := v.teams.find? (fun t => t.cluster = cluster && t.pos = pos)

/-- A core can take back what stands at a place of a saved cluster; a team that had retired needs nothing. -/
def restoreFits (s : State) (v : Saved) (l : Launch) (cluster pos core : Nat) : Bool :=
  match savedTeam v cluster pos with
  | none => true
  | some t => coreIn s l.part core && !(reservedFor s l core) && (planRestore s v l t core).isSome

/-- Clusters of a saved gang, each at the first origin where its teams can return. -/
def packSaved (s : State) (v : Saved) (l : Launch) (die : Nat) : List Nat → List Nat → Option (List (Nat × Nat))
  | [], _ => some []
  | c :: r, used =>
    let fits := fun o =>
      let cs := clusterCores die l.w l.h o
      (List.range cs.length).all (fun i => restoreFits s v l c i (cs.getD i 0) && !(used.contains (cs.getD i 0)))
    match (origins l.w l.h).find? fits with
    | none => none
    | some o => (packSaved s v l die r (used ++ clusterCores die l.w l.h o)).map (fun q => (c, o) :: q)

/-- Entries of a table moved from one core's keys to another's. -/
def moveKeys {α : Type} (width core core' : Nat) (t : List (Nat × α)) : List (Nat × α) :=
  (t.filter (fun e => e.1 / width = core)).map (fun e => (core' * width + e.1 % width, e.2))

/-- Entries put into a table. -/
def putEntries {α : Type} [DecidableEq α] (d : α) (es t : List (Nat × α)) : List (Nat × α) :=
  es.foldl (fun t e => tset d t e.1 e.2) t

/-- A restored group on its new core, slot, pipe and blocks (R356). -/
def movedGroup (core slot seq gid : Nat) (roles : List RoleEntry) (p : Nat × Nat) (g : Group) : Group :=
  { g with core := core, slot := slot, pipe := p.1, blk := p.2, seq := seq, gid := gid, roles := roles, request := .none }

/-- The saved groups of a team put on their pipes. -/
def restoreGroups (core slot : Nat) (roles : List RoleEntry) : List Group → List (Nat × Nat) → State → State
  | [], _, s => s
  | g :: r, ps, s =>
    let s := addGroup (movedGroup core slot (s.tick + 1) g.gid roles (ps.headD (0, 0)) g) { s with tick := s.tick + 1 }
    restoreGroups core slot roles r ps.tail s

/-- Matrix slots of a team on their new core, each that holds an accumulator bank with a free one. -/
def movedSlots (core slot : Nat) : List Slot → List Nat → List Slot
  | [], _ => []
  | k :: r, free =>
    if k.bank.isSome then { k with core := core, team := slot, bank := free.head? } :: movedSlots core slot r free.tail
    else { k with core := core, team := slot } :: movedSlots core slot r free

/-- A copy of a team on its new core, with an engine of its die: a stopped one goes on (R356). -/
def movedCopy (s : State) (core slot : Nat) (c : CopyOp) : CopyOp :=
  { c with core := core, slot := slot, st := if c.st == .stopped then .running else c.st,
           engine := pickEngine s core c.part.toNat (s.free + c.ident) }

/-- An event-queue word of a team on its new core. -/
def movedWord (core slot : Nat) (e : EvWord) : EvWord :=
  { e with core := core, slot := slot, eng := if 1000 ≤ e.eng then arrayEngine core else e.eng }

/-- A FIFO bank of a team on its new core; its peer's core is where the peer's team stands now (R356). -/
def movedBank (slot : Nat) (where_ : Nat → Nat) (core : Nat) (b : Bank) : Bank :=
  if b.fifo.lnk then { b with owner := slot, fifo := { b.fifo with moved := some (where_ (peerOf core b.fifo).1) } }
  else { b with owner := slot }

/-- A team of a saved gang restored on a core (R356). -/
def restoreTeam (v : Saved) (l : Launch) (roles : List RoleEntry) (where_ : Nat → Nat) (t : Team) (core : Nat) (s : State) : State :=
  match planRestore s v l t core with
  | none => s
  | some p =>
    let s := (extentBanks t.exts).foldl (fun s b => switchBank core b .scratch 0 s) s
    let s := t.exts.foldl (fun s e => clearScratch core e.base e.size s) s
    let s := dropFetched core (acquireDrop core true s)
    let inExts := fun (o : Nat) => t.exts.any (fun e => e.base ≤ o && o < e.base + e.size)
    let data := (moveKeys 0x180000 t.core core v.smem).filter (fun e => inExts (e.1 % 0x180000))
    let tags := (moveKeys 0x60000 t.core core v.tags).filter (fun e => inExts (4 * (e.1 % 0x60000)))
    let s := (savedFifos v t).foldl (fun s e =>
      setBank core e.1 (fun _ => movedBank p.slot where_ t.core e.2) (switchBank core e.1 .fifo p.slot s)) s
    let s := { s with
      smem := putEntries 0 data s.smem, tags := putEntries false tags s.tags,
      teams := s.teams ++ [{ t with core := core, slot := p.slot }],
      slots := s.slots ++ movedSlots core p.slot (savedSlots v t) (freeBanks core s),
      copyOps := s.copyOps ++ (savedCopies v t).map (movedCopy s core p.slot), free := s.free + 65536,
      evq := s.evq ++ (v.evq.filter (fun e => e.core = t.core && e.slot = t.slot)).map (movedWord core p.slot) }
    restoreGroups core p.slot roles (savedGroups v t) p.places s

/-- The monitor of the issuing group set to its snapshot, triggered or not; `mwait` ends if it is. -/
def endRearm (old : Monitor) (hit : Bool) (s : State) : State :=
  let s := updCur (fun g => { g with mon := g.mon.map (fun x => { x with snapshot := old.snapshot, triggered := hit }) }) s
  if hit then wakeMwait s else s

/-- Monitors armed again at a restore (R181): the line is tracked again and the aligned 8 bytes are read; `mwait` ends if
the value differs from the snapshot or the monitor had triggered, and, as a spurious wake (R180), where the address can no
longer be read at once. -/
def rearm (gid : Nat) (s : State) : State :=
  onGroup gid (fun s =>
    match s.cur.mon with
    | none => s
    | some m =>
      match translate (whoOf s.cur) .load m.addr s with
      | (s, .ok (.dev pa _)) =>
        if locBusy s (.dev pa true) then endRearm m true s
        else ifRuns s.cur (monitorAt m.addr pa s) fun s =>
          endRearm m (m.triggered || s.cur.mon.map Monitor.snapshot != some m.snapshot) s
      | (s, _) => endRearm m true s) s

/-- A saved gang's span restored at the origins of its clusters (R356). -/
def restoreSpan (v : Saved) (l : Launch) (x : Span) (os : List (Nat × Nat)) (s : State) : State :=
  let r := rolesOf l s
  let coreFor := fun (t : Team) => (clusterCores x.die l.w l.h (((os.find? (fun o => o.1 = t.cluster)).map Prod.snd).getD 0)).getD t.pos 0
  let where_ := fun (c : Nat) => ((v.teams.find? (fun t => t.core = c)).map coreFor).getD c
  let s := v.teams.foldl (fun s t => restoreTeam v l r.2 where_ t (coreFor t) s) r.1
  let s := { s with saves := s.saves.filter (fun w => !(w.launch = v.launch && w.span = v.span)) }
  let s := v.groups.foldl (fun s g => rearm g.gid s) s
  setSpan l.id x.num placedSpan s

/-- A candidate of a round: the launch, and the spans that go together (R383, R386). -/
structure Candidate where
  launch : Nat
  spans : List Nat
  cls : Nat
  deriving DecidableEq, Repr

/-- A launch's span on a die. -/
def spanOn (l : Launch) (die : Nat) : Option Span := l.spans.find? (fun x => x.die = die)

/-- The head of a queue on a die (R383, R403): the launch of its oldest span not yet placed. -/
def headOf (s : State) (q die : Nat) : Option Launch :=
  s.launches.find? (fun l => l.queue = q && l.timed.isNone && !l.orphan && (spanOn l die).any (fun x => x.st == .waiting))

/-- The launch's waiting span on a die is a candidate there: the head of its queue, or a released TIMED launch. -/
def waitsOn (s : State) (l : Launch) (die : Nat) : Bool :=
  if l.timed.isSome then !l.held else (headOf s l.queue die).any (fun h => h.id = l.id)

/-- The candidate that a launch offers on a die (R383, R386): its waiting span, or its saved one, with the launch's other
spans where it is co-resident. A saved gang goes before the head of its queue. -/
def candidateOf (s : State) (die : Nat) (l : Launch) : Option Candidate :=
  match spanOn l die with
  | none => none
  | some x =>
    let all := if l.cor then l.spans else [x]
    let nums := all.map Span.num
    match x.st with
    | .waiting => if all.all (fun y => y.st == .waiting && waitsOn s l y.die) then some ⟨l.id, nums, l.pclass⟩ else none
    | .saved =>
      if all.all (fun y => y.st == .saved || y.st == .done) then
        some ⟨l.id, (all.filter (fun y => y.st == .saved)).map Span.num, max l.pclass (((headOf s l.queue die).map Launch.pclass).getD 0)⟩
      else none
    | _ => none

/-- A span of a launch on a die is saved and awaits its restore. -/
def savedOn (die : Nat) (l : Launch) : Bool := (spanOn l die).any (fun x => x.st == .saved)

/-- Launches in the order of a round on some dies (R383): by arrival at the marshal, the saved gangs of a queue before its
head. -/
def arrivalOrder (s : State) (dies : List Nat) : List Launch :=
  (s.launches.flatMap (fun l =>
    dies.flatMap (fun d => if (headOf s l.queue d).any (fun h => h.id = l.id) then
      s.launches.filter (fun x => x.queue = l.queue && savedOn d x) else []) ++ [l])).eraseDups

/-- The candidates of a round of some dies in their order (R383): by class, then by arrival; one that several of the dies
share (R386) is one. -/
def candidatesOn (s : State) (dies : List Nat) : List Candidate :=
  let cs := (arrivalOrder s dies).flatMap (fun l => (dies.filterMap (fun d => candidateOf s d l)).eraseDups)
  [3, 2, 1, 0].flatMap (fun p => cs.filter (fun c => c.cls = p))

/-- The candidates of a die. -/
def candidates (s : State) (die : Nat) : List Candidate := candidatesOn s [die]

/-- The dies of a candidate's spans. -/
def diesOf (s : State) (c : Candidate) : List Nat :=
  (s.launches.filter (fun l => l.id = c.launch)).flatMap (fun l => (l.spans.filter (fun x => c.spans.contains x.num)).map Span.die)

/-- The dies whose marshals run a round together (R386): those that share a candidate with one of them, with fuel for the
four dies. -/
def jointDies (s : State) : Nat → List Nat → List Nat
  | 0, ds => ds
  | n + 1, ds => jointDies s n ((ds ++ ds.flatMap (fun d => (candidates s d).flatMap (diesOf s))).eraseDups)

/-- What a candidate's span needs to be placed. -/
inductive SpanPlan where
  | fresh (clusters : List (List Nat))
  | restore (v : Saved) (origins : List (Nat × Nat))
  deriving DecidableEq, Repr

/-- Where a span would go: a fresh one by R384, a saved one by R356. -/
def planSpan (s : State) (l : Launch) (x : Span) : Option SpanPlan :=
  if x.st == .saved then
    (s.saves.find? (fun v => v.launch = l.id && v.span = x.num)).bind (fun v =>
      (packSaved s v l x.die (List.range l.clusters) []).map (SpanPlan.restore v))
  else (packSpan s l x).map SpanPlan.fresh

/-- A span placed as planned. -/
def carryOut (l : Launch) (x : Span) (p : SpanPlan) (s : State) : State :=
  match p with
  | .fresh cs => placeSpan l x cs s
  | .restore v os => restoreSpan v l x os s

/-- The cores of a partition on a die. -/
def partCores (s : State) (part die : Nat) : List Nat := (List.range 96).map (fun i => 96 * die + i) |>.filter (coreIn s part)

/-- A candidate of a partition holds a reservation on a die (R385). -/
def hasReservation (s : State) (part die : Nat) : Bool :=
  s.launches.any (fun l => l.part = part && l.spans.any (fun x => x.die = die && !x.resv.isEmpty))

/-- A candidate that could not be placed ages, and may reserve the cores of its partition (R385). -/
def ageSpan (l : Launch) (s : State) (x : Span) : State :=
  let age := min (x.age + 1) 255
  let resv := (partOf s l.part).agemax ≤ age && !(hasReservation s l.part x.die)
  setSpan l.id x.num (fun y => { y with age := age, resv := if resv then partCores s l.part x.die else y.resv }) s

/-- One candidate of a round (R385, R386): every span of it placed, or none. -/
def tryCandidate (s : State) (c : Candidate) : State :=
  match s.launches.find? (fun l => l.id = c.launch) with
  | none => s
  | some l =>
    let xs := l.spans.filter (fun x => c.spans.contains x.num)
    let ps := xs.map (planSpan s l)
    if ps.all Option.isSome then (xs.zip ps).foldl (fun s e => match e.2 with
      | some p => carryOut l e.1 p s
      | none => s) s
    else xs.foldl (ageSpan l) s

/-- The candidates of a round that it has left on a die are known there. -/
def noteLeft (cs : List Candidate) (s : State) (die : Nat) : State :=
  let left := ((candidates s die).filter (fun c => cs.any (fun x => x.launch = c.launch))).map (fun c => (die, c.launch))
  { s with known := s.known.filter (fun k => !(k.1 = die)) ++ left }

/-- A round of a die (R385), with those that share a co-resident launch with it (R386): the candidates, fixed when it begins
(R403), in turn. -/
def placementRound (die : Nat) (s : State) : State :=
  let dies := jointDies s 4 [die]
  let cs := candidatesOn s dies
  dies.foldl (noteLeft cs) (cs.foldl tryCandidate { s with roundDue := s.roundDue.filter (fun d => !(dies.contains d)) })

/-- A die on which a round must run (R385): a candidate has arrived, which becoming its queue's head is (R403), a team has
retired, or a reservation has been released outside a round. -/
def roundWanted (s : State) (die : Nat) : Bool :=
  s.roundDue.contains die || (candidates s die).any (fun c => !(s.known.contains (die, c.launch)))

/-- PLACEMENT_ROUND (R385), one that falls due, or one of those that run at least every 4,096 control cycles. It reads
kernel headers, and so begins once the Cox may read. -/
def execPlacementRound (die : Nat) (s : State) : Result := .next (if coxIdle s then placementRound die s else s)

/-- STAKEBOAT_RELEASE (R382): the clock has reached T − LEAD; the launch arrives at the marshals. -/
def execStakeboatRelease (launch : Nat) (s : State) : Result :=
  .next (match s.launches.find? (fun l => l.id = launch && l.held) with
    | none => s
    | some l =>
      match l.timed with
      | none => s
      | some t =>
        let s := { s with clock := max s.clock (t.1 - t.2) }
        let s := recordWake l.part 2 l.queue (leBytes 8 t.1 ++ leBytes 8 s.clock) s
        { s with launches := s.launches.filter (fun x => !(x.id = launch)) ++ [{ l with held := false }] })

/-- TIMED_START (R382): the clock has reached T; the groups that are placed become ready. -/
def execTimedStart (launch : Nat) (s : State) : Result :=
  .next (match s.launches.find? (fun l => l.id = launch && !l.started && !l.held) with
    | none => s
    | some l =>
      match l.timed with
      | none => s
      | some t => setLaunch launch (fun l => { l with started := true }) { s with clock := max s.clock t.1 })

end Sys2Proof.Machine
end

