-- ==== Sys2Proof/Machine/Retire.lean ====
section
/-! DEFINITION. Retirement of groups and teams, and the completion of spans and grids (R224). -/
namespace Sys2Proof.Machine

/-- A group without a live lane whose stores are all performed, but for contributions that the reduction unit holds
(R224). -/
def canRetire (g : Group) : Bool :=
  g.placed && g.arch.live = 0 && g.posted.all Posted.merged && g.fence.isNone && g.passes.isNone && g.pend.isNone && g.crew.isNone

/-- A group leaves: its register blocks, scalar registers and park slot are free. -/
def removeGroup (gid : Nat) (s : State) : State :=
  { s with groups := s.groups.filter (fun g => !(g.gid = gid)),
           cur := if s.cur.gid = gid then { s.cur with placed := false } else s.cur }

/-- The contributions of the issuing group that the reduction unit holds are performed (R417). -/
def flushOwn (s : State) : State := flushPas (mergedAddrs s s.cur) s

/-- GROUP_RETIRE (R224): its contributions held by the reduction unit are performed first (R417). -/
def execGroupRetire (gid : Nat) (s : State) : Result :=
  .next (if (findGroup gid s).any canRetire then
      let s := onGroup gid flushOwn s
      if (findGroup gid s).any (fun g => canRetire g && g.posted.isEmpty) then removeGroup gid s else s
    else s)

/-- An engine operation that has started and holds back the retirement of its team (R224): a copy that runs, a firing, a
`sacc`. -/
def engineBusy (s : State) (core slot : Nat) : Bool :=
  s.copyOps.any (fun c => c.core = core && c.slot = slot && c.st == .running) ||
  (teamSlots s core slot).any (fun k => inFiring k || k.cmds.any MxCmd.running)

/-- A span without a team is done; a launch whose spans are done completes (R224, R382). -/
def spanDone (launch span : Nat) (s : State) : State :=
  if s.teams.any (fun t => t.launch = launch && t.span = span) then s
  else
    let s := setSpan launch span (fun x => { x with st := .done }) s
    match s.launches.find? (fun l => l.id = launch) with
    | none => s
    | some l => if l.spans.all (fun x => x.st == .done) then finishLaunch l (if l.late.isSome then 6 else 1) s else s

/-- A team may retire (R224): its last group has, and what its engines started has completed. -/
def teamReady (s : State) (t : Team) : Bool :=
  !((allGroups s).any (fun g => g.core = t.core && g.slot = t.slot)) && !(engineBusy s t.core t.slot)

/-- TEAM_RETIRE (R224): the dirty words of its core are written back, since the status word of its launch, which the last
team gives, is a release of what it stored (R371); a placement round falls due (R385). -/
def execTeamRetire (core slot : Nat) (s : State) : Result :=
  .next (match teamAt s core slot with
    | none => s
    | some t =>
      if teamReady s t then
        let s := freeTeam core slot (cleanCore core s)
        spanDone t.launch t.span { s with roundDue := dieOf core :: s.roundDue }
      else s)

end Sys2Proof.Machine
end

