-- ==== Sys2Proof/Machine/System.lean ====
section
/-! DEFINITION. System instructions (R277 to R287) and the special registers (R78, R88, R90, R113, R282). -/
namespace Sys2Proof.Machine

/-- A system instruction (R268, R269): it waits for an incomplete fence, and acts once, with an active lane. -/
def systemOp (s : State) (k : State → State) : State := afterFence s fun s => onceForGroup 16 s k

/-- The group in role n (R229): registers that become reachable hold zero. -/
def enterRole (n : Nat) (r : RoleEntry) (g : Group) : Group :=
  let new := 16 * r.allot
  let v := if g.allot < new then tclear g.arch.vregs (32 * g.allot) (32 * 1024) else g.arch.vregs
  { g with role := n, allot := new, cls := r.cls, arch := { g.arch with vregs := v } }

/-- `role n` (R229, R277). -/
def roleOp (n : Nat) (s : State) : State :=
  notCrew s fun s => systemOp s fun s =>
    match (s.cur.roles[n]?).filter (fun r => r.allot != 0 && s.cur.arch.stack.isEmpty) with
    | none => raiseOpen .roleState s
    | some r => goto (s.cur.entry + r.off.setWidth 57) (updCur (enterRole n r) s)

/-- ROLE, role 0 (R277). -/
def execRole0 (s : State) : Result := .next (roleOp 0 s)
/-- ROLE, role 1 (R277). -/
def execRole1 (s : State) : Result := .next (roleOp 1 s)
/-- ROLE, role 2 (R277). -/
def execRole2 (s : State) : Result := .next (roleOp 2 s)
/-- ROLE, role 3 (R277). -/
def execRole3 (s : State) : Result := .next (roleOp 3 s)

/-- YIELD (R278, R354): a held request is taken after it; otherwise the group gives up the pipe. -/
def execYield (s : State) : Result :=
  .next (systemOp s fun s =>
    let s := advance 16 s
    if s.cur.request == .held then updCur takeHeld s else giveUp s)

/-- TRAP (R279). -/
def execTrap (n : BitVec 16) (s : State) : Result :=
  .next (systemOp s fun s => raise ⟨.softwareTrap, n, groupMask s, 0, s.cur.arch.pc + 16⟩ s)
/-- BKPT (R279). -/
def execBkpt (n : BitVec 16) (s : State) : Result :=
  .next (systemOp s fun s => raise ⟨.breakpoint, n, groupMask s, 0, s.cur.arch.pc⟩ s)

/-- TRET (R280, R351, R354): legal while traps are masked; a held request is taken after it. -/
def execTret (s : State) : Result :=
  .next (systemOp s fun s =>
    if masked s.cur then updCur takeHeld (returnTrap s) else raiseOpen .trapState s)

/-- The bank-state register (R78). -/
def bankState (s : State) (core b : Nat) : Word :=
  let k := bankOf s core b
  let mode := match k.mode with
    | .cache => 0 | .scratch => 1 | .fifo => 2
  BitVec.ofNat 64 (mode + 8 * k.next.isSome.toNat + 16 * (k.mode == .fifo && k.fifo.lnk).toNat + 32 * (bankAlloc s core b).toNat +
    64 * (if k.mode == .fifo then k.owner else 0))

/-- The FIFO configuration register (R88). -/
def fifoConfig (s : State) (core b : Nat) : Word :=
  let k := bankOf s core b
  if k.mode == .fifo then k.fifo.cfg.setWidth 64 else 4

/-- The FIFO status word of a bank (R88). -/
def bankStatus (k : Bank) : Word :=
  if k.mode == .fifo then
    BitVec.ofNat 64 (k.fifo.items.length * 2 ^ 18 + k.fifo.cred * 16 + 8 * (headToken k.fifo).toNat + 4 * k.fifo.brk.toNat)
  else 0

/-- The FIFO status register (R88). -/
def fifoStatus (s : State) (core b : Nat) : Word := bankStatus (bankOf s core b)

/-- The context register (R282). -/
def contextReg (s : State) (g : Group) : Word :=
  BitVec.ofNat 64 ((tget 0 s.gens g.asid.toNat).toNat * 2 ^ 32 + g.asid.toNat * 2 ^ 16 + g.priv.toNat * 2 ^ 11 +
    g.part.toNat * 2 ^ 8 + g.cls.toNat * 16 + g.role)

/-- The position register (R282). -/
def positionReg (g : Group) : Word :=
  BitVec.ofNat 64 (g.core / 96 * 2 ^ 14 + g.core % 96 / 12 * 2 ^ 11 + g.core % 12 * 2 ^ 7 + g.pipe * 16 + g.slot)

/-- Requests in flight that are tagged with the version before the active one (R113): posted operations, contributions
that the reduction unit holds, and those whose recall the host port has not acknowledged. -/
def drainCount (s : State) : Nat :=
  ((allGroups s).map (fun g => (g.posted.filter (fun p => p.cell.isSome && p.ver != s.ver)).length)).foldl (fun a b => a + b) 0 +
    if s.commitPend then (s.redUnit.filter RedEntry.peer).length + s.hostAcks.length else 0

/-- The table-control register (R113). -/
def tableControl (s : State) : Word :=
  BitVec.ofNat 64 (min (drainCount s) 65535 * 16 + 8 * s.commitPend.toNat + s.ver.toNat)

/-- The key of a context in the list of stepped ones. -/
def contextKey (g : Group) : Nat := g.asid.toNat + 65536 * g.part.toNat

/-- `sr.rd` of the clock status register (R282): STEP is cleared by the read. -/
def readClockStatus (d : SReg) (s : State) : State :=
  let key := contextKey s.cur
  let v := BitVec.ofNat 64 (2 * (s.stepped.contains key).toNat + s.clockLock.toNat)
  advance 16 (setS d v { s with stepped := s.stepped.filter (fun k => k != key) })

/-- The special registers whose reads change nothing (R282). -/
def specialReg (s : State) (n : Nat) : Word :=
  let g := s.cur
  if n = 0x001 then g.arch.lpart.setWidth 64
  else if n = 0x002 then g.rbk.setWidth 64
  else if n = 0x003 then g.pidx.setWidth 64
  else if n = 0x008 then g.tvec
  else if n = 0x009 then g.tcause
  else if n = 0x00A then g.tlm.setWidth 64
  else if n = 0x00B then g.taddr
  else if n = 0x00C then g.tepc
  else if 0x010 ≤ n && n ≤ 0x016 then (tget 0 g.arch.ffl (n - 0x010)).setWidth 64
  else if 0x018 ≤ n && n ≤ 0x01E then (tget 0 g.ften (n - 0x018)).setWidth 64
  else if n = 0x020 then contextReg s g
  else if n = 0x022 then positionReg g
  else if n = 0x023 then tableControl s
  else if 0x100 ≤ n && n ≤ 0x12F then bankState s g.core (n - 0x100)
  else if 0x200 ≤ n && n ≤ 0x22F then fifoConfig s g.core (n - 0x200)
  else fifoStatus s g.core (n - 0x300)

/-- SR_RD (R281, R282). -/
def execSrRd (d : SReg) (n : BitVec 12) (s : State) : Result :=
  .next (systemOp s fun s =>
    if n = 0x023 && !s.cur.priv then raiseOpen .privilege s
    else if n = 0x024 then readClockStatus d s
    else advance 16 (setS d (specialReg s n.toNat) s))

/-- CLOCK_STATUS_READ (R282): the read of the clock status register by the issuing group. -/
def execClockStatusRead (d : SReg) (s : State) : Result := .next (systemOp s fun s => readClockStatus d s)

/-- A FIFO configuration that R88 accepts: the peer of a link lies in the team's partition. Reserved bits are ignored
(R281). -/
def configAccepted (s : State) (core : Nat) (v : BitVec 32) : Bool :=
  let n := v.toNat
  let f : Fifo := { resetFifo with cfg := v }
  n / 2 ^ 30 != 3 && n / 2 ^ 26 % 16 ≤ 13 && n / 2 ^ 20 % 16 ≤ 11 && n / 2 ^ 11 % 64 ≤ 47 &&
  4 ≤ n % 16 && n % 16 ≤ 13 && (!(v.getLsbD 24) || tget 0 s.coreOwner (peerOf core f).1 = tget 0 s.coreOwner core)

/-- Two banks can form a link (R90): each names the other with LEN = 1, and one is a producer end, one a consumer end. -/
def linkable (s : State) (core b : Nat) : Bool :=
  let k := bankOf s core b
  let p := peerOf core k.fifo
  let j := bankOf s p.1 p.2
  k.mode == .fifo && j.mode == .fifo && k.next.isNone && j.next.isNone && wantsLink k.fifo && wantsLink j.fifo &&
  peerOf p.1 j.fifo == (core, b) && isConsumer k.fifo != isConsumer j.fifo && !k.fifo.lnk && !j.fifo.lnk && !k.fifo.brk && !j.fifo.brk

/-- A link becomes active (R90): the producer starts with credits equal to the consumer's capacity. -/
def activate (core b : Nat) (s : State) : State :=
  if linkable s core b then
    let p := peerOf core (bankOf s core b).fifo
    let c := if isConsumer (bankOf s core b).fifo then (core, b) else p
    let m := if isConsumer (bankOf s core b).fifo then p else (core, b)
    let cap := fifoCap (bankOf s c.1 c.2).fifo
    pump m.1 m.2 (setFifo c.1 c.2 (fun f => { f with lnk := true, owed := 0 }) (setFifo m.1 m.2 (fun f => { f with lnk := true, cred := cap }) s))
  else s

/-- A write of a FIFO configuration register (R88). A bank is unlinked while its link is not active, whatever its LEN says
(DESIGN CHOICE: R78 and R88 do not say whether a bank that waits for its peer is linked; log 74). -/
def writeFifoConfig (b : Nat) (v : Word) (s : State) : State :=
  let core := s.cur.core
  let k := bankOf s core b
  let c := v.setWidth 32 &&& 0xFFFFF80F
  if k.mode == .fifo && k.owner = s.cur.slot && k.fifo.items.isEmpty && k.fifo.inItems.isEmpty && !k.fifo.lnk &&
      configAccepted s core c then
    advance 16 (activate core b (setFifo core b (fun f => { f with cfg := c, moved := none, owed := 0 }) s))
  else raiseOpen .fifoConfig s

/-- FIFO_CONFIG_WRITE (R88): the `sr.wr` of a bank's configuration register by the issuing group. -/
def execFifoConfigWrite (bank : BitVec 6) (a : SReg) (s : State) : Result :=
  .next (systemOp s fun s => writeFifoConfig bank.toNat (getS s a) s)

/-- A write of the credit-return register (R90). -/
def writeCredit (v : Word) (s : State) : State :=
  let core := s.cur.core
  let b := v.toNat / 2 ^ 16 % 64
  let n := v.toNat % 2 ^ 14
  let k := bankOf s core b
  let p := peerOf core k.fifo
  let f := (bankOf s p.1 p.2).fifo
  if b < 48 && k.mode == .fifo && k.owner = s.cur.slot && isConsumer k.fifo && creditMode k.fifo = 2 && k.fifo.lnk &&
      1 ≤ n && n ≤ 8192 && f.cred + f.inCred.foldl (fun a b => a + b) 0 + n ≤ fifoCap k.fifo then
    advance 16 (returnCredits core b n s)
  else raiseOpen .fifoConfig s

/-- CREDIT_RETURN_WRITE (R90): the `sr.wr` of the credit-return register by the issuing group. -/
def execCreditReturnWrite (a : SReg) (s : State) : Result := .next (systemOp s fun s => writeCredit (getS s a) s)

/-- SR_WR (R281, R282, R350). `tepc` takes bits [56:0] of the value, its bits [1:0] too: a `tret` to an address that is no
multiple of 4 resumes there, and the fetch takes the words from there (DESIGN CHOICE: R22 aligns instructions to 4 bytes
and names no trap for such an address; log 79). -/
def execSrWr (n : BitVec 12) (a : SReg) (s : State) : Result :=
  .next (systemOp s fun s =>
    let v := getS s a
    let k := n.toNat
    if k = 0x008 then advance 16 (updCur (fun g => { g with tvec := v &&& 0x01FFFFFFFFFFFFFC }) s)
    else if k = 0x00C then
      if masked s.cur then advance 16 (updCur (fun g => { g with tepc := v &&& 0x01FFFFFFFFFFFFFF }) s)
      else raiseOpen .specialRegister s
    else if 0x010 ≤ k && k ≤ 0x016 then
      advance 16 (updArch (fun r => { r with ffl := tset 0 r.ffl (k - 0x010) (v.setWidth 32) }) s)
    else if 0x018 ≤ k && k ≤ 0x01E then
      advance 16 (updCur (fun g => { g with ften := tset 0 g.ften (k - 0x018) (v.setWidth 32) }) s)
    else if k = 0x030 then writeCredit v s
    else writeFifoConfig (k - 0x200) v s)

/-- A lap flush (R69): every entry of an ASID leaves the TLBs. -/
def lapFlush (asid : BitVec 16) (s : State) : State :=
  { s with tlb1 := s.tlb1.filter (fun e => e.2.asid != asid), tlb2 := s.tlb2.filter (fun e => e.2.asid != asid),
           asidCache := s.asidCache.filter (fun e => e.2.asid != asid) }

/-- Steps 1 and 2 of R68: the generation advances, and the device writes it to the ASID table. The model keeps the current
generations itself and never reads the table's gen back: neither a move of the table's base nor a driver's write over the
field, which is RO to it, changes them (DESIGN CHOICE: R67 does not say what either does; log 80). -/
def bumpGen (asid : BitVec 16) (s : State) : State :=
  let gen := tget 0 s.gens asid.toNat + 1
  let a := s.asidBase.toNat + 16 * asid.toNat + 8
  putPhys peerTag a (leBytes 2 gen.toNat) (coxCheck a 0 { s with gens := tset 0 s.gens asid.toNat gen })

/-- Step 3 of R68: every access of the ASID that issued before a bump began has been performed. -/
def bumpDone (asid : BitVec 16) (since : Nat) (s : State) : Bool :=
  (allGroups s).all (fun g => g.asid != asid || ((unperformed g).all (fun p => since ≤ p.instr) && g.passes.isNone))

/-- The contributions of an ASID's groups that the reduction unit holds are performed, where they can be (R417). -/
def flushAsid (asid : BitVec 16) (s : State) : State :=
  flushPas (((allGroups s).filter (fun g => g.asid == asid)).flatMap (mergedAddrs s)) s

/-- Steps 3 to 5 of R68: what the cores still hold dirty is written to its home (log 76), a bump that can complete does, with
a lap flush for generation 0, and what waited for it goes on. -/
def endBump (asid gen : BitVec 16) (since : Nat) (s : State) (k : State → State) : State :=
  let s := cleanAll (flushAsid asid s)
  if bumpDone asid since s then k (if gen = 0 then lapFlush asid s else s) else s

/-- GEN_BUMP (R283). -/
def execGenBump (a : SReg) (s : State) : Result :=
  .next (notCrew s fun s => systemOp s fun s =>
    let asid := (getS s a).setWidth 16
    match s.cur.wait with
    | some (.bump x gen) => endBump x gen s.cur.since s (advance 16)
    | _ =>
      if !s.cur.priv && asid != s.cur.asid then raiseGroup .privilege (getS s a) s
      else
        let s := bumpGen asid s
        block (.bump asid (tget 0 s.gens asid.toNat)) s)

/-- GEN_BUMP_COMPLETE (R68). -/
def execGenBumpComplete (gid : Nat) (s : State) : Result :=
  .next (onGroup gid (fun s =>
    match s.cur.wait with
    | some (.bump asid gen) => endBump asid gen s.cur.since s (advance 16)
    | _ => s) s)

/-- GEN_BUMP by the Cox on the driver's behalf (R68). -/
def execCoxGenBump (asid : BitVec 16) (s : State) : Result :=
  let s := bumpGen asid s
  .next { s with tick := s.tick + 1, coxBumps := s.coxBumps ++ [(asid, tget 0 s.gens asid.toNat, s.tick + 1)] }

/-- GEN_BUMP_COMPLETE of the oldest bump of the Cox for an ASID (R68). -/
def execCoxGenBumpComplete (asid : BitVec 16) (s : State) : Result :=
  .next (match s.coxBumps.find? (fun b => b.1 == asid) with
    | none => s
    | some b => endBump asid b.2.1 b.2.2 s (fun s => { s with coxBumps := s.coxBumps.eraseP (fun x => x.1 == asid) }))

/-- Steps 1 to 3 of R113: the shadow bank becomes active and a commit is pending. -/
def startCommit (s : State) : State := { s with regions := s.shadowRegions, ver := s.ver + 1, commitPend := true }

/-- Steps 4 and 5 of R113: the commit completes once nothing is in flight under the old version; a `fence.table` that
made it goes on, what waited for a home is homed, and a waiting GO starts the next. -/
def endCommit (s : State) : State :=
  let s := if s.commitPend then flushWhere (fun _ => true) s else s
  if s.commitPend && drainCount s = 0 then
    let s := { s with commitPend := false, commitGo := if s.commitGo = 2 then min 1 s.goMore else s.commitGo,
                      goMore := if s.commitGo = 2 then s.goMore - 1 else s.goMore }
    let s := endDue s
    let s := ((allGroups s).filter (fun g => g.wait == some .commit)).foldl (fun s g => onGroup g.gid (advance 16) s) s
    if s.commitGo = 1 then startCommit { s with commitGo := 2 } else s
  else s

/-- FENCE_TABLE (R284). -/
def execFenceTable (s : State) : Result :=
  .next (notCrew s fun s => systemOp s fun s =>
    if !s.cur.priv then raiseOpen .privilege s
    else if s.cur.wait == some .commit then s
    else if s.commitPend then block .table s
    else block .commit (startCommit s))

/-- GO written with 1 (R406): one commit is asked for; one that is asked for while an earlier one has not completed follows it
(R113). -/
def goCommit (s : State) : State :=
  if s.commitGo != 0 then { s with goMore := s.goMore + 1 }
  else if s.commitPend then { s with commitGo := 1 } else startCommit { s with commitGo := 2 }

/-- TABLE_COMMIT_GO (R113, R406): GO written by the driver. -/
def execTableCommitGo (s : State) : Result := .next (goCommit s)

/-- TABLE_COMMIT_COMPLETE (R113). -/
def execTableCommitComplete (s : State) : Result := .next (endCommit s)

/-- PTP_RD (R285). -/
def execPtpRd (d : SReg) (s : State) : Result :=
  .next (systemOp s fun s =>
    let s := tickClock s
    advance 16 (setS d (BitVec.ofNat 64 s.clock) s))

/-- The packets accepted for a queue and not yet written to its ring (R286). -/
def enqFor (s : State) (q : Nat) : Nat := (s.enqBuf.filter (fun e => e.queue = q)).length

/-- The target ring has a free unit (R286). -/
def ringRoom (s : State) (q : Nat) : Bool :=
  let k := queueAt s q
  k.submit - k.cpl + enqFor s q < 2 ^ k.size

/-- ENQ (R286): the packet in eight scalar registers. -/
def execEnq (p : PReg) (b : SReg) (s : State) : Result :=
  .next (notCrew s fun s => systemOp s fun s =>
    let h := getS s b
    let q := h.toNat / 256 % 32
    let k := queueAt s q
    if h.toNat / 16 % 4 ≠ 0 || k.part ≠ s.cur.part.toNat || !k.devenq || !k.en then raiseGroup .enqueueTarget h s
    else if h.toNat % 16 = 7 && !s.cur.priv then raiseGroup .privilege h s
    else
      let s := releaseFlush s
      if !(releaseDone .device s) then block .posted s
      else
        let die := dieOf s.cur.core
        if 32 ≤ (s.enqBuf.filter (fun e => e.die = die)).length || !(ringRoom s q) then advance 16 (setP allLanes p allLanes s)
        else
          let ws := (List.range 8).map (fun i => getS s (b + BitVec.ofNat 6 i))
          advance 16 (setP allLanes p 0 { s with enqBuf := s.enqBuf ++ [⟨die, q, ws⟩] }))

/-- ENQUEUE_BUFFER_WRITE (R287): the oldest packet of a die's buffer is written to its ring and SUBMIT advances. -/
def execEnqueueBufferWrite (die : Nat) (s : State) : Result :=
  .next (match s.enqBuf.find? (fun e => e.die = die) with
    | none => s
    | some e =>
      let k := queueAt s e.queue
      let bs := e.words.flatMap (fun w => leBytes 8 w.toNat)
      setQueue e.queue (fun k => { k with submit := k.submit + 1 })
        (writeRing k (unitPhys k k.submit) bs { s with enqBuf := s.enqBuf.eraseP (fun e => e.die = die) }))

end Sys2Proof.Machine
end

