-- ==== Sys2Proof/Machine/Save.lean ====
section
/-! DEFINITION. Saving a gang (R355): group records (R358) and team records (R359) in the save area, and what is kept for
the restore. -/
namespace Sys2Proof.Machine

/-- The word of a queue table entry (R294). -/
def queueWord (e : QueueEntry) : Nat :=
  e.tok.toNat * 2 ^ 48 + e.pend * 2 ^ 43 + e.full * 2 ^ 38 + e.home * 2 ^ 33 + e.head * 2 ^ 29 + e.tail * 2 ^ 25 +
    e.depth * 2 ^ 20 + e.base * 2 ^ 12 + e.valid.toNat

/-- The number of a barrier level, as `bar` encodes it. -/
def barCode : BarLevel → Nat
  | .team => 0 | .cluster => 1 | .span => 2 | .grid => 3

/-- The header of a group record (R358). -/
def recordHeader (g : Group) : Nat :=
  let bar := match arrivedAt g with
    | some l => 8 + 16 * barCode l
    | none => 0
  g.crew.isSome.toNat + 2 * (masked g).toNat + 4 * (g.wait == some .mwait).toNat + bar + 2 ^ 6 * g.role + 2 ^ 8 * g.cls.toNat +
    2 ^ 10 * (g.allot / 16) + 2 ^ 18 * g.arch.stack.length + 2 ^ 24 * g.shadow.depth

/-- Per-lane bytes: bit i of byte l is lane l of mask i of a table (R358). -/
def laneBytes (t : List (Nat × Mask)) : List Byte :=
  (List.range 32).map (fun l => BitVec.ofNat 8 ((List.range 7).foldl (fun n i => n + 2 ^ i * ((tget 0 t i).getLsbD l).toNat) 0))

/-- A reconvergence stack as a record holds it, entry 0 the lowest (R358). -/
def stackBytes (st : List StackEntry) : List Byte :=
  st.reverse.flatMap (fun e => leBytes 8 (e.isJoin.toNat * 2 ^ 63 + e.addr.toNat) ++ leBytes 8 e.mask.toNat)

/-- State of a monitor in a record. -/
def monBytes (m : Option Monitor) : List Byte :=
  match m with
  | some m => leBytes 8 m.addr.toNat ++ leBytes 8 m.snapshot.toNat ++ leBytes 8 (if m.triggered then 2 else 1)
  | none => leBytes 24 0

/-- `em` and the LOG of `lpart` in one word (R358). -/
def emWord (em : Mask) (lp : BitVec 3) : Nat := em.toNat + 2 ^ 32 * lp.toNat

/-- What a crew adds to its group's record (R358). -/
def crewParts (g : Group) (c : Crew) (k : Park) : List (Nat × List Byte) :=
  [(0x160, [BitVec.ofNat 8 ((List.range 7).foldl (fun n i => n + 2 ^ i * ((tget 0 g.arch.preds i).getLsbD 0).toNat) 0)]),
   (0x680, leBytes 8 k.pc.toNat), (0x688, leBytes 8 (emWord k.em k.lpart)), (0x690, laneBytes k.preds),
   (0x6B0, [BitVec.ofNat 8 k.stack.length]), (0x800, stackBytes k.stack),
   (0xA00, c.seats.flatMap (fun x => leBytes 16 x.word.toNat)),
   (0xC00, c.seats.flatMap (fun x =>
     if isStream x then leBytes 8 x.base.toNat ++ leBytes 8 (x.k % 2 ^ 63 + 2 ^ 63 * x.fin.toNat) else leBytes 16 0))]

/-- A group record (R358) as parts at offsets; what is between is zero. -/
def groupParts (g : Group) : List (Nat × List Byte) :=
  let a := g.arch
  let word := fun (n : Nat) => leBytes 8 n
  [(0, word (recordHeader g)), (8, word a.pc.toNat), (0x10, word (emWord a.em a.lpart)),
   (0x18, word g.tvec.toNat ++ word g.tcause.toNat ++ word g.tlm.toNat ++ word g.taddr.toNat ++ word g.tepc.toNat),
   (0x40, word (g.rbk.toNat + 2 ^ 32 * g.pidx.toNat)), (0x48, word (emWord g.shadow.em g.shadow.lpart)),
   (0x50, g.shadow.sregs.flatMap (fun w => word w.toNat)), (0x90, monBytes g.mon),
   (0x100, laneBytes a.ffl), (0x120, laneBytes g.ften),
   (0x140, if g.crew.isSome then [] else laneBytes a.preds),
   (0x200, (List.range 64).flatMap (fun n => word (tget 0 a.sregs n).toNat)), (0x400, stackBytes a.stack),
   (0x600, g.queues.flatMap (fun e => word (queueWord e))),
   (0x1000, (List.range (32 * g.allot)).flatMap (fun i => leBytes 4 (tget 0 a.vregs i).toNat))] ++
  match g.crew, g.park with
  | some c, some k => crewParts g c k
  | _, _ => []

/-- Parts laid out over zeros. -/
def layOut (n : Nat) (ps : List (Nat × List Byte)) : List Byte :=
  ps.foldl (fun bs p => bs.take p.1 ++ p.2 ++ bs.drop (p.1 + p.2.length)) (List.replicate n 0)

/-- A group record (R358). -/
def groupRecord (g : Group) : List Byte := layOut (0x1000 + 128 * g.allot) (groupParts g)

/-- Bytes of an 8-byte count and the items that follow it. -/
def counted {α : Type} (f : α → List Byte) (xs : List α) : List Byte := leBytes 8 xs.length ++ xs.flatMap f

/-- Tags as bits, the lowest word in the lowest bit (R359). -/
def tagBytes (tags : List (Nat × Bool)) (key n : Nat) : List Byte :=
  (List.range ((n + 7) / 8)).map (fun i => BitVec.ofNat 8 ((List.range 8).foldl (fun v j => v + 2 ^ j * (tget false tags (key + 8 * i + j)).toNat) 0))

/-- An extent in a team record (R359): its data, then its tags. -/
def extentBytes (s : State) (core : Nat) (e : Extent) : List Byte :=
  tbytes s.smem (core * 0x180000 + e.base) e.size ++ tagBytes s.tags (core * 0x60000 + e.base / 4) (e.size / 4)

/-- An owned FIFO bank in a team record. -/
def fifoBytes (e : Nat × Bank) : List Byte :=
  leBytes 8 e.1 ++ leBytes 8 (e.2.fifo.cfg.toNat) ++ leBytes 8 (bankStatus e.2).toNat ++
    counted (fun x => leBytes 8 (match x with
      | some v => v.toNat
      | none => 2 ^ 32)) e.2.fifo.items

/-- The word of a slot's operation in a team record: M, N, K, `.mx` and the element format. -/
def opWord (o : MxOp) : Nat := o.m + 2 ^ 8 * o.n + 2 ^ 16 * o.k + 2 ^ 32 * o.mx.toNat + 2 ^ 40 * (tyCode o.ty).toNat

/-- The reader count of an operand of a slot (R325). -/
def readerCount (s : State) (core : Nat) (key : Option Nat) : Nat := (key.map (fun x => (readersOf s core x).length)).getD 0

/-- The reader counts of a slot's operands, and what it has consumed and fired on since their last consumed events. -/
def readerWord (s : State) (k : Slot) : Nat :=
  readerCount s k.core (aKey s k) + 2 ^ 8 * readerCount s k.core (bKey s k) + 2 ^ 16 * k.consA.toNat + 2 ^ 17 * k.consB.toNat +
    2 ^ 18 * k.firedA.toNat + 2 ^ 19 * k.firedB.toNat

/-- An owned matrix slot in a team record. -/
def slotBytes (s : State) (k : Slot) : List Byte :=
  leBytes 8 k.num ++ leBytes 8 (slotCode k.st) ++ counted (fun w => leBytes 8 w.toNat) k.cfg ++
    counted (fun o => leBytes 8 (opWord o) ++ leBytes 8 o.obj.toNat) k.op.toList ++
    leBytes 8 (readerWord s k) ++ leBytes 8 (k.rows.toNat + 2 ^ 32 * k.flags.toNat) ++ leBytes 8 k.prog ++
    counted (fun c => leBytes 8 c.sa.toNat ++ leBytes 8 c.sb.toNat) k.cmds ++
    (if k.bank.isSome then (List.range 1024).flatMap (fun i => leBytes 4 (tget 0 k.acc i).toNat) else [])

/-- An element of a copy whose bytes all lie in blocks that are written. -/
def elemMoved (c : CopyOp) (e : VAddr × VAddr) : Bool :=
  c.blocks.contains (blockOf e.2) && c.blocks.contains (blockOf (e.2 + BitVec.ofNat 57 (c.esize - 1)))

/-- The linear index of the next element that a copy has not moved (R355). -/
def nextElem (c : CopyOp) : Nat := ((copyElems c).findIdx? (fun e => !(elemMoved c e))).getD (copyElems c).length

/-- A copy in a team record. -/
def copyBytes (c : CopyOp) : List Byte :=
  leBytes 8 c.desc.toNat ++ leBytes 8 c.obj.toNat ++ leBytes 8 (c.ident + 2 ^ 16 * c.ev.toNat) ++ leBytes 8 (nextElem c)

/-- A team record (R359). The rules give its contents and their order, not their places: those are the model's. -/
def teamRecord (s : State) (v : Saved) (t : Team) : List Byte :=
  leBytes 8 t.slot ++ counted (fun e => leBytes 8 e.base ++ leBytes 8 e.size) t.exts ++
    t.exts.flatMap (extentBytes s t.core) ++ counted fifoBytes (savedFifos v t) ++
    counted (slotBytes s) (savedSlots v t) ++ counted copyBytes (savedCopies v t) ++
    counted (fun e => leBytes 8 e.word.toNat) (v.evq.filter (fun e => e.core = t.core && e.slot = t.slot))

/-- Bytes written at virtual addresses of a context by the Cox (R355); a byte whose address faults is not written. False
where a walk waits. -/
def putVirt (w : Who) (part : Nat) : VAddr → List Byte → State → State × Bool
  | _, [], s => (s, true)
  | a, b :: r, s =>
    match translate w .store a s with
    | (s, .ok l) => putVirt w part (a + 1) r (coxWrite part l [b] s)
    | (s, .fault _) => putVirt w part (a + 1) r s
    | (s, .wait) => (s, false)

/-- An address rounded up to a multiple of 128. -/
def up128 (n : Nat) : Nat := (n + 127) / 128 * 128

/-- Records written one after the other from an address, each aligned to 128. -/
def putRecords (w : Who) (part : Nat) : Nat → List (List Byte) → State → State × Bool
  | _, [], s => (s, true)
  | a, r :: rs, s =>
    match putVirt w part (BitVec.ofNat 57 (up128 a)) r s with
    | (s, true) => putRecords w part (up128 a + r.length) rs s
    | (s, false) => (s, false)

/-- A bank outside a gang that a FIFO bank of it is linked to makes the saved end a broken one (R91, R356). -/
def savedEnd (s : State) (ts : List Team) (core : Nat) (b : Bank) : Bank :=
  let p := peerOf core b.fifo
  let k := bankOf s p.1 p.2
  if b.fifo.lnk && !(k.mode == .fifo && ts.any (fun t => t.core = p.1 && t.slot = k.owner)) then
    let f := b.fifo
    { b with fifo := { f with lnk := false, brk := true, items := f.items ++ f.inItems, inItems := [],
                              cred := f.inCred.foldl (fun a b => a + b) f.cred, inCred := [], left := false } }
  else b

/-- A matrix slot stopped at a K-block boundary (R330), and a copy stopped between pieces (R355). -/
def stoppedSlot (k : Slot) : Slot := if k.st == .firing then { k with st := .suspended } else k
def stoppedCopy (c : CopyOp) : CopyOp := if c.st == .running then { c with st := .stopped } else c

/-- The banks that the teams of a gang own as FIFO banks. -/
def gangFifos (s : State) (ts : List Team) : List (Nat × Bank) :=
  ts.flatMap (fun t => ((List.range 48).filter (fun b => (bankOf s t.core b).mode == .fifo && (bankOf s t.core b).owner = t.slot)).map
    (fun b => (48 * t.core + b, savedEnd s ts t.core (bankOf s t.core b))))

/-- What is kept of a span (R358, R359). -/
def savedOf (launch span : Nat) (s : State) : Saved :=
  let ts := s.teams.filter (fun t => t.launch = launch && t.span = span)
  let own := fun (c t : Nat) => ts.any (fun x => x.core = c && x.slot = t)
  let inExt := fun (width unit : Nat) (n : Nat) =>
    ts.any (fun t => t.core = n / width && t.exts.any (fun e => e.base ≤ unit * (n % width) && unit * (n % width) < e.base + e.size))
  ⟨launch, span, (allGroups s).filter (fun g => g.launch = launch && g.idx.span = span), ts,
   s.smem.filter (fun e => inExt 0x180000 1 e.1), s.tags.filter (fun e => inExt 0x60000 4 e.1), gangFifos s ts,
   (s.copyOps.filter (fun c => own c.core c.slot)).map stoppedCopy, (s.slots.filter (fun k => own k.core k.team)).map stoppedSlot,
   s.evq.filter (fun e => own e.core e.slot)⟩

/-- The records of a saved span: of each team its groups' records, then its own (R359). -/
def spanRecords (s : State) (v : Saved) : List (List Byte) :=
  v.teams.flatMap (fun t => (savedGroups v t).map groupRecord ++ [teamRecord s v t])

/-- A span's groups and teams leave the device without retiring, and what is saved of it is kept (R355). -/
def leaveSpan (l : Launch) (x : Span) (v : Saved) (s : State) : State :=
  let mine := fun (g : Group) => g.launch = l.id && g.idx.span = x.num
  let s := { s with groups := s.groups.filter (fun g => !(mine g)), cur := if mine s.cur then { s.cur with placed := false } else s.cur }
  let s := v.teams.foldl (fun s t => freeTeam t.core t.slot s) s
  setSpan l.id x.num (fun y => { y with st := if y.toPark then .parked else .saved, age := 0, resv := [] }) { s with saves := s.saves ++ [v] }

/-- Spans saved, and their cores freed (R355). Each span of a launch has its own part of the save area. False where a walk
waits. -/
def saveSpans (l : Launch) : List Span → State → State × Bool
  | [], s => (s, true)
  | x :: xs, s =>
    let v := savedOf l.id x.num s
    match putRecords (coxWho l.asid l.part) l.part (l.save.toNat + x.num * 2 ^ 32) (spanRecords s v) s with
    | (s, true) => saveSpans l xs (leaveSpan l x v s)
    | (s, false) => (s, false)

/-- A stopped group whose posted writes are performed (R355). -/
def readyToSave (g : Group) : Bool := g.request == .stopped && g.posted.isEmpty

/-- The blocks of a copy that are written in part. -/
def begunBlocks (c : CopyOp) : List VAddr := ((c.early.map blockOf).eraseDups).filter (fun b => !(c.blocks.contains b))

/-- The current pieces of a team's copies are written and counted (R355). -/
def finishPieces (s : State) (t : Team) : State :=
  (copiesOf s t.core t.slot).foldl (fun s c => (begunBlocks c).foldl (fun s b =>
    match copyAt s c.core c.ident with
    | some c => movePiece c b s
    | none => s) s) s

/-- What a gang's engines have started is at an end: no `sacc` runs, and no piece of a copy is written in part. -/
def enginesStopped (s : State) (t : Team) : Bool :=
  (teamSlots s t.core t.slot).all (fun k => !(k.cmds.any MxCmd.running)) &&
    (copiesOf s t.core t.slot).all (fun c => (begunBlocks c).isEmpty)

/-- The teams of some spans of a launch. -/
def teamsOf (s : State) (launch : Nat) (xs : List Span) : List Team :=
  s.teams.filter (fun t => t.launch = launch && xs.any (fun x => x.num = t.span))

/-- Steps 1 and 2 of R355 for a gang that has stopped: what each of its groups has stored is performed at its home, and the
current pieces of its copies are written. -/
def quiesce (launch span : Nat) (xs : List Span) (s : State) : State :=
  let s := ((allGroups s).filter (inGang launch span)).foldl (fun s g => onGroup g.gid (fun s => releaseFlush (performAll s)) s) s
  (teamsOf s launch xs).foldl finishPieces s

/-- GANG_SAVE (R355): once every group of the gang has stopped, its writes are performed and what its engines have started
has come to its end. It happens later where a walk to the save area waits. -/
def execGangSave (launch span : Nat) (s : State) : Result :=
  let s := mapGroups takeRequest s
  .next (match s.launches.find? (fun l => l.id = launch) with
    | none => s
    | some l =>
      let xs := l.spans.filter (fun x => x.st == .placed && (l.cor || x.num = span))
      let gs := (allGroups s).filter (inGang launch span)
      if !gs.isEmpty && gs.all (fun g => g.request == .stopped) then
        let s := quiesce launch span xs s
        if ((allGroups s).filter (inGang launch span)).all readyToSave && (teamsOf s launch xs).all (enginesStopped s) && coxIdle s then
          match saveSpans l xs s with
          | (s1, true) => s1
          | (_, false) => s
        else s
      else s)

end Sys2Proof.Machine
end

