-- ==== Sys2Proof/Machine/Parts.lean ====
section
/-! DEFINITION. Hard partitions and the PART packets (R387, R388), rungs 1 and 3 of the recovery ladder (R391), and replay
(R393). -/
namespace Sys2Proof.Machine

/-- OP, and the partition, of a PART packet (R388). -/
def partOp (ws : List Word) : Nat := wbits (pword ws 1) 0 3
def partTarget (ws : List Word) : Nat := wbits (pword ws 1) 4 3

/-- A PART packet of one operation taken by its thread. -/
def takePart (q op : Nat) (s : State) (act : List Word → Nat → State → State) : State :=
  takePacket q (fun ws => kindOf ws = 7 && partOp ws = op) s act

/-- The set bits of words from the i-th on, as numbers below n. -/
def bitsOf (ws : List Word) (i n : Nat) : List Nat := (List.range n).filter (fun b => (pword ws (i + b / 64)).getLsbD (b % 64))

/-- A core is busy (R388): it holds a team, or a reservation covers it. -/
def coreBusy (s : State) (core : Nat) : Bool :=
  s.teams.any (fun t => t.core = core) || s.launches.any (fun l => l.spans.any (fun x => x.resv.contains core))

/-- A slice carries granules of a region (R96): slice s of the j-th die holds one if s d + j is below their number. -/
def regionOnSlice (e : BitVec 128) (slice : Nat) : Bool :=
  let dies := regionDies e
  let n := (regionEnd e - regionBase e) / regionGran e
  regionValid e && (List.range dies.length).any (fun j => dies.getD j 0 = slice / 64 && slice % 64 * dies.length + j < n)

/-- A slice is busy (R388): a region of another partition lies on its channel, it holds a dirty line, or its directory
records a copy. -/
def sliceBusy (s : State) (part slice : Nat) : Bool :=
  s.regions.any (fun e => regionPart e != part && regionOnSlice e slice) ||
  s.l2.any (fun e => e.line / 2 ^ 24 = slice && e.dirty != 0) ||
  s.copies.any (fun c => c.line / 2 ^ 24 = slice && c.kind != .unrecorded)

/-- A copy engine is busy (R388): it holds a copy that has not completed. -/
def engineIsBusy (s : State) (e : Nat) : Bool := s.copyOps.any (fun c => c.engine == some e)

/-- Resources are idle (R388). -/
def allIdle (s : State) (part : Nat) (cores slices engines queues : List Nat) : Bool :=
  !(cores.any (coreBusy s)) && !(slices.any (sliceBusy s part)) && !(engines.any (engineIsBusy s)) &&
  !(queues.any (fun q => (queueAt s q).en))

/-- Resources given to a partition (R387). -/
def giveTo (part : Nat) (cores slices engines queues : List Nat) (s : State) : State :=
  let give := fun (t : List (Nat × Nat)) (xs : List Nat) => xs.foldl (fun t x => tset 0 t x part) t
  queues.foldl (fun s q => setQueue q (fun k => { k with part := part }) s)
    { s with coreOwner := give s.coreOwner cores, sliceOwner := give s.sliceOwner slices, engineOwner := give s.engineOwner engines }

/-- A PART packet whose resources are not free (R371, R388): it completes with 0x08, and its thread blocks (R372). -/
def refusePart (q seq : Nat) (s : State) : State := setQueue q (fun k => { k with refused := true }) (finishPkt q seq 8 s)

/-- PART_DEFINE (R388). -/
def execPartDefine (q : Nat) (s : State) : Result :=
  .next (takePart q 0 s fun ws seq s =>
    let p := partTarget ws
    let cores := bitsOf ws 8 384
    let engines := bitsOf ws 14 32
    let queues := (List.range 32).filter (fun b => (pword ws 14).getLsbD (32 + b))
    let slices := bitsOf ws 16 256
    if allIdle s p cores slices engines queues then
      finishPkt q seq 1 (setPart p (fun x => { x with
        elBase := (pword ws 2).toNat, rpBase := (pword ws 3).toNat, recBase := (pword ws 4).toNat, recSize := (pword ws 5).toNat })
        (giveTo p cores slices engines queues s))
    else refusePart q seq s)

/-- PART_SET (R388). -/
def execPartSet (q : Nat) (s : State) : Result :=
  .next (takePart q 1 s fun ws seq s =>
    let v := pword ws 3
    let p := partTarget ws
    let on := wbits v 14 1 = 1
    let s := setPart p (fun x => { x with
      grace := (pword ws 2).toNat, agemax := wbits v 0 8, uexp := wbits v 8 5, record := wbits v 13 1 = 1,
      replay := on, replayPos := if on && !x.replay then 0 else x.replayPos,
      replayMsg := if on && !x.replay then 0 else x.replayMsg, replayInt := if on && !x.replay then 0 else x.replayInt,
      watchdog := (pword ws 4).toNat }) s
    finishPkt q seq 1 (raiseTurn p (partOf s p).heldInts.length s))

/-- A packet that resets queues: its own status comes first where its own queue is among them. -/
def finishAround (own : Bool) (q seq : Nat) (op : State → State) (s : State) : State :=
  if own then op (finishPkt q seq 1 s) else finishPkt q seq 1 (op s)

/-- Every context of a partition ends with 0x85 (R391). -/
def endAll (part : Nat) : List Nat → State → State
  | [], s => s
  | a :: r, s => endAll part r (endContext 0x85 0 0 (BitVec.ofNat 16 a) (BitVec.ofNat 3 part) s)

/-- The cores that a partition owns. -/
def coresOf (s : State) (part : Nat) : List Nat := (List.range 384).filter (coreIn s part)

/-- A line lies on a slice of a partition. -/
def onSlices (s : State) (part line : Nat) : Bool := tget 0 s.sliceOwner (line / 2 ^ 24) = part

/-- The lines of a partition's slices leave the L2, written back (R391), after every copy of them has been recalled. -/
def dropLines (part : Nat) (s : State) : State :=
  let s := recallAll (s.copies.filter (fun c => onSlices s part c.line)) s
  (s.l2.filter (fun e => onSlices s part e.line)).foldl (fun s e => leaveL2 e s) s

/-- Rung 3 (R391): contexts end, queues are reset, banks return to cache mode, lines leave the L2, the grace time is that
of R354. Memory is kept. -/
def resetPart (part : Nat) (s : State) : State :=
  let s := endAll part (contextsOf s part) s
  let s := ((List.range 32).filter (fun q => (queueAt s q).part = part)).foldl (fun s q => resetQueueRung q s) s
  let s := (coresOf s part).foldl (fun s c => (List.range 48).foldl (fun s b => switchBank c b .cache 0 s) s) s
  logRung part 0 3 (setPart part (fun x => { x with grace := 100000 }) (dropLines part s))

/-- PART_RESET (R391). -/
def execPartReset (q : Nat) (s : State) : Result :=
  .next (takePart q 2 s fun ws seq s =>
    finishAround ((queueAt s q).part = partTarget ws) q seq (resetPart (partTarget ws)) s)

/-- What a partition owns. -/
def ownedBy (t : List (Nat × Nat)) (part n : Nat) : List Nat := (List.range n).filter (fun i => tget 0 t i = part)

/-- PART_DISSOLVE (R388): the resources of an idle partition return to partition 0. -/
def execPartDissolve (q : Nat) (s : State) : Result :=
  .next (takePart q 3 s fun ws seq s =>
    let p := partTarget ws
    let cores := coresOf s p
    let slices := ownedBy s.sliceOwner p 256
    let engines := ownedBy s.engineOwner p 32
    let queues := (List.range 32).filter (fun k => (queueAt s k).part = p)
    if p = 0 || allIdle s 0 cores slices engines queues then finishPkt q seq 1 (giveTo 0 cores slices engines queues s)
    else refusePart q seq s)

/-- Rung 1 for a placed gang (R391): its groups are asked to stop and it is held out after the save. -/
def parkGang (launch span : Nat) (s : State) : State :=
  match s.launches.find? (fun l => l.id = launch) with
  | none => s
  | some l =>
    if l.save = 0 then s
    else
      let f := fun (x : Span) => if x.st == .placed && (l.cor || x.num = span) then { x with toPark := true } else x
      requestGang launch span (setLaunch launch (fun l => { l with spans := l.spans.map f }) s)

/-- The placed gangs of a queue. -/
def placedSpans (s : State) (q : Nat) : List (Nat × Nat) :=
  (s.launches.filter (fun l => l.queue = q)).flatMap (fun l => (l.spans.filter (fun x => x.st == .placed)).map (fun x => (l.id, x.num)))

/-- The queue that a PART packet names in word 2 (R388). -/
def partQueue (ws : List Word) : Nat := wbits (pword ws 2) 0 5

/-- PART_PARK (R388): rung 1 for every placed gang of a queue. -/
def execPartPark (q : Nat) (s : State) : Result :=
  .next (takePart q 4 s fun ws seq s =>
    let k := partQueue ws
    let s := (placedSpans s k).foldl (fun s x => parkGang x.1 x.2 s) s
    finishPkt q seq 1 (logRung (queueAt s k).part k 1 s))

/-- A parked span becomes a candidate again; one that was to be parked no longer is. -/
def resumeSpan (x : Span) : Span := { x with st := if x.st == .parked then .saved else x.st, toPark := false }

/-- PART_RESUME (R388). -/
def execPartResume (q : Nat) (s : State) : Result :=
  .next (takePart q 5 s fun ws seq s =>
    let k := partQueue ws
    finishPkt q seq 1 { s with launches := s.launches.map (fun l =>
      if l.queue = k then { l with spans := l.spans.map resumeSpan } else l) })

/-- PART_QRESET (R388): rung 2 for a queue. -/
def execPartQreset (q : Nat) (s : State) : Result :=
  .next (takePart q 6 s fun ws seq s =>
    let k := partQueue ws
    finishAround (k = q) q seq (fun s => logRung (queueAt s k).part k 2 (resetQueueRung k s)) s)

/-- GROUP_WATCHDOG (R391): a group has been blocked or unissued for the watchdog time of its partition. -/
def execGroupWatchdog (gid : Nat) (s : State) : Result :=
  .next (match findGroup gid s with
    | none => s
    | some g =>
      if (partOf s g.part.toNat).watchdog = 0 || !(savable s g.launch) then s
      else
        let q := ((s.launches.find? (fun l => l.id = g.launch)).map Launch.queue).getD 0
        logRung g.part.toNat q 1 (parkGang g.launch g.idx.span s))

/-- A recorded packet presented to its queue again (R393): its units follow those submitted. None while the queue is not
enabled or its ring has no room. -/
def presentPkt (q : Nat) (bs : List Byte) (s : State) : Option State :=
  let k := queueAt s q
  let n := bs.length / 64
  if k.en && k.submit + n ≤ k.cpl + 2 ^ k.size then
    let s := (List.range n).foldl (fun s i => writeRing k (unitPhys k (k.submit + i)) ((bs.drop (64 * i)).take 64) s) s
    some (setQueue q (fun k => { k with submit := k.submit + n }) s)
  else none

/-- What a record brings when it is presented (R393): a packet, once its queue can take it, or nothing: a peer message comes
from the peer, a TIMED release follows from its packet, and an interrupt from its cause, in its turn. -/
def presentRecord (kind port : Nat) (body : List Byte) (s : State) : Option State :=
  if kind = 1 && port < 32 then presentPkt port body s else some s

/-- REPLAY_PRESENT (R393): the next record of a partition's ring, while its replay control is set. -/
def execReplayPresent (part : Nat) (s : State) : Result :=
  let p := partOf s part
  let r := recordAt s p p.replayPos
  .next (if !(replaying p) || r.1 = 0 then s
    else match presentRecord r.1 r.2.1 (ringRead s p (p.replayPos + 16) r.2.2) s with
      | some s => setPart part (fun x => { x with replayPos := afterRecord x p.replayPos r.2.2 }) s
      | none => s)

end Sys2Proof.Machine
end

