-- ==== Sys2Proof/Machine/Umpire.lean ====
section
/-! DEFINITION. The umpire (R390, R401): the waiters of a partition, and their report. -/
namespace Sys2Proof.Machine

/-- Whom an entry waits for: nobody known, the entries of a team, or those of a group (R390). -/
inductive Party where
  | unknown
  | team (core slot : Nat)
  | group (gid : Nat)
  deriving DecidableEq, Repr

/-- A waiter as a report lists it (R390): its kind, its group and position, or its Cox thread, what it awaits. -/
structure Waiter where
  kind : Nat
  cox : Bool
  gid : Nat
  core : Nat
  pipe : Nat
  slot : Nat
  group : Nat
  asid : BitVec 16
  addr : Nat
  have_ : Nat
  want : Nat
  next : Party
  deriving DecidableEq, Repr

/-- A waiter at a group's position. -/
def groupWaiter (g : Group) (kind addr have_ want : Nat) (next : Party) : Waiter :=
  ⟨kind, false, g.gid, g.core, g.pipe, g.slot, g.idx.group, g.asid, addr, have_, want, next⟩

/-- The address by which a group reaches a scratchpad byte: in its own window, or in the cluster window (R58). -/
def localAddress (s : State) (g : Group) (key : Nat) : Nat :=
  if key / 0x180000 = g.core then localBase + key % 0x180000
  else
    let c := ((s.teams.find? (fun t => t.core = key / 0x180000 && t.launch = g.launch && t.span = g.idx.span && t.cluster = g.idx.cluster)).map Team.pos).getD 0
    localBase + 0x100000000 + 0x200000 * c + key % 0x180000

/-- The address of a FIFO bank (R58). -/
def bankAddress (b : Nat) : Nat := localBase + 0x200000000 + 0x8000 * b

/-- The owning team of the peer of a FIFO bank (R390). -/
def peerParty (s : State) (core b : Nat) : Party :=
  let f := (bankOf s core b).fifo
  if f.lnk then
    let p := peerOf core f
    .team p.1 (bankOf s p.1 p.2).owner
  else .unknown

/-- A wait on a FIFO bank: a pop, a push, or a push stalled for want of credits at a linked producer end. -/
def fifoWaiter (s : State) (g : Group) (push : Bool) (b need : Nat) : Waiter :=
  let f := (bankOf s g.core b).fifo
  if !push then groupWaiter g 3 (bankAddress b) f.items.length need (peerParty s g.core b)
  else if f.lnk && f.cred = 0 then groupWaiter g 4 (bankAddress b) 0 1 (peerParty s g.core b)
  else groupWaiter g 2 (bankAddress b) (fifoRoom f) need (peerParty s g.core b)

/-- The participants of a barrier at which a group waits. -/
def participants (s : State) (l : BarLevel) (g : Group) : List Group := (allGroups s).filter (sameInstance l g)

/-- A wait on a tag (R390): the first word not in the awaited state. -/
def tagWaiter (s : State) (g : Group) (want : Bool) (ws : List Nat) : Waiter :=
  let w := (ws.find? (fun w => tagOf s w != want)).getD (ws.headD 0)
  groupWaiter g 1 (localAddress s g (4 * w)) (tagOf s w).toNat want.toNat .unknown

/-- A wait on a crew queue (R401): the handle, visible items or free slots. -/
def queueWaiter (g : Group) (q : Nat) (free : Bool) (n : Nat) : Waiter :=
  groupWaiter g 7 q (if free then queueRoom (queueOf g q) else (queueOf g q).full) n .unknown

/-- A wait at a barrier (R401): participants arrived, and all; the party is one that has not arrived. -/
def barWaiter (s : State) (g : Group) (l : BarLevel) : Waiter :=
  let ps := participants s l g
  let here := ps.filter (fun h => arrivedAt h == some l)
  let next := match ps.find? (fun h => !(arrivedAt h == some l)) with
    | some h => Party.group h.gid
    | none => .unknown
  groupWaiter g 5 0 here.length ps.length next

/-- A wait at `crew.leave` (R401): sinks that have popped a token, and all. -/
def drainWaiter (g : Group) : Waiter :=
  let sinks := ((g.crew.map Crew.seats).getD []).filter isSink
  groupWaiter g 8 0 (sinks.filter Seat.fin).length sinks.length .unknown

/-- What a group's instruction stream waits for, where the report has a kind for it. -/
def streamWaiter (s : State) (g : Group) : List Waiter :=
  match g.wait with
  | some (.tag want ws) => [tagWaiter s g want ws]
  | some (.fifo push b n) => [fifoWaiter s g push b n]
  | some (.bar l) => [barWaiter s g l]
  | some (.object key ph) =>
    let o := readObj s key
    if o.ph == ph then [] else [groupWaiter g 6 (localAddress s g key) o.arr o.exp .unknown]
  | some (.queue q free n) => [queueWaiter g q free n]
  | some .drain => [drainWaiter g]
  | _ => []

/-- The input queue that holds a seat back (R301, R303): one with too few items, or a held one whose head is a token; none
where the seat passes a token on. -/
def seatInput (g : Group) (w : BitVec 128) : Option SeatIn :=
  let pops := popsOf w
  if !pops.isEmpty && pops.all (fun q => headTok (queueOf g q)) then none
  else ((queueIns w).find? (fun y => (queueOf g y.q).full < y.need)).or ((queueIns w).find? (fun y => headTok (queueOf g y.q)))

/-- The FIFO bank that holds a stream seat back: an empty one that it pops, or one without room that it pushes to. -/
def seatBank (s : State) (g : Group) (x : Seat) : Option Waiter :=
  let b := ((elemAddr x).toNat - (localBase + 0x200000000)) / 0x8000
  let f := (bankOf s g.core b).fifo
  if !(isStream x && inFifoSpace (elemAddr x)) then none
  else if isSink x then (if fifoRoom f = 0 then some (fifoWaiter s g true b 1) else none)
  else if f.items.isEmpty then some (fifoWaiter s g false b 1)
  else none

/-- What a seat waits for (R401): an input queue, a FIFO bank of its stream, or room in an output queue. -/
def seatWaiter (s : State) (g : Group) (x : Seat) : List Waiter :=
  if x.fin || seatOp x.word = 0 then []
  else match seatInput g x.word, seatBank s g x with
    | some y, _ => [queueWaiter g y.q false y.need]
    | none, some w => [w]
    | none, none =>
      match (seatOuts x.word).find? (fun o => queueRoom (queueOf g o.1) = 0) with
      | some o => [queueWaiter g o.1 true 1]
      | none => []

/-- The waiters of a group: its stream, and each waiting seat of its crew (R401). -/
def groupWaiters (s : State) (g : Group) : List Waiter :=
  (match g.crew with
    | some c => if c.stopped then [] else c.seats.flatMap (seatWaiter s g)
    | none => []) ++ streamWaiter s g

/-- The waiter of a Cox thread blocked on a WAIT (R401). -/
def coxWaiter (s : State) (q : Nat) : List Waiter :=
  let k := queueAt s q
  let at_ := fun (a h w : Nat) => [(⟨9, true, 0, 0, 0, 0, q, k.asid, a, h % 2 ^ 32, w % 2 ^ 32, .unknown⟩ : Waiter)]
  match k.waits with
  | none => []
  | some w =>
    if k.state != 2 then []
    else if w.2.2 = 0 then at_ k.base k.cpl (k.next - 1)
    else if w.2.2 = 5 then at_ (wbits w.1 0 5) (queueAt s (wbits w.1 0 5)).cpl w.2.1.toNat
    else at_ (wbits w.1 0 57) k.seen.toNat w.2.1.toNat

/-- The order of entries (R401): by core, pipe and kind. -/
def waiterKey (w : Waiter) : Nat := w.core * 128 + w.pipe * 16 + w.kind

/-- A waiter put into an ordered list, after those of equal key. -/
def insertWaiter (w : Waiter) : List Waiter → List Waiter
  | [] => [w]
  | x :: r => if waiterKey w < waiterKey x then w :: x :: r else x :: insertWaiter w r

/-- The waiters of a partition in the order of a report (R401): Cox threads come last. -/
def waitersOf (s : State) (part : Nat) : List Waiter :=
  let gs := (allGroups s).filter (fun g => g.part.toNat = part)
  (gs.flatMap (groupWaiters s)).foldl (fun xs w => insertWaiter w xs) [] ++
    ((List.range 32).filter (fun q => (queueAt s q).part = part)).flatMap (coxWaiter s)

/-- NEXT (R390, R401): the first entry of the party, 63 if unknown. -/
def nextEntry (ws : List Waiter) (w : Waiter) : Nat :=
  match w.next with
  | .unknown => 63
  | .team c t => (ws.findIdx? (fun x => !x.cox && x.core = c && x.slot = t)).getD 63
  | .group g => (ws.findIdx? (fun x => !x.cox && x.gid = g)).getD 63

/-- NEXT links followed from an entry come back to it. -/
def closes (nx : List Nat) (start : Nat) : Nat → Nat → Bool
  | 0, _ => false
  | n + 1, i =>
    let j := nx.getD i 63
    j = start || (j != 63 && closes nx start n j)

/-- An entry of a report (R390). -/
def entryBytes (waited next : Nat) (w : Waiter) : List Byte :=
  let word0 := w.kind + w.core / 96 * 2 ^ 8 + w.core % 96 / 12 * 2 ^ 10 + w.core % 12 * 2 ^ 13 + w.pipe * 2 ^ 17 + w.slot * 2 ^ 20 +
    w.group * 2 ^ 23 + w.cox.toNat * 2 ^ 28 + w.asid.toNat * 2 ^ 48
  leBytes 8 word0 ++ leBytes 8 w.addr ++ leBytes 8 (w.have_ % 2 ^ 32 + w.want % 2 ^ 32 * 2 ^ 32) ++
    leBytes 8 (waited % 2 ^ 32 + next * 2 ^ 32)

/-- What tells a waiter from another, and from itself after a change (R390): who waits for what, and the counts. -/
def digest (w : Waiter) : List Nat := [w.kind, w.gid, w.group, w.addr, w.have_, w.want]

/-- The waiters of a partition with the time since which each has not changed: now, for one that the umpire does not watch
yet. -/
def watch (s : State) (part : Nat) : List (List Nat × Nat) :=
  (waitersOf s part).map (fun w =>
    (digest w, (((partOf s part).still.find? (fun e => e.1 = digest w)).map Prod.snd).getD s.tick))

/-- The umpire of a partition has something to note (R390): what it watches is not what waits. -/
def changeDue (s : State) (part : Nat) : Bool :=
  (partOf s part).still.map Prod.fst != (waitersOf s part).map digest

/-- The umpire notes what waits. A set that it has reported may be reported again once a waiter of it has changed. -/
def noteChange (s : State) (part : Nat) : State :=
  let now := watch s part
  let same := (partOf s part).reported.all ((now.map Prod.fst).contains)
  setPart part (fun x => { x with still := now, reported := if same then x.reported else [] }) { s with tick := s.tick + 1 }

/-- The waiters of a partition that have not changed for the umpire's time: those that have waited longest, from a time on
that is free (log 6). -/
def stillWaiters (s : State) (part : Nat) : List Waiter :=
  (waitersOf s part).filter (fun w => (watch s part).any (fun e => e.1 = digest w && e.2 ≤ Config.freeNat s.free))

/-- WAITED of an entry (R390): at least the umpire's time, in units of 4,096 control cycles (log 6). -/
def waitedOf (expo n : Nat) : Nat := min (2 ^ (expo - 12) + Config.freeNat n) (2 ^ 32 - 1)

/-- A report written (R390). -/
def writeReport (part : Nat) (ws : List Waiter) (s : State) : State :=
  let s := tickClock s
  let p := partOf s part
  let es := ws.take 30
  let nx := es.map (nextEntry es)
  let cycle := (List.range es.length).any (fun i => closes nx i (es.length + 1) i)
  let head := leBytes 8 p.rpSeq ++ leBytes 8 s.clock ++
    leBytes 8 (part + cycle.toNat * 8 + p.uexp * 16 + es.length * 2 ^ 16 + (decide (30 < ws.length)).toNat * 2 ^ 24)
  let body := (List.range es.length).flatMap (fun i =>
    match es[i]? with
    | some w => entryBytes (waitedOf p.uexp (s.free + i)) (nx.getD i 63) w
    | none => [])
  let a := p.rpBase + 1024 * (p.rpSeq % 64)
  let bs := head ++ List.replicate 40 0 ++ body
  let s := putHost a (bs ++ List.replicate (1024 - bs.length) 0) { s with free := s.free + 30 }
  logEvent part 4 0 0 (BitVec.ofNat 64 a) (setPart part (fun x => { x with rpSeq := x.rpSeq + 1, reported := ws.map digest }) s)

/-- UMPIRE_REPORT (R390): some waiters of a partition have not changed for the umpire's time. A set is reported once, until it
changes. -/
def execUmpireReport (part : Nat) (s : State) : Result :=
  let ws := stillWaiters s part
  .next (if ws.all (fun w => (partOf s part).reported.contains (digest w)) then s else writeReport part ws { s with free := s.free + 1 })

end Sys2Proof.Machine
end

