-- ==== Sys2Proof/Machine/Package.lean ====
section
/-! DEFINITION. The package window as the driver writes it (R364, R406, R409, R415), the connection groups (R409 to R413),
and the device clock (R285). -/
namespace Sys2Proof.Machine

/-- A connection-table entry, and one changed. -/
def connAt (s : State) (i : Nat) : Conn := s.conns.getD i newConn
def setConn (i : Nat) (f : Conn → Conn) (s : State) : State := { s with conns := s.conns.modify i f }

/-- The word of a connection-table entry (R409): LANES is 0 when not UP. -/
def connWord (c : Conn) : Word :=
  BitVec.ofNat 64 (c.peer * 2 ^ 56 + c.pport * 2 ^ 52 + c.part * 2 ^ 45 + c.errth * 2 ^ 32 + c.errcnt * 2 ^ 24 +
    (if c.state = 2 then c.lanes else 0) * 2 ^ 20 + c.req.toNat * 8 + c.state)

/-- A bandwidth-change event of an entry (R412): its record, and the interrupt. -/
def bandwidthEvent (i : Nat) (s : State) : State :=
  let c := connAt s i
  interrupt c.part 32 (logEvent c.part 6 0 c.lanes (BitVec.ofNat 64 (i + 256 * c.peer + 65536 * litTo s c.peer)) s)

/-- The set of UP groups to a peer has changed (R413). -/
def routesChanged (peer : Nat) (s : State) : State := { s with noRoute := s.noRoute.filter (fun p => p != peer) }

/-- An entry moves to a state with some LANES (R410). The set of UP groups changes where it comes to UP or leaves it. -/
def moveConn (i st lanes : Nat) (s : State) : State :=
  let c := connAt s i
  let s := setConn i (fun c => { c with state := st, lanes := lanes }) s
  if (c.state = 2) = (st = 2) then s else routesChanged c.peer s

/-- REQ written with 1 (R410). -/
def reqUp (i : Nat) (s : State) : State :=
  let s := setConn i (fun c => { c with req := true }) s
  if (connAt s i).state != 0 then s
  else if (connAt s i).pport ≤ 11 then moveConn i 1 0 s
  else bandwidthEvent i (moveConn i 4 0 s)

/-- REQ written with 0 (R410). -/
def reqDown (i : Nat) (s : State) : State :=
  let s := setConn i (fun c => { c with req := false }) s
  let c := connAt s i
  if c.state = 1 || c.state = 4 then moveConn i 0 0 s
  else if c.state = 2 then moveConn i 3 c.lanes s
  else s

/-- CONN_REQ_UP (R410). -/
def execConnReqUp (i : Nat) (s : State) : Result := .next (reqUp i s)
/-- CONN_REQ_DOWN (R410). -/
def execConnReqDown (i : Nat) (s : State) : Result := .next (reqDown i s)

/-- CONN_FAR_ENTRY (R410): the state of the far entry arrives. -/
def execConnFarEntry (i : Nat) (far : FarState) (s : State) : Result :=
  let c := connAt s i
  .next (match far with
    | .setupMatch | .upMatch => if c.state = 1 then bandwidthEvent i (moveConn i 2 8 s) else s
    | .setupOther => if c.state = 1 then bandwidthEvent i (moveConn i 4 0 s) else s
    | .leftUp => if c.state = 2 then moveConn i 3 c.lanes s else s)

/-- CONN_FEATHER (R410, R411): ERRCNT has reached ERRTH. -/
def execConnFeather (i : Nat) (s : State) : Result :=
  let c := connAt s i
  .next (if c.state = 2 && c.errth != 0 && c.errth ≤ c.errcnt then
      (if 1 < c.lanes then bandwidthEvent i (setConn i (fun c => { c with lanes := c.lanes / 2, errcnt := 0 }) s)
       else bandwidthEvent i (moveConn i 4 0 s))
    else s)

/-- CONN_FEATHER (R411) that the far entry begins: this entry feathers at the same moment, so that both have the same LANES;
its own ERRCNT counts on. -/
def execConnFarFeather (i : Nat) (s : State) : Result :=
  let c := connAt s i
  .next (if c.state = 2 && 1 < c.lanes then bandwidthEvent i (setConn i (fun c => { c with lanes := c.lanes / 2 }) s) else s)

/-- CONN_DRAIN_COMPLETE (R410). -/
def execConnDrainComplete (i : Nat) (s : State) : Result :=
  .next (if (connAt s i).state = 3 then bandwidthEvent i (moveConn i 0 0 s) else s)

/-- CONN_ERRCNT_READ (R409): a read of an entry returns it and clears ERRCNT. -/
def execConnErrcntRead (i : Nat) (s : State) : Result :=
  .next (setConn i (fun c => { c with errcnt := 0 }) { s with hostRead := [connWord (connAt s i)] })

/-- ERRCNT_WINDOW_EXPIRY (R409): a new window of 1 ms begins. -/
def execErrcntWindowExpiry (i : Nat) (s : State) : Result := .next (setConn i (fun c => { c with errcnt := 0 }) s)

/-- REPLAYED_TRANSFER (R409, R411): the transfer is sent again, neither lost nor duplicated, and counted. -/
def execReplayedTransfer (i : Nat) (s : State) : Result :=
  .next (setConn i (fun c => { c with errcnt := if c.state = 2 || c.state = 3 then min (c.errcnt + 1) 255 else c.errcnt }) s)

/-- A write of MCCONS (R363). -/
def writeMccons (v : Word) (s : State) : State :=
  if s.mcCons ≤ v.toNat && v.toNat ≤ s.mcWptr then { s with mcCons := v.toNat } else s

/-- MCCONS_WRITE (R363). -/
def execMcconsWrite (v : Word) (s : State) : Result := .next (writeMccons v s)

/-- One 64-bit half of a 128-bit entry replaced. -/
def putHalf (e : BitVec 128) (high : Bool) (v : Word) : BitVec 128 :=
  if high then v ++ e.setWidth 64 else e.extractLsb' 64 64 ++ v

/-- The fields of a region-table entry (R95); its reserved bits read as zero (R9). -/
def regionMask : BitVec 128 := BitVec.ofNat 128 ((2 ^ 45 - 1) * 2 ^ 64 + (2 ^ 52 - 2 ^ 20))

/-- A write of a connection-table entry (R409): PEER, PPORT and PART only while DOWN; then REQ, which nothing acts on before step
5 of the boot brings the routing die up (R426). -/
def writeConn (i : Nat) (v : Word) (s : State) : State :=
  let f := fun (c : Conn) =>
    let c := { c with errth := wbits v 32 8 }
    if c.state = 0 then { c with peer := wbits v 56 8, pport := wbits v 52 4, part := wbits v 45 3 } else c
  if s.boot != .ready then setConn i f s
  else if v.getLsbD 3 then reqUp i (setConn i f s) else reqDown i (setConn i f s)

/-- A write of a queue register (R364, R366, R391). Before the boot is done the Cox is halted, and only the fields that it
need not act on take a value (R426). -/
def writeQueueReg (q off : Nat) (v : Word) (s : State) : State :=
  let ready := s.boot == .ready
  if off = 0 then
    setQueue q (fun k => if k.en then k else { k with host := v.getLsbD 63, base := wbits v 6 46 * 64 }) s
  else if off = 8 then
    let s := setQueue q (writeFields v) s
    if !ready then s
    else
      let s := writeEn q (v.getLsbD 13) s
      if v.getLsbD 12 then logRung (queueAt s q).part q 2 (resetQueueRung q s) else s
  else if off = 0x10 && ready then
    let n := wbits v 0 48
    if (queueAt s q).state = 3 then setQueue q (fun k => { k with kept := k.kept ++ [n] }) s else writeSubmit q n s
  else s

/-- An aligned 64-bit write at an offset of the package window (R406); reserved and read-only offsets ignore it, and the
table-commit register while the Cox is halted (R426). -/
def writeRegister (off : Nat) (v : Word) (s : State) : State :=
  if off % 8 != 0 then s
  else if off = 0x008 then { s with asidBase := v &&& 0x000FFFFFFFF00000 }
  else if off = 0x048 then (if v.getLsbD 0 && s.boot == .ready then goCommit s else s)
  else if off = 0x068 then writeMccons v s
  else if 0x100 ≤ off && off < 0x400 then writeConn ((off - 0x100) / 8) v s
  else if 0x800 ≤ off && off < 0x900 then
    let w := (off - 0x800) / 16
    writeWindow w (putHalf (s.windows.getD w 0) (off % 16 = 8) v) s
  else if 0x1100 ≤ off && off < 0x1200 then
    { s with shadowRegions := s.shadowRegions.modify ((off - 0x1100) / 16) (fun e => putHalf e (off % 16 = 8) v &&& regionMask) }
  else if 0x10000 ≤ off && off < 0x10800 then writeQueueReg ((off - 0x10000) / 64) (off % 64) v s
  else s

/-- REGISTER_WRITE (R406). -/
def execRegisterWrite (off : Nat) (v : Word) (s : State) : Result := .next (writeRegister off v s)

/-- One 64-bit half of a 128-bit entry of a table of the package window. -/
def halfOf (t : List (BitVec 128)) (base off : Nat) : Word :=
  let e := t.getD ((off - base) / 16) 0
  if off % 16 = 8 then e.extractLsb' 64 64 else e.setWidth 64

/-- The word that an aligned 64-bit read at an offset of the package window returns (R406); a reserved offset returns
zero. -/
def registerAt (s : State) (off : Nat) : Word :=
  if off % 8 != 0 then 0
  else if off = 0x000 then BitVec.ofNat 64 s.devno
  else if off = 0x008 then s.asidBase
  else if 0x010 ≤ off && off < 0x030 then BitVec.ofNat 64 (s.ratios.getD ((off - 0x010) / 8) 0)
  else if off = 0x040 then tableControl s
  else if off = 0x048 then (if s.commitGo = 0 then 0 else 1)
  else if off = 0x050 then BitVec.ofNat 64 s.mcBase
  else if off = 0x058 then BitVec.ofNat 64 s.mcDrops
  else if off = 0x060 then BitVec.ofNat 64 s.mcWptr
  else if off = 0x068 then BitVec.ofNat 64 s.mcCons
  else if 0x100 ≤ off && off < 0x400 then connWord (connAt s ((off - 0x100) / 8))
  else if 0x800 ≤ off && off < 0x900 then halfOf s.windows 0x800 off
  else if 0x1000 ≤ off && off < 0x1100 then halfOf s.regions 0x1000 off
  else if 0x1100 ≤ off && off < 0x1200 then halfOf s.shadowRegions 0x1100 off
  else if 0x10000 ≤ off && off < 0x10800 then (queueBlock s ((off - 0x10000) / 64)).getD (off % 64 / 8) 0
  else 0

/-- A read of the package window by the driver (R406, R418): the word, and the clearing of ERRCNT where it is a connection
entry's (R409). -/
def execWindowRead (off : Nat) (s : State) : Result :=
  let s1 := { s with hostRead := [registerAt s off] }
  .next (if off % 8 = 0 && 0x100 ≤ off && off < 0x400 then setConn ((off - 0x100) / 8) (fun c => { c with errcnt := 0 }) s1 else s1)

/-- The Cox reads the fault records of a die (R73). They are pending until then, and no longer (DESIGN CHOICE: R73 does not
say what the read does to them; log 82). -/
def execFaultBufferRead (die : Nat) (s : State) : Result :=
  .next { s with faultsRead := s.faults.filter (fun r => r.die = die), faults := s.faults.filter (fun r => !(r.die = die)) }

/-- The keys of the contexts that run on the device (R282). -/
def contextKeys (s : State) : List Nat :=
  (s.launches.filter (fun l => contextRuns s l.asid l.part)).map (fun l => l.asid.toNat + 65536 * l.part)

/-- CLOCK_STEP (R282, R285): the clock takes a value, and STEP is set for every context. -/
def execClockStep (ns : Word) (s : State) : Result :=
  .next { s with clock := ns.toNat, stepped := (contextKeys s).foldl (fun ks k => if ks.contains k then ks else k :: ks) s.stepped }

/-- GRANDMASTER_LOCK_CHANGE (R285). -/
def execGrandmasterLockChange (lock : Bool) (s : State) : Result := .next { s with clockLock := lock }

end Sys2Proof.Machine
end

