-- ==== Sys2Proof/Machine/Boot.lean ====
section
/-! DEFINITION. Power, boot, temperatures and the fatal dump (R391, R424 to R429). -/
namespace Sys2Proof.Machine

/-- The device reset (R391, R426): every register at its reset value, every partition lost. Host and peer memory, the clock,
the temperatures, the board's log and the model's own counters and schedule are not the device's to reset; device memory
stands until step 5 clears it. -/
def resetDevice (b : Boot) (s : State) : State :=
  { State.reset with
    boot := b, mem := s.mem, poison := s.poison, hostMem := s.hostMem, peerMem := s.peerMem, sched := s.sched, free := s.free,
    tick := s.tick, interrupts := s.interrupts, clock := s.clock, temps := s.temps, bmcLog := s.bmcLog, hostRead := s.hostRead,
    peerRead := s.peerRead, gids := s.gids }

/-- The record of a rung in the event log of every partition (R391, R425), once the boot has given the device its logs: of a
device that a fatal error has stopped too (log 60). -/
def logRungAll (rung : Nat) (s : State) : State :=
  if s.boot == .ready || s.boot == .dumped then (List.range 8).foldl (fun s p => logRung p 0 rung s) s else s

/-- A die that is at 110 °C when the boot begins trips at once (R425), and writes no dump (R429). -/
def bootHot (s : State) : State := if s.temps.any (fun t => 1100 ≤ t) then { s with halted := true } else s

/-- DEVICE_RESET (R391): rung 4, which needs power. -/
def execDeviceReset (s : State) : Result := .next (if s.boot == .off then s else bootHot (resetDevice .boot (logRungAll 4 s)))

/-- MODULE_POWER_CYCLE (R391): rung 5; the boot follows when power returns. -/
def execModulePowerCycle (s : State) : Result := .next (resetDevice .off (logRungAll 5 s))

/-- INPUT_VOLTAGE_FAULT (R424): power is removed and the event logged with its time. -/
def execInputVoltageFault (s : State) : Result :=
  .next (if s.boot == .off then s
    else
      let s := tickClock s
      resetDevice .off { s with bmcLog := s.bmcLog ++ [s.clock] })

/-- POWER_UP (R424, R426): boot step 1. -/
def execPowerUp (s : State) : Result := .next (if s.boot == .off then bootHot (resetDevice .boot s) else s)

/-- The dump region meets a listed page (R427). -/
def dumpOverlaps (b : Blob) : Bool :=
  b.retired.any (fun p => p * 65536 < b.dumpBase + b.dumpSize && b.dumpBase < (p + 1) * 65536)

/-- A blob that step 4 accepts (R426, R427). -/
def blobOk (b : Blob) : Bool :=
  b.signed && b.ratios.length = 4 && b.ratios.all (fun r => [4, 5, 6, 8].contains r) && !(dumpOverlaps b)

/-- The code of a fatal error's cause (R428). -/
def fatalCode : FatalCause → Nat
  | .firmware => 1 | .watchdog => 2 | .routingDie => 3 | .thermal => 4

/-- The sequence of the packet on which a thread is blocked: its WAIT, or the first that it has not taken. -/
def blockedSeq (k : Queue) : Nat := if k.waits.isSome then k.next - 1 else k.next

/-- A Cox thread in the dump (R428): program counter, 32 integer registers of 4 bytes, cause, blocked packet sequence, in this
order and each 8 bytes but the registers (DESIGN CHOICE: the rules do not place them; log 64). All but the last are
open (log 6). -/
def threadDump (s : State) (q : Nat) : List Byte :=
  layOut 256 [(0, (List.range 18).flatMap (fun i => leBytes 8 (Config.freeWord (s.free + 18 * q + i)).toNat)),
    (0x90, leBytes 8 (blockedSeq (queueAt s q)))]

/-- The Cox threads' part of the dump (R428). -/
def coxDump (s : State) : List Byte := (List.range 32).flatMap (threadDump s)

/-- The fatal dump (R428) as parts at offsets, VALID not yet set. -/
def dumpParts (c : FatalCause) (s : State) : List (Nat × List Byte) :=
  [(0, leBytes 8 0x46444D50), (8, leBytes 8 (fatalCode c)), (0x10, leBytes 8 s.clock), (0x18, leBytes 8 (s.mcSeq - 1)),
   (0x20, s.temps.flatMap (leBytes 8)), (0x100, (List.range 32).flatMap (fun q => (queueBlock s q).flatMap (fun w => leBytes 8 w.toNat))),
   (0x900, coxDump s), (0x2900, s.conns.flatMap (fun c => leBytes 8 (connWord c).toNat)),
   (0x2C00, s.windows.flatMap (fun w => leBytes 16 w.toNat)), (0x3000, peekBytes s s.mcBase 65536)]

/-- Bytes written in the dump region by the reserved boot thread (R428), which waits for nothing; what lies beyond the
region is not written (DESIGN CHOICE; log 64). -/
def putDump (off : Nat) (bs : List Byte) (s : State) : State :=
  let xs := bs.take (s.dumpSize - off)
  (List.range xs.length).foldl (fun s i => putByte peerTag (s.dumpBase + off + i) (xs.getD i 0) s) s

/-- A fatal error (R428, R429): the first stops the device, and after the boot the dump begins; a further one counts in it
while it is written. -/
def fatal (c : FatalCause) (s : State) : State :=
  match s.halted, s.boot with
  | _, .off => s
  | false, .ready =>
    let s := tickClock s
    putDump 0 (layOut 0x13000 (dumpParts c s)) { s with halted := true, fatals := 0, free := s.free + 1024 }
  | true, .ready =>
    let n := min (s.fatals + 1) 255
    putDump 9 [BitVec.ofNat 8 n] { s with fatals := n }
  | _, _ => { s with halted := true }

/-- The dump is complete (R428): VALID is written last, and the sideband status becomes DUMPED. -/
def execDumpComplete (s : State) : Result :=
  .next (if s.halted && s.boot == .ready then { putDump 4 [1] s with boot := .dumped } else s)

/-- FATAL_ERROR (R428). -/
def execFatalError (cause : FatalCause) (s : State) : Result := .next (fatal cause s)
/-- COX_WATCHDOG_EXPIRY (R428). -/
def execCoxWatchdogExpiry (s : State) : Result := .next (fatal .watchdog s)

/-- What junction temperatures that have been reached cause (R425): from 110 °C a thermal trip, from 100 °C a record of rung
0 in every partition, one for each die. -/
def thermal (reached : List Nat) (s : State) : State :=
  if reached.any (fun t => 1100 ≤ t) then fatal .thermal s
  else if s.halted then s
  else (reached.filter (fun t => 1000 ≤ t)).foldl (fun s _ => logRungAll 0 s) s

/-- JUNCTION_TEMPERATURE (R425): a die's temperature comes to a value, which matters where it has risen into a higher row of
the table. -/
def execJunctionTemperature (die tenths : Nat) (s : State) : Result :=
  let old := s.temps.getD die 0
  let s := { s with temps := s.temps.set die tenths }
  .next (if (old < 1000 && 1000 ≤ tenths) || (old < 1100 && 1100 ≤ tenths) then thermal [tenths] s else s)

/-- The host writes a word of the firmware image into Cox SRAM (R426). -/
def execFirmwareWrite (off : Nat) (v : Word) (s : State) : Result :=
  .next (if (s.boot == .boot || s.boot == .badblob) && !s.halted then { s with coxSram := tset 0 s.coxSram off v } else s)

/-- Steps 5 and 6 of the boot (R426, R427), by the firmware; the response to temperatures begins (R425). The base of the
machine-check ring is the firmware's choice (log 6). -/
def bootReady (blob : Blob) (s : State) : State :=
  let s := { s with
    boot := .ready, devno := blob.devno.toNat, ratios := blob.ratios, retired := blob.retired, dumpBase := blob.dumpBase,
    dumpSize := blob.dumpSize, mem := [], poison := [], l2 := [], latent := [], conns := List.replicate 96 newConn,
    mcBase := Config.freeNat s.free % 2 ^ 46 * 64, free := s.free + 1 }
  thermal s.temps s

/-- BLOB_GO (R426): steps 4 to 6. Without a firmware image nothing takes step 5 (DEDUCED; log 64). -/
def execBlobGo (blob : Blob) (s : State) : Result :=
  .next (if !(s.boot == .boot || s.boot == .badblob) || s.halted then s
    else if !(blobOk blob) then { s with boot := .badblob }
    else if s.coxSram.isEmpty then s
    else bootReady blob s)

end Sys2Proof.Machine
end

