-- ==== Sys2Proof/Machine/Control.lean ====
section
/-! DEFINITION. Branches, calls, jumps, reconvergence and mask operations (R226, R270 to R274), `nop` and `halt`
(R276). -/
namespace Sys2Proof.Machine

/-- The target of a relative branch (R270): A + SignExt(off18, 64) * 4. -/
def relTarget (s : State) (off : BitVec 18) : VAddr := s.cur.arch.pc + off.signExtend 57 * 4

/-- The trap of a target that is not a multiple of 4 (R22): illegal instruction, sub-cause 1. -/
def misaligned (s : State) : State :=
  raise ⟨.illegal, 1, groupMask s, Config.freeWord s.free, s.cur.arch.pc⟩ (nextFree s)

/-- A push onto the reconvergence stack (R226): a full stack traps and nothing changes. -/
def pushEntry (e : StackEntry) (s : State) (k : State → State) : State :=
  if 32 ≤ s.cur.arch.stack.length then raiseOpen .reconvergence s
  else k (updArch (fun a => { a with stack := e :: a.stack }) s)

/-- s63 := A + 4 for a call (R271). -/
def linkIf (lk : Bool) (a : VAddr) (s : State) : State := if lk then setS 63 ((a + 4).setWidth 64) s else s

/-- `bra`, `call`, `jmp` and `calli` to a target (R226, R271). T is the set of active lanes where the guard holds; it
is compared with the lanes that are active in `em`. -/
def branchTo (x : VAddr) (lk : Bool) (s : State) : State :=
  let a := s.cur.arch.pc
  let T := active s
  if T = 0 then advance 4 s
  else if T = groupMask s then goto x (linkIf lk a s)
  else pushEntry ⟨false, x, T⟩ s fun s1 =>
    advance 4 (updArch (fun r => { r with em := r.em &&& ~~~T }) (linkIf lk a s1))

/-- BRA (R271). -/
def execBra (off : BitVec 18) (s : State) : Result := .next (branchTo (relTarget s off) false s)
/-- CALL (R271). -/
def execCall (off : BitVec 18) (s : State) : Result := .next (branchTo (relTarget s off) true s)

/-- A jump to a scalar register: bits [1:0] must be zero whatever the guard (R271). -/
def jumpTo (v : Word) (lk : Bool) (s : State) : State :=
  if v &&& 3 ≠ 0 then misaligned s else branchTo (v.setWidth 57) lk s

/-- JMP (R271). -/
def execJmp (a : SReg) (s : State) : Result := .next (jumpTo (getS s a) false s)
/-- CALLI (R271). -/
def execCalli (a : SReg) (s : State) : Result := .next (jumpTo (getS s a) true s)
/-- JOIN (R271): pushes JOIN with `em`, whatever it holds. -/
def execJoin (off : BitVec 18) (s : State) : Result :=
  .next (notCrew s fun s => pushEntry ⟨true, relTarget s off, s.cur.arch.em⟩ s fun s => advance 4 s)
/-- EMRD (R273): acts whatever `em` holds. -/
def execEmrd (d : SReg) (s : State) : Result :=
  .next (notCrew s fun s => advance 4 (setS d (s.cur.arch.em.setWidth 64) s))
/-- EMWR (R273): every write to `em` is ANDed with the live lanes (R225). -/
def execEmwr (a : SReg) (s : State) : Result :=
  .next (notCrew s fun s => advance 4 (updArch (fun r => { r with em := (getS s a).setWidth 32 &&& r.live }) s))
/-- EMAND (R274). -/
def execEmand (p : PReg) (s : State) : Result :=
  .next (notCrew s fun s => advance 4 (updArch (fun r => { r with em := r.em &&& ~~~(active s &&& ~~~(getP s p)) }) s))
/-- EMANDN (R274). -/
def execEmandn (p : PReg) (s : State) : Result :=
  .next (notCrew s fun s => advance 4 (updArch (fun r => { r with em := r.em &&& ~~~(active s &&& getP s p) }) s))

/-- The first PATH from the top of a stack, and the stack below it (R226). -/
def popPath : List StackEntry → Option (StackEntry × List StackEntry)
  | [] => none
  | e :: r => if e.isJoin then popPath r else some (e, r)

/-- `halt` on a group's registers (R226): the lanes leave; the stack is popped down to a PATH, which continues; without
one every remaining lane retires, and `em` stays (R225). -/
def haltArch (leave : Mask) (a : Arch) : Arch :=
  let live := a.live &&& ~~~leave
  match popPath a.stack with
  | some (e, r) => { a with live := live, em := e.mask &&& live, pc := e.addr, stack := r }
  | none => { a with live := 0, stack := [] }

/-- HALT (R276): acts whatever Active() holds; a group without live lanes waits for its retirement (R224). -/
def execHalt (s : State) : Result := .next (notCrew s fun s => updCur (fun g => { g with arch := haltArch (active s) g.arch, came := none }) s)
/-- NOP (R276). -/
def execNop (s : State) : Result := .next (advance 4 s)

/-- Arrival at a JOIN (R226), on the registers of a group about to issue: pops while the highest JOIN's address is the
pc and the top entry is a PATH, or once where the top entry is that JOIN. The fuel is the stack. -/
def arriveJoin : List StackEntry → Arch → Arch
  | [], a => a
  | _ :: fuel, a =>
    match a.stack.find? (fun e => e.isJoin), a.stack with
    | some j, e :: r =>
      if j.addr = a.pc then
        if e.isJoin then { a with em := e.mask &&& a.live, stack := r }
        else arriveJoin fuel { a with em := e.mask &&& a.live, pc := e.addr, stack := r }
      else a
    | _, _ => a

end Sys2Proof.Machine
end

