-- ==== Sys2Proof/Machine/CrossLane.lean ====
section
/-! DEFINITION. The cross-lane instructions (R261 to R266) and `rhash` (R267). -/
namespace Sys2Proof.Machine

/-- Lanes per set (R227). -/
def setSize (s : State) : Nat := 2 ^ s.cur.arch.lpart.toNat
/-- base(l): the first lane of lane l's set (R261). -/
def setBase (s : State) (l : Nat) : Nat := l - l % setSize s
/-- The lanes of lane l's set (R19, R228). -/
def setLanes (s : State) (l : Nat) : List Nat := (List.range (setSize s)).map (fun k => setBase s l + k)
/-- The active lanes of lane l's set. -/
def setActive (s : State) (l : Nat) : List Nat := (setLanes s l).filter (fun k => (active s).getLsbD k)

/-- A lane's own value where the source lane is not active (R262, R265). -/
def fromLane (s : State) (a : VReg) (l j : Nat) : LaneWord :=
  if (active s).getLsbD j then getV s a.toNat j else getV s a.toNat l

/-- k of R262. -/
def shflIndex (m : ShflMode) (n i b : Nat) : Nat :=
  match m with
  | .idx => b % n
  | .up => (i + n - b % n) % n
  | .down => (i + b) % n
  | .xor => (i ^^^ b) % n

/-- `shfl` with the index of each lane (R262). -/
def shflOp (n : Nat) (m : ShflMode) (named : List Nat) (d a : VReg) (idx : Nat → Nat) (s : State) : State :=
  vectorOp n named [d.toNat]
    (fun _ l => fromLane s a l (setBase s l + shflIndex m (setSize s) (l % setSize s) (idx l))) (fun _ => 0) s

/-- SHFL (R262). -/
def execShfl (m : ShflMode) (d a b : VReg) (s : State) : Result :=
  .next (shflOp 8 m [d.toNat, a.toNat, b.toNat] d a (fun l => (getV s b.toNat l).toNat) s)
/-- SHFL_LIT (R262). -/
def execShflLit (m : ShflMode) (d a : VReg) (lit : BitVec 32) (s : State) : Result :=
  .next (shflOp 12 m [d.toNat, a.toNat] d a (fun _ => lit.toNat) s)

/-- Q of R263: the active lanes of the set in which the predicate holds. -/
def voters (s : State) (pa : PReg) (l : Nat) : List Nat := (setActive s l).filter (fun k => (getP s pa).getLsbD k)

/-- VOTE (R263). For `any` and `all` the destination field holds a predicate. -/
def execVote (op : VoteOp) (d : VReg) (pa : PReg) (s : State) : Result :=
  .next (match op with
    | .any => predicateOp 8 [] (d.setWidth 3) (fun l => !(voters s pa l).isEmpty) (fun _ => 0) s
    | .all => predicateOp 8 [] (d.setWidth 3) (fun l => voters s pa l == setActive s l) (fun _ => 0) s
    | .ballot => vectorOp 8 [d.toNat] [d.toNat]
        (fun _ l => (voters s pa l).foldl (fun m k => m ||| BitVec.twoPow 32 k) 0) (fun _ => 0) s)

/-- L of R264: the values of the active lanes of the set, lowest lane first. -/
def setValues (s : State) (t : Ty) (a : VReg) (l : Nat) : List Nat := (setActive s l).map (laneVal s t a)

/-- REDL (R264). -/
def execRedl (op : RedOp) (ty : Ty) (d a : VReg) (s : State) : Result :=
  .next (vectorOp 8 [d.toNat, a.toNat] [d.toNat]
    (fun _ l => BitVec.ofNat 32 (treeOf op ty (setValues s ty a l)).1)
    (fun l => (treeOf op ty (setValues s ty a l)).2) s)

/-- The value that `scan` gives lane l (R264). -/
def scanAt (excl : Bool) (op : RedOp) (t : Ty) (a : VReg) (s : State) (l : Nat) : Nat :=
  let vals := (scanList op t (setValues s t a l)).1
  let k := (setActive s l).idxOf l
  if excl then (if k = 0 then scanIdentity op t else vals.getD (k - 1) 0) else vals.getD k 0

/-- SCAN (R264). -/
def execScan (excl : Bool) (op : RedOp) (ty : Ty) (d a : VReg) (s : State) : Result :=
  .next (vectorOp 8 [d.toNat, a.toNat] [d.toNat]
    (fun _ l => BitVec.ofNat 32 (scanAt excl op ty a s l))
    (fun l => (scanList op ty (setValues s ty a l)).2) s)

/-- BCAST (R265): the index comes from the lowest active lane of the set. -/
def execBcast (d a b : VReg) (s : State) : Result :=
  .next (vectorOp 8 [d.toNat, a.toNat, b.toNat] [d.toNat]
    (fun _ l => fromLane s a l
      (setBase s l + (getV s b.toNat ((setActive s l).headD l)).toNat % setSize s)) (fun _ => 0) s)
/-- BCAST_LIT (R265). -/
def execBcastLit (d a : VReg) (lit : BitVec 32) (s : State) : Result :=
  .next (vectorOp 12 [d.toNat, a.toNat] [d.toNat]
    (fun _ l => fromLane s a l (setBase s l + lit.toNat % setSize s)) (fun _ => 0) s)

/-- LOG for a set size (R266), none where the size is not accepted. -/
def lpartLog (v : Word) : Option (BitVec 3) :=
  if v = 2 then some 1 else if v = 4 then some 2 else if v = 8 then some 3
  else if v = 16 then some 4 else if v = 32 then some 5 else none

/-- `lpart` of n bytes with a value (R266). -/
def lpartOp (n : Nat) (v : Word) (s : State) : State :=
  notCrew s fun s => onceForGroup n s fun s =>
    match lpartLog v with
    | some k => advance n (updArch (fun a => { a with lpart := k }) s)
    | none => raiseGroup .lanePartition v s
/-- LPART (R266). -/
def execLpart (a : SReg) (s : State) : Result := .next (lpartOp 8 (getS s a) s)
/-- LPART_LIT (R266). -/
def execLpartLit (lit : BitVec 32) (s : State) : Result := .next (lpartOp 12 (lit.setWidth 64) s)

/-- RHASH (R267). -/
def execRhash (d a : VReg) (sr : SReg) (lit : BitVec 32) (s : State) : Result :=
  .next (vectorOp 16 [d.toNat, a.toNat] [d.toNat] (fun _ l => rhashMix (getV s a.toNat l) lit (getS s sr)) (fun _ => 0) s)

end Sys2Proof.Machine
end

