-- ==== Sys2Proof/Machine/Special.lean ====
section
/-! DEFINITION. The special functions of R254. The unit's answer is a free value (`Config.specialFn`); it is the
result where it lies within the bound that R254 states against the exact real, and the correctly rounded value
is the result where it does not (log 20). The exact real is enclosed by integer arithmetic: `Encl` says that it
lies in [(c - w) * 2^q, (c + w) * 2^q]. -/
namespace Sys2Proof.Machine

/-- An enclosure of a real: centre c * 2^q, half width w * 2^q. -/
structure Encl where
  c : Int
  w : Nat
  q : Int
  deriving DecidableEq, Repr

/-- ln 2 in units of 2^-128, rounded down. -/
def ln2Fix : Nat := 0xb17217f7d1cf79abc9e3b39803f2f6af
/-- π/2 in units of 2^-128, rounded down. -/
def pio2Fix : Nat := 0x1921fb54442d18469898cc51701b839a2
/-- 2^128. -/
def fixOne : Nat := 2 ^ 128

/-- A real in units of 2^-128, rounded toward minus infinity. -/
def toFix (neg : Bool) (m : Nat) (e : Int) : Int :=
  let v : Int := if neg then -(m : Int) else m
  if -128 ≤ e then v * (2 ^ (e + 128).toNat : Nat) else v / ((2 ^ (-128 - e).toNat : Nat) : Int)

/-- The sum of y^k / k! from a term onward, in units of 2^-128. -/
def expSeries (y : Nat) : Nat → Nat → Nat → Nat
  | 0, _, _ => 0
  | fuel + 1, k, t => t + expSeries y fuel (k + 1) (t * y / fixOne / (k + 1))

/-- 2^x enclosed, for |x| below 2^11. -/
def enclExp2 (neg : Bool) (m : Nat) (e : Int) : Encl :=
  let F := toFix neg m e
  let n := F / (fixOne : Int)
  let f := (F % (fixOne : Int)).toNat
  ⟨expSeries (f * ln2Fix / fixOne) 36 0 fixOne, 1024, n - 128⟩

/-- The sum of z^(2k+1) / (2k+1) from a term onward, in units of 2^-128. -/
def atanhSeries (z2 : Nat) : Nat → Nat → Nat → Nat
  | 0, _, _ => 0
  | fuel + 1, k, t => t / (2 * k + 1) + atanhSeries z2 fuel (k + 1) (t * z2 / fixOne)

/-- log2 of m * 2^e enclosed, for m not zero. -/
def enclLog2 (m : Nat) (e : Int) : Encl :=
  let L := m.log2
  let z := (m - 2 ^ L) * fixOne / (m + 2 ^ L)
  let s := atanhSeries (z * z / fixOne) 44 0 z
  ⟨((L : Int) + e) * fixOne + (2 * s * fixOne / ln2Fix : Nat), 1024, -128⟩

/-- 1 / (m * 2^e) enclosed. -/
def enclRcp (m : Nat) (e : Int) : Encl := ⟨(fixOne / m : Nat), 1, -e - 128⟩

/-- The integer square root, bit by bit from bit i - 1. -/
def isqrtFrom (n : Nat) : Nat → Nat → Nat
  | 0, r => r
  | i + 1, r => isqrtFrom n i (if (r + 2 ^ i) * (r + 2 ^ i) ≤ n then r + 2 ^ i else r)

/-- 1 / sqrt (m * 2^e) enclosed. -/
def enclRsq (m : Nat) (e : Int) : Encl :=
  let m2 := if e % 2 == 0 then m else 2 * m
  let e2 := if e % 2 == 0 then e else e - 1
  ⟨(isqrtFrom (2 ^ 256 / m2) 129 0 : Nat), 2, -(e2 / 2) - 128⟩

/-- The alternating series of the sine (k odd) or cosine (k even) from a term onward, in units of 2^-128. -/
def trigSeries (r2 : Int) : Nat → Nat → Int → Int
  | 0, _, _ => 0
  | fuel + 1, k, t => t + trigSeries r2 fuel (k + 2) (-(t * r2 / fixOne / ((k + 1) * (k + 2) : Nat)))

/-- sin x (`cosine` false) or cos x enclosed, for |x| up to 2^20: the quadrant, then the series. -/
def enclTrig (cosine neg : Bool) (m : Nat) (e : Int) : Encl :=
  let X := toFix neg m e
  let k := (X + (pio2Fix / 2 : Nat)) / (pio2Fix : Int)
  let r := X - k * pio2Fix
  let r2 := r * r / fixOne
  let sn := trigSeries r2 20 1 r
  let cs := trigSeries r2 20 0 fixOne
  let quad := (k + (if cosine then 1 else 0)) % 4
  ⟨if quad == 0 then sn else if quad == 1 then cs else if quad == 2 then -sn else -cs, 2 ^ 40, -128⟩

/-- The exponent of the ulp of R254 at an enclosed positive real: the FP32 spacing, and 2^-149 below 2^-126. -/
def ulpExp (x : Encl) : Int := max ((x.c.natAbs - x.w).log2 + x.q) (-126) - 23

/-- Whether a finite FP32 pattern certainly lies within bm * 2^be of the enclosed real. -/
def within (x : Encl) (bm : Nat) (be : Int) (c : BitVec 32) : Bool :=
  match decodeFloat fmtF32 c.toNat with
  | .fin neg m e =>
    let e0 := min e (min x.q be)
    (scaled neg m e e0 - x.c * (2 ^ (x.q - e0).toNat : Nat)).natAbs + x.w * 2 ^ (x.q - e0).toNat ≤ bm * 2 ^ (be - e0).toNat
  | _ => false

/-- The flags of a result of R254 that is not exact: NX, and UF for a subnormal one. A zero raises NX too, and UF where the exact
value is tiny and not 0 (DESIGN CHOICE: R254 states the flags of nonzero results; log 20). -/
def fnFlags (x : Encl) (r : Nat) : FlagSet :=
  let mag := r % 2 ^ 31
  fNX ||| flagIf ((mag != 0 && mag < 2 ^ 23) || (mag == 0 && isTiny fmtF32 .rn false x.c.natAbs x.q)) fUF

/-- The result where R254 leaves a choice, with its flags: the unit's answer within the bound, else the correctly rounded value,
which may overflow. -/
def chooseFn (fn : Nat) (a : BitVec 32) (x : Encl) (bm : Nat) (be : Int) : Nat × FlagSet :=
  let c := Config.specialFn fn a
  let rn := roundFloat fmtF32 .rn false (x.c < 0) x.c.natAbs x.q
  if within x bm be c then (c.toNat, fnFlags x c.toNat) else (rn.1, fnFlags x rn.1 ||| (rn.2 &&& fOF))

/-- Whether a magnitude m * 2^e is a power of two. -/
def isPow2 (m : Nat) : Bool := m == 2 ^ m.log2

/-- The sign bit and infinity of FP32. -/
def f32Inf (neg : Bool) : Nat := withSign fmtF32 neg 0x7F800000

/-- `fexp2` on a finite operand (R254). -/
def exp2Fin (a : BitVec 32) (neg : Bool) (m : Nat) (e : Int) : Nat × FlagSet :=
  let big : Bool := m != 0 && 8 ≤ m.log2 + e
  let ki := roundMag .rz neg m e 0
  let v : Int := if neg then -(ki.1 : Int) else ki.1
  if !neg && (big || (m != 0 && 7 ≤ m.log2 + e)) then (f32Inf false, fOF ||| fNX)
  else if neg && (big || ltFin true m e true 150 0) then (0, fUF ||| fNX)
  else if !ki.2 && -149 ≤ v then ((roundFloat fmtF32 .rn false false 1 v).1, 0)
  else
    let x := enclExp2 neg m e
    let small : Bool := !ltFin false 1 (-1) false m e
    chooseFn 0 a x (if small then 1 else 4) (ulpExp x)

/-- `flog2` on a finite operand that is not zero (R254). -/
def log2Fin (a : BitVec 32) (neg : Bool) (m : Nat) (e : Int) : Nat × FlagSet :=
  if neg then (canonNaN fmtF32, fNV)
  else if isPow2 m then
    let L : Int := m.log2 + e
    ((roundFloat fmtF32 .rn false (L < 0) L.natAbs 0).1, 0)
  else
    let x := enclLog2 m e
    let near : Bool := !ltFin false m e false 1 (-1) && !ltFin false 1 1 false m e
    if near then chooseFn 1 a x 1 (-22) else chooseFn 1 a x 1 (ulpExp x)

/-- `frcp` on a finite operand that is not zero (R254). ±2^-128, whose reciprocal is too large, gives ±∞ with OF and NX as what is
smaller does (DESIGN CHOICE: R254 gives that row below 2^-128 only, and names it in no other; log 20). -/
def rcpFin (a : BitVec 32) (neg : Bool) (m : Nat) (e : Int) : Nat × FlagSet :=
  let L : Int := m.log2 + e
  if L < -128 then (f32Inf neg, fOF ||| fNX)
  else if isPow2 m && L ≠ -128 then ((roundFloat fmtF32 .rn false neg 1 (-L)).1, 0)
  else
    let x := enclRcp m e
    let y : Encl := ⟨if neg then -x.c else x.c, x.w, x.q⟩
    chooseFn 2 a y 1 (ulpExp x)

/-- `frsq` on a finite operand that is not zero (R254). -/
def rsqFin (a : BitVec 32) (neg : Bool) (m : Nat) (e : Int) : Nat × FlagSet :=
  let L : Int := m.log2 + e
  if neg then (canonNaN fmtF32, fNV)
  else if isPow2 m && L % 2 == 0 then ((roundFloat fmtF32 .rn false false 1 (-(L / 2))).1, 0)
  else let x := enclRsq m e; chooseFn 3 a x 1 (ulpExp x)

/-- `fsin` and `fcos` on a finite operand that is not zero (R254): beyond 2^20 any finite value in [-1, 1]. -/
def trigFin (cosine : Bool) (a : BitVec 32) (neg : Bool) (m : Nat) (e : Int) : Nat × FlagSet :=
  let fn := if cosine then 5 else 4
  if ltFin false 1 20 false m e then chooseFn fn a ⟨0, 0, 0⟩ 1 0
  else chooseFn fn a (enclTrig cosine neg m e) 1 (-21)

/-- The special functions of R254 by function number, with their special inputs. -/
def specialFunction (fn : Nat) (a : BitVec 32) : Nat × FlagSet :=
  let nan := canonNaN fmtF32
  match decodeFloat fmtF32 a.toNat with
  | .qnan => (nan, 0)
  | .inf neg =>
    match fn with
    | 0 => (if neg then 0 else f32Inf false, 0)
    | 1 => if neg then (nan, fNV) else (f32Inf false, 0)
    | 2 => (withSign fmtF32 neg 0, 0)
    | 3 => if neg then (nan, fNV) else (0, 0)
    | _ => (nan, fNV)
  | .fin neg m e =>
    if m == 0 then
      match fn with
      | 0 => (0x3F800000, 0)
      | 1 => (f32Inf true, fDZ)
      | 2 => (f32Inf neg, fDZ)
      | 3 => (f32Inf neg, fDZ)
      | 4 => (a.toNat, 0)
      | _ => (0x3F800000, 0)
    else match fn with
      | 0 => exp2Fin a neg m e
      | 1 => log2Fin a neg m e
      | 2 => rcpFin a neg m e
      | 3 => rsqFin a neg m e
      | 4 => trigFin false a neg m e
      | _ => trigFin true a neg m e
  | _ => (nan, fNV)

end Sys2Proof.Machine
end

