-- ==== Sys2Proof/Machine/VectorFp.lean ====
section
/-! DEFINITION. The vector floating-point instructions (R249 to R256). -/
namespace Sys2Proof.Machine

/-- `fabs` (R252). -/
def bitsAbs (t : Ty) (a : Nat) : Nat × FlagSet := (a % fmtSign (fmtOf t), 0)
/-- `fneg` (R252). -/
def bitsNeg (t : Ty) (a : Nat) : Nat × FlagSet := (a ^^^ fmtSign (fmtOf t), 0)
/-- `fsgn` (R252): the sign of b on a. -/
def bitsSgn (t : Ty) (a b : Nat) : Nat × FlagSet := (a % fmtSign (fmtOf t) + b / fmtSign (fmtOf t) * fmtSign (fmtOf t), 0)
/-- `xext` (R256). -/
def expExtract (a : Nat) : Nat × FlagSet := (toPattern 32 (floatXext a).1, (floatXext a).2)
/-- A special function of a lane's operand (R254). -/
def specialOf (fn a : Nat) : Nat × FlagSet := specialFunction fn (BitVec.ofNat 32 a)

/-- FADD (R250). -/
def execFadd (ty : Ty) (rnd : Rnd) (d a b : VReg) (s : State) : Result := .next (vecBin 8 ty d a b (floatAdd (fmtOf ty) rnd) s)
/-- FADD_LIT (R250). -/
def execFaddLit (ty : Ty) (rnd : Rnd) (d a : VReg) (lit : BitVec 32) (s : State) : Result := .next (vecLit ty d a lit (floatAdd (fmtOf ty) rnd) s)
/-- FSUB (R250). -/
def execFsub (ty : Ty) (rnd : Rnd) (d a b : VReg) (s : State) : Result := .next (vecBin 8 ty d a b (floatSub (fmtOf ty) rnd) s)
/-- FSUB_LIT (R250). -/
def execFsubLit (ty : Ty) (rnd : Rnd) (d a : VReg) (lit : BitVec 32) (s : State) : Result := .next (vecLit ty d a lit (floatSub (fmtOf ty) rnd) s)
/-- FMUL (R250). -/
def execFmul (ty : Ty) (rnd : Rnd) (d a b : VReg) (s : State) : Result := .next (vecBin 8 ty d a b (floatMul (fmtOf ty) rnd) s)
/-- FMUL_LIT (R250). -/
def execFmulLit (ty : Ty) (rnd : Rnd) (d a : VReg) (lit : BitVec 32) (s : State) : Result := .next (vecLit ty d a lit (floatMul (fmtOf ty) rnd) s)
/-- FFMA (R250). -/
def execFfma (ty : Ty) (rnd : Rnd) (d a b c : VReg) (s : State) : Result :=
  .next (vecTri ty d a b c (floatFma (fmtOf ty) rnd) s)
/-- FMIN (R251). -/
def execFmin (ty : Ty) (d a b : VReg) (s : State) : Result := .next (vecBin 8 ty d a b (floatMinMax (fmtOf ty) false) s)
/-- FMIN_LIT (R251). -/
def execFminLit (ty : Ty) (d a : VReg) (lit : BitVec 32) (s : State) : Result := .next (vecLit ty d a lit (floatMinMax (fmtOf ty) false) s)
/-- FMAX (R251). -/
def execFmax (ty : Ty) (d a b : VReg) (s : State) : Result := .next (vecBin 8 ty d a b (floatMinMax (fmtOf ty) true) s)
/-- FMAX_LIT (R251). -/
def execFmaxLit (ty : Ty) (d a : VReg) (lit : BitVec 32) (s : State) : Result := .next (vecLit ty d a lit (floatMinMax (fmtOf ty) true) s)
/-- FABS (R252). -/
def execFabs (ty : Ty) (d a : VReg) (s : State) : Result := .next (vecUn 8 ty ty d a (bitsAbs ty) s)
/-- FNEG (R252). -/
def execFneg (ty : Ty) (d a : VReg) (s : State) : Result := .next (vecUn 8 ty ty d a (bitsNeg ty) s)
/-- FSGN (R252). -/
def execFsgn (ty : Ty) (d a b : VReg) (s : State) : Result := .next (vecBin 8 ty d a b (bitsSgn ty) s)
/-- FCMP (R253). -/
def execFcmp (ty : Ty) (cd : Cond) (p : PReg) (a b : VReg) (s : State) : Result :=
  .next (vecCmp ty p a b (floatCmp (fmtOf ty) cd) s)
/-- FCMP_LIT (R253). -/
def execFcmpLit (ty : Ty) (cd : Cond) (p : PReg) (a : VReg) (lit : BitVec 32) (s : State) : Result :=
  .next (vecCmpLit ty p a lit (floatCmp (fmtOf ty) cd) s)
/-- FCLASS (R252). -/
def execFclass (ty : Ty) (d a : VReg) (s : State) : Result := .next (vecUn 8 ty ty d a (fun v => (floatClass (fmtOf ty) v, 0)) s)
/-- FEXP2 (R254). -/
def execFexp2 (d a : VReg) (s : State) : Result := .next (vecUn 8 .f32 .f32 d a (specialOf 0) s)
/-- FLOG2 (R254). -/
def execFlog2 (d a : VReg) (s : State) : Result := .next (vecUn 8 .f32 .f32 d a (specialOf 1) s)
/-- FRCP (R254). -/
def execFrcp (d a : VReg) (s : State) : Result := .next (vecUn 8 .f32 .f32 d a (specialOf 2) s)
/-- FRSQ (R254). -/
def execFrsq (d a : VReg) (s : State) : Result := .next (vecUn 8 .f32 .f32 d a (specialOf 3) s)
/-- FSIN (R254). -/
def execFsin (d a : VReg) (s : State) : Result := .next (vecUn 8 .f32 .f32 d a (specialOf 4) s)
/-- FCOS (R254). -/
def execFcos (d a : VReg) (s : State) : Result := .next (vecUn 8 .f32 .f32 d a (specialOf 5) s)
/-- FRND (R255). -/
def execFrnd (ty : Ty) (rnd : Rnd) (d a : VReg) (s : State) : Result := .next (vecUn 8 ty ty d a (floatRnd (fmtOf ty) rnd) s)
/-- XINS (R256). -/
def execXins (rnd : Rnd) (d a b : VReg) (s : State) : Result :=
  .next (vecBin 8 .f32 d a b (fun v n => floatXins rnd v (toSigned 32 n)) s)
/-- XINS_LIT (R256). -/
def execXinsLit (rnd : Rnd) (d a : VReg) (lit : BitVec 32) (s : State) : Result :=
  .next (vecLit .f32 d a lit (fun v n => floatXins rnd v (toSigned 32 n)) s)
/-- XEXT (R256). -/
def execXext (d a : VReg) (s : State) : Result := .next (vecUn 8 .f32 .f32 d a expExtract s)

end Sys2Proof.Machine
end

