-- ==== Sys2Proof/Machine/Fetch.lean ====
section
/-! DEFINITION. Instruction fetch (R22, R23, R25, R59, R72): the bytes at the program counter, and what they decode to. -/
namespace Sys2Proof.Machine

/-- What stands at the program counter: an instruction with its guard and its length, the trap of its fetch, or nothing yet,
since a walk or the line waits (R102, R113) or the context has ended. -/
inductive Fetched where
  | instr (g : Guard) (i : Instr) (bytes : Nat)
  | trap (t : TrapInfo)
  | wait
  deriving DecidableEq, Repr

/-- The key of an instruction word in a core's instruction cache. -/
def icacheKey (g : Group) (a : Nat) : Nat := (65536 * g.core + g.asid.toNat) * 2 ^ 57 + a

/-- A word as memory holds it: the bytes at the home, dirty words of holders included. -/
def memWord (s : State) (pa : Nat) : BitVec 32 := BitVec.ofNat 32 (leVal (peekBytes s pa 4))

/-- A word that the group's core holds in its instruction cache (R25). -/
def cachedWord (s : State) (a : Nat) : Option (BitVec 32) := (s.icache.find? (fun e => e.1 = icacheKey s.cur a)).map Prod.snd

/-- One instruction word at a virtual and a physical address (R25): the cached word or the present one, by a free choice
where they differ (log 6); the cached one while the line waits. -/
def fetchWord (busy : Bool) (a pa : Nat) (s : State) : State × BitVec 32 :=
  let key := icacheKey s.cur a
  let new := memWord s pa
  match cachedWord s a with
  | none => ({ s with icache := (key, new) :: s.icache }, new)
  | some w =>
    if w = new || busy then (s, w)
    else if Config.freeBit s.free then (nextFree s, w)
    else (nextFree { s with icache := (key, new) :: s.icache.filter (fun e => e.1 != key) }, new)

/-- Several instruction words in a row, lowest address first. -/
def fetchWords (busy : Bool) : Nat → Nat → Nat → State → State × Nat
  | 0, _, _, s => (s, 0)
  | n + 1, a, pa, s =>
    let w := fetchWord busy a pa s
    let r := fetchWords busy n (a + 4) (pa + 4) w.1
    (r.1, w.2.toNat + 2 ^ 32 * r.2)

/-- The trap of a fetch (R55, R72): `tlm` is `em`. -/
def fetchTrap (c : Cause) (sub : Nat) (addr : Word) (s : State) : Fetched :=
  .trap ⟨c, BitVec.ofNat 16 sub, groupMask s, addr, s.cur.arch.pc⟩

/-- An illegal instruction (R54, R55): no rule names a value for `taddr`, which is free (log 21). -/
def illegalFetch (sub : Nat) (s : State) : State × Fetched :=
  (nextFree s, fetchTrap .illegal sub (Config.freeWord s.free) s)

/-- The bytes from an address to the end of its 32-byte block hold n bytes (R23). -/
def inBlock (a : VAddr) (n : Nat) : Bool := a.toNat % 32 + n ≤ 32

/-- The first word is a `jmp` or `calli` whose target is no multiple of 4, the first of R54's sub-causes. -/
def jumpsAstray (w : BitVec 32) (s : State) : Bool :=
  let r := unpack32 (w.setWidth 128)
  (r.major == 0x33 || r.major == 0x34) && lenCode (w.setWidth 128) == 0 && getS s r.sa &&& 3 != 0

/-- The instruction whose first word was fetched (R23, R54). -/
def fetchRest (busy : Bool) (pa : Nat) (w : BitVec 32) (s : State) : State × Fetched :=
  let a := s.cur.arch.pc
  let n := lenBytes (lenCode (w.setWidth 128))
  if jumpsAstray w s then illegalFetch 1 s
  else if !(inBlock a n) then illegalFetch 2 s
  else if busy && (List.range (n / 4)).any (fun i => (cachedWord s (a.toNat + 4 * i)).isNone) then (s, .wait)
  else
    let r := fetchWords busy (n / 4 - 1) (a.toNat + 4) (pa + 4) s
    match decode (BitVec.ofNat 128 (w.toNat + 2 ^ 32 * r.2)) with
    | .ok g i k => (r.1, .instr g i k)
    | .bad sub => illegalFetch sub r.1

/-- The fetch at a home cell from memory: what the sector hides is dealt with first (R419). -/
def fetchRead (pa cell : Nat) (s : State) : State × Fetched :=
  let s1 := checkSectors (cell / 128) (sectorsOf (maskRange (cell % 128) 1)) s
  if !s1.cur.placed then (s1, .wait)
  else if cellPoisoned s1 cell 1 then (s1, fetchTrap .poison 1 (s1.cur.arch.pc.setWidth 64) s1)
  else
    let w := fetchWord false s1.cur.arch.pc.toNat pa s1
    fetchRest false pa w.2 w.1

/-- The fetch from the words that the core's instruction cache holds (R25). -/
def fetchCached (pa : Nat) (s : State) : State × Fetched :=
  let w := fetchWord true s.cur.arch.pc.toNat pa s
  fetchRest true pa w.2 w.1

/-- The instruction cache holds a whole instruction from an address: as many words as its first one tells. -/
def cachedWhole (s : State) (a : Nat) : Bool :=
  match cachedWord s a with
  | none => false
  | some w => (List.range (lenBytes (lenCode (w.setWidth 128)) / 4)).all (fun i => (cachedWord s (a + 4 * i)).isSome)

/-- A read of the block of an instruction would show something that the instruction cache does not: another word, or an
error. -/
def readShows (s : State) (a pa cell : Nat) : Bool :=
  (List.range 4).any (fun i => (cachedWord s (a + 4 * i)).any (fun w => w != memWord s (pa + 4 * i))) ||
    s.latent.any (errorIn (cell / 128) (sectorsOf (maskRange (cell % 128) 1)))

/-- The fetch at a home cell (R25): from memory where the core does not hold the whole instruction, and, by a free choice
(log 6), where that makes a difference; a line that cannot be read yet is waited for. -/
def fetchCell (pa cell : Nat) (s : State) : State × Fetched :=
  let a := s.cur.arch.pc.toNat
  let busy := lineBusy s (cell / 128)
  if !(cachedWhole s a) then (if busy then (s, .wait) else fetchRead pa cell s)
  else if busy || !(readShows s a pa cell) then fetchCached pa s
  else if Config.freeBit s.free then fetchCached pa (nextFree s)
  else fetchRead pa cell (nextFree s)

/-- The fetch at a device address. -/
def fetchAt (pa : Nat) (s : State) : State × Fetched :=
  match homeCell s.regions pa with
  | none =>
    if s.commitPend then (s, .wait)
    else
      let s := noRegionCheck pa s.cur.part.toNat s
      illegalFetch 3 s
  | some cell => fetchCell pa cell s

/-- The fetch at the program counter. -/
def fetch (s : State) : State × Fetched :=
  let a := s.cur.arch.pc
  match translateP (whoOf s.cur) .fetch a s with
  | (s, .fault 0) => (s, fetchTrap .poison 0 (a.setWidth 64) s)
  | (s, .fault k) =>
    let s := faultRecord (dieOf s.cur.core) s.cur.asid a k s
    (s, fetchTrap .translation k (a.setWidth 64) s)
  | (s, .wait) => (s, .wait)
  | (s, .ok (.dev pa _)) => fetchAt pa s
  | (s, .ok _) => (s, fetchTrap .translation 7 (a.setWidth 64) s)

/-- The group with the guard of its instruction latched; a crew's control stream has issued (R316). -/
def latch (g : Guard) (s : State) : State :=
  updCur (fun x => { x with guard := g, crew := x.crew.map (fun c => { c with fresh := false }) }) s

end Sys2Proof.Machine
end

