-- ==== Sys2Proof/Machine/Waits.lean ====
section
/-! DEFINITION. Waits served by the scratchpads and the FIFO banks (R85, R86, R89, R90), the arrival of items and credits,
and the end of a bank's switch (R80). -/
namespace Sys2Proof.Machine

/-- A group put into a list in the order of when the waits began. -/
def insertSince (g : Group) : List Group → List Group
  | [] => [g]
  | h :: t => if g.since ≤ h.since then g :: h :: t else h :: insertSince g t

/-- Groups in the order in which their waits began (R86). -/
def bySince : List Group → List Group
  | [] => []
  | g :: t => insertSince g (bySince t)

/-- A waiting `ldt` or `stt` tried again. -/
def retryTag (i : Instr) (s : State) : State :=
  match i with
  | .ldt _ keep d b => ldtOp 8 keep d b 0 s
  | .ldtOff _ keep d b off => ldtOp 16 keep d b off s
  | .stt _ d b => sttOp 8 d b 0 s
  | .sttOff _ d b off => sttOp 16 d b off s
  | _ => s

/-- A waiting FIFO instruction tried again. -/
def retryFifo (i : Instr) (s : State) : State :=
  match i with
  | .ld rt ty d b => loadOp 8 rt ty d b 0 s
  | .ldOff rt ty d b off => loadOp 16 rt ty d b off s
  | .st rt ty d b => storeOp 8 rt ty d b 0 s
  | .stOff rt ty d b off => storeOp 16 rt ty d b off s
  | .tset _ b => tsetOp 8 b 0 s
  | .tsetOff _ b off => tsetOp 16 b off s
  | _ => s

/-- The instruction at the issuing group's pc fetched and tried again. -/
def retryWith (f : Instr → State → State) (s : State) : State :=
  match fetch s with
  | (s1, .instr g i _) => f i (latch g s1)
  | (s1, .trap _) | (s1, .wait) => s1

/-- The first of some waiting groups whose instruction can go on, served; the state as it was where none can. -/
def serveFirst (f : Instr → State → State) : List Group → State → State
  | [], s => s
  | g :: t, s =>
    let s1 := onGroup g.gid (retryWith f) s
    if (findGroup g.gid s1).any (fun h => h.wait.isSome) then serveFirst f t s else s1

/-- The group waits on tags. -/
def waitsTag (g : Group) : Bool :=
  match g.wait with
  | some (.tag _ _) => true
  | _ => false

/-- The group waits on FIFO banks. -/
def waitsFifo (g : Group) : Bool :=
  match g.wait with
  | some (.fifo _ _ _) => true
  | _ => false

/-- TAG_WAIT_SERVED (R85, R86): of the groups that wait on tags, the one whose wait began first among those whose
condition holds performs its instruction. -/
def execTagWaitServed (s : State) : Result :=
  .next (serveFirst retryTag (bySince ((allGroups s).filter waitsTag)) s)

/-- FIFO_WAIT_SERVED (R89): a group whose banks can all serve it performs its instruction. -/
def execFifoWaitServed (s : State) : Result :=
  .next (serveFirst retryFifo (bySince ((allGroups s).filter waitsFifo)) s)

/-- BANK_SWITCH_COMPLETE (R80): the switch in progress at a bank ends, and the group that asked for it goes on past its
`bmode`. Where that group has gone, a FIFO bank's OWNER is team slot 0 (DESIGN CHOICE: no rule says whose the bank then is;
log 81). -/
def execBankSwitchComplete (core bank : Nat) (s : State) : Result :=
  .next (match (bankOf s core bank).next with
    | none => s
    | some (m, gid) =>
      let slot := ((findGroup gid s).map Group.slot).getD 0
      onGroup gid (fun s => if s.cur.wait == some (.bank bank) then advance 16 s else s) (switchBank core bank m slot s))

/-- FIFO_ITEM_ARRIVAL (R90, R91): the first item on the way to a bank arrives. -/
def execFifoItemArrival (core bank : Nat) (s : State) : Result :=
  .next (match (bankOf s core bank).fifo.inItems with
    | [] => s
    | x :: r => setFifo core bank (fun f => { f with items := f.items ++ [x], inItems := r }) s)

/-- FIFO_CREDIT_ARRIVAL (R90, R91): the first credit message on the way to a bank arrives; the bank forwards what its
credits allow, also where the other end has left (log 74). -/
def execFifoCreditArrival (core bank : Nat) (s : State) : Result :=
  .next (match (bankOf s core bank).fifo.inCred with
    | [] => s
    | n :: r => pump core bank (setFifo core bank (fun f => { f with cred := f.cred + n, inCred := r }) s))

/-- FIFO_LINK_BREAK (R91): the other end of a bank's link has left FIFO mode, and all that was on its way has arrived. -/
def execFifoLinkBreak (core bank : Nat) (s : State) : Result :=
  let f := (bankOf s core bank).fifo
  .next (if f.left && f.inItems.isEmpty && f.inCred.isEmpty then
      setFifo core bank (fun x => { x with brk := true, lnk := false, left := false }) s
    else s)

end Sys2Proof.Machine
end

