-- ==== Sys2Proof/Machine/Dispatch.lean ====
section
/-! DEFINITION. What each instruction does: one arm per constructor of `Instr`, one call of its meaning. -/
namespace Sys2Proof.Machine

/-- The meaning of an instruction. -/
def exec (i : Instr) (s : State) : Host.Outcome State Fault Refusal :=
  match i with
  | .sadd d a b => Sys2Proof.Machine.execSadd d a b s
  | .saddImm d a im => Sys2Proof.Machine.execSaddImm d a im s
  | .saddLit d a lit => Sys2Proof.Machine.execSaddLit d a lit s
  | .ssub d a b => Sys2Proof.Machine.execSsub d a b s
  | .ssubImm d a im => Sys2Proof.Machine.execSsubImm d a im s
  | .ssubLit d a lit => Sys2Proof.Machine.execSsubLit d a lit s
  | .smul d a b => Sys2Proof.Machine.execSmul d a b s
  | .smulImm d a im => Sys2Proof.Machine.execSmulImm d a im s
  | .smulLit d a lit => Sys2Proof.Machine.execSmulLit d a lit s
  | .smulhI64 d a b => Sys2Proof.Machine.execSmulhI64 d a b s
  | .smulhI64Imm d a im => Sys2Proof.Machine.execSmulhI64Imm d a im s
  | .smulhI64Lit d a lit => Sys2Proof.Machine.execSmulhI64Lit d a lit s
  | .smulhN64 d a b => Sys2Proof.Machine.execSmulhN64 d a b s
  | .smulhN64Imm d a im => Sys2Proof.Machine.execSmulhN64Imm d a im s
  | .smulhN64Lit d a lit => Sys2Proof.Machine.execSmulhN64Lit d a lit s
  | .sdivI64 d a b => Sys2Proof.Machine.execSdivI64 d a b s
  | .sdivI64Imm d a im => Sys2Proof.Machine.execSdivI64Imm d a im s
  | .sdivI64Lit d a lit => Sys2Proof.Machine.execSdivI64Lit d a lit s
  | .sdivN64 d a b => Sys2Proof.Machine.execSdivN64 d a b s
  | .sdivN64Imm d a im => Sys2Proof.Machine.execSdivN64Imm d a im s
  | .sdivN64Lit d a lit => Sys2Proof.Machine.execSdivN64Lit d a lit s
  | .sremI64 d a b => Sys2Proof.Machine.execSremI64 d a b s
  | .sremI64Imm d a im => Sys2Proof.Machine.execSremI64Imm d a im s
  | .sremI64Lit d a lit => Sys2Proof.Machine.execSremI64Lit d a lit s
  | .sremN64 d a b => Sys2Proof.Machine.execSremN64 d a b s
  | .sremN64Imm d a im => Sys2Proof.Machine.execSremN64Imm d a im s
  | .sremN64Lit d a lit => Sys2Proof.Machine.execSremN64Lit d a lit s
  | .sand d a b => Sys2Proof.Machine.execSand d a b s
  | .sandImm d a im => Sys2Proof.Machine.execSandImm d a im s
  | .sandLit d a lit => Sys2Proof.Machine.execSandLit d a lit s
  | .sor d a b => Sys2Proof.Machine.execSor d a b s
  | .sorImm d a im => Sys2Proof.Machine.execSorImm d a im s
  | .sorLit d a lit => Sys2Proof.Machine.execSorLit d a lit s
  | .sxor d a b => Sys2Proof.Machine.execSxor d a b s
  | .sxorImm d a im => Sys2Proof.Machine.execSxorImm d a im s
  | .sxorLit d a lit => Sys2Proof.Machine.execSxorLit d a lit s
  | .sshl d a b => Sys2Proof.Machine.execSshl d a b s
  | .sshlImm d a im => Sys2Proof.Machine.execSshlImm d a im s
  | .sshlLit d a lit => Sys2Proof.Machine.execSshlLit d a lit s
  | .sshrN64 d a b => Sys2Proof.Machine.execSshrN64 d a b s
  | .sshrN64Imm d a im => Sys2Proof.Machine.execSshrN64Imm d a im s
  | .sshrN64Lit d a lit => Sys2Proof.Machine.execSshrN64Lit d a lit s
  | .sshrI64 d a b => Sys2Proof.Machine.execSshrI64 d a b s
  | .sshrI64Imm d a im => Sys2Proof.Machine.execSshrI64Imm d a im s
  | .sshrI64Lit d a lit => Sys2Proof.Machine.execSshrI64Lit d a lit s
  | .sminI64 d a b => Sys2Proof.Machine.execSminI64 d a b s
  | .sminI64Imm d a im => Sys2Proof.Machine.execSminI64Imm d a im s
  | .sminI64Lit d a lit => Sys2Proof.Machine.execSminI64Lit d a lit s
  | .sminN64 d a b => Sys2Proof.Machine.execSminN64 d a b s
  | .sminN64Imm d a im => Sys2Proof.Machine.execSminN64Imm d a im s
  | .sminN64Lit d a lit => Sys2Proof.Machine.execSminN64Lit d a lit s
  | .smaxI64 d a b => Sys2Proof.Machine.execSmaxI64 d a b s
  | .smaxI64Imm d a im => Sys2Proof.Machine.execSmaxI64Imm d a im s
  | .smaxI64Lit d a lit => Sys2Proof.Machine.execSmaxI64Lit d a lit s
  | .smaxN64 d a b => Sys2Proof.Machine.execSmaxN64 d a b s
  | .smaxN64Imm d a im => Sys2Proof.Machine.execSmaxN64Imm d a im s
  | .smaxN64Lit d a lit => Sys2Proof.Machine.execSmaxN64Lit d a lit s
  | .scmpI64 cd p a b => Sys2Proof.Machine.execScmpI64 cd p a b s
  | .scmpI64Imm cd p a im => Sys2Proof.Machine.execScmpI64Imm cd p a im s
  | .scmpI64Lit cd p a lit => Sys2Proof.Machine.execScmpI64Lit cd p a lit s
  | .scmpN64 cd p a b => Sys2Proof.Machine.execScmpN64 cd p a b s
  | .scmpN64Imm cd p a im => Sys2Proof.Machine.execScmpN64Imm cd p a im s
  | .scmpN64Lit cd p a lit => Sys2Proof.Machine.execScmpN64Lit cd p a lit s
  | .smov d a => Sys2Proof.Machine.execSmov d a s
  | .smovImm d im => Sys2Proof.Machine.execSmovImm d im s
  | .smovIndex d x => Sys2Proof.Machine.execSmovIndex d x s
  | .smovLit d lit => Sys2Proof.Machine.execSmovLit d lit s
  | .sclz d a => Sys2Proof.Machine.execSclz d a s
  | .sctz d a => Sys2Proof.Machine.execSctz d a s
  | .spopc d a => Sys2Proof.Machine.execSpopc d a s
  | .sbrev d a => Sys2Proof.Machine.execSbrev d a s
  | .bra off => Sys2Proof.Machine.execBra off s
  | .call off => Sys2Proof.Machine.execCall off s
  | .jmp a => Sys2Proof.Machine.execJmp a s
  | .calli a => Sys2Proof.Machine.execCalli a s
  | .join off => Sys2Proof.Machine.execJoin off s
  | .emrd d => Sys2Proof.Machine.execEmrd d s
  | .emwr a => Sys2Proof.Machine.execEmwr a s
  | .emand p => Sys2Proof.Machine.execEmand p s
  | .emandn p => Sys2Proof.Machine.execEmandn p s
  | .iadd ty sat d a b => Sys2Proof.Machine.execIadd ty sat d a b s
  | .iaddLit ty sat d a lit => Sys2Proof.Machine.execIaddLit ty sat d a lit s
  | .isub ty sat d a b => Sys2Proof.Machine.execIsub ty sat d a b s
  | .isubLit ty sat d a lit => Sys2Proof.Machine.execIsubLit ty sat d a lit s
  | .imul ty d a b => Sys2Proof.Machine.execImul ty d a b s
  | .imulLit ty d a lit => Sys2Proof.Machine.execImulLit ty d a lit s
  | .imulh ty d a b => Sys2Proof.Machine.execImulh ty d a b s
  | .imulhLit ty d a lit => Sys2Proof.Machine.execImulhLit ty d a lit s
  | .idiv ty d a b => Sys2Proof.Machine.execIdiv ty d a b s
  | .idivLit ty d a lit => Sys2Proof.Machine.execIdivLit ty d a lit s
  | .irem ty d a b => Sys2Proof.Machine.execIrem ty d a b s
  | .iremLit ty d a lit => Sys2Proof.Machine.execIremLit ty d a lit s
  | .imin ty d a b => Sys2Proof.Machine.execImin ty d a b s
  | .iminLit ty d a lit => Sys2Proof.Machine.execIminLit ty d a lit s
  | .imax ty d a b => Sys2Proof.Machine.execImax ty d a b s
  | .imaxLit ty d a lit => Sys2Proof.Machine.execImaxLit ty d a lit s
  | .iabs ty d a => Sys2Proof.Machine.execIabs ty d a s
  | .ineg ty d a => Sys2Proof.Machine.execIneg ty d a s
  | .vAnd ty d a b => Sys2Proof.Machine.execVAnd ty d a b s
  | .vAndLit ty d a lit => Sys2Proof.Machine.execVAndLit ty d a lit s
  | .vOr ty d a b => Sys2Proof.Machine.execVOr ty d a b s
  | .vOrLit ty d a lit => Sys2Proof.Machine.execVOrLit ty d a lit s
  | .vXor ty d a b => Sys2Proof.Machine.execVXor ty d a b s
  | .vXorLit ty d a lit => Sys2Proof.Machine.execVXorLit ty d a lit s
  | .vNot ty d a => Sys2Proof.Machine.execVNot ty d a s
  | .shl ty d a b => Sys2Proof.Machine.execShl ty d a b s
  | .shlLit ty d a lit => Sys2Proof.Machine.execShlLit ty d a lit s
  | .shr ty d a b => Sys2Proof.Machine.execShr ty d a b s
  | .shrLit ty d a lit => Sys2Proof.Machine.execShrLit ty d a lit s
  | .icmp ty cd p a b => Sys2Proof.Machine.execIcmp ty cd p a b s
  | .icmpLit ty cd p a lit => Sys2Proof.Machine.execIcmpLit ty cd p a lit s
  | .sel ty ps d a b => Sys2Proof.Machine.execSel ty ps d a b s
  | .mov ty d a => Sys2Proof.Machine.execMov ty d a s
  | .movLit ty d lit => Sys2Proof.Machine.execMovLit ty d lit s
  | .movLane d => Sys2Proof.Machine.execMovLane d s
  | .clz ty d a => Sys2Proof.Machine.execClz ty d a s
  | .popc ty d a => Sys2Proof.Machine.execPopc ty d a s
  | .brev ty d a => Sys2Proof.Machine.execBrev ty d a s
  | .imad ty d a b c => Sys2Proof.Machine.execImad ty d a b c s
  | .dot4 ty sat d a b c => Sys2Proof.Machine.execDot4 ty sat d a b c s
  | .fadd ty rnd d a b => Sys2Proof.Machine.execFadd ty rnd d a b s
  | .faddLit ty rnd d a lit => Sys2Proof.Machine.execFaddLit ty rnd d a lit s
  | .fsub ty rnd d a b => Sys2Proof.Machine.execFsub ty rnd d a b s
  | .fsubLit ty rnd d a lit => Sys2Proof.Machine.execFsubLit ty rnd d a lit s
  | .fmul ty rnd d a b => Sys2Proof.Machine.execFmul ty rnd d a b s
  | .fmulLit ty rnd d a lit => Sys2Proof.Machine.execFmulLit ty rnd d a lit s
  | .ffma ty rnd d a b c => Sys2Proof.Machine.execFfma ty rnd d a b c s
  | .fmin ty d a b => Sys2Proof.Machine.execFmin ty d a b s
  | .fminLit ty d a lit => Sys2Proof.Machine.execFminLit ty d a lit s
  | .fmax ty d a b => Sys2Proof.Machine.execFmax ty d a b s
  | .fmaxLit ty d a lit => Sys2Proof.Machine.execFmaxLit ty d a lit s
  | .fabs ty d a => Sys2Proof.Machine.execFabs ty d a s
  | .fneg ty d a => Sys2Proof.Machine.execFneg ty d a s
  | .fsgn ty d a b => Sys2Proof.Machine.execFsgn ty d a b s
  | .fcmp ty cd p a b => Sys2Proof.Machine.execFcmp ty cd p a b s
  | .fcmpLit ty cd p a lit => Sys2Proof.Machine.execFcmpLit ty cd p a lit s
  | .fclass ty d a => Sys2Proof.Machine.execFclass ty d a s
  | .fexp2 d a => Sys2Proof.Machine.execFexp2 d a s
  | .flog2 d a => Sys2Proof.Machine.execFlog2 d a s
  | .frcp d a => Sys2Proof.Machine.execFrcp d a s
  | .frsq d a => Sys2Proof.Machine.execFrsq d a s
  | .fsin d a => Sys2Proof.Machine.execFsin d a s
  | .fcos d a => Sys2Proof.Machine.execFcos d a s
  | .frnd ty rnd d a => Sys2Proof.Machine.execFrnd ty rnd d a s
  | .xins rnd d a b => Sys2Proof.Machine.execXins rnd d a b s
  | .xinsLit rnd d a lit => Sys2Proof.Machine.execXinsLit rnd d a lit s
  | .xext d a => Sys2Proof.Machine.execXext d a s
  | .tadd ty d a b => Sys2Proof.Machine.execTadd ty d a b s
  | .taddLit ty d a lit => Sys2Proof.Machine.execTaddLit ty d a lit s
  | .tmul ty d a b => Sys2Proof.Machine.execTmul ty d a b s
  | .tmulLit ty d a lit => Sys2Proof.Machine.execTmulLit ty d a lit s
  | .tmin ty d a b => Sys2Proof.Machine.execTmin ty d a b s
  | .tminLit ty d a lit => Sys2Proof.Machine.execTminLit ty d a lit s
  | .tmax ty d a b => Sys2Proof.Machine.execTmax ty d a b s
  | .tmaxLit ty d a lit => Sys2Proof.Machine.execTmaxLit ty d a lit s
  | .tfma ty d a b c => Sys2Proof.Machine.execTfma ty d a b c s
  | .tcmp ty cd p a b => Sys2Proof.Machine.execTcmp ty cd p a b s
  | .tcmpLit ty cd p a lit => Sys2Proof.Machine.execTcmpLit ty cd p a lit s
  | .cvt rnd sat td ts d a => Sys2Proof.Machine.execCvt rnd sat td ts d a s
  | .cvtsr sat td ts d a b => Sys2Proof.Machine.execCvtsr sat td ts d a b s
  | .pk2 rnd sat td ts d a => Sys2Proof.Machine.execPk2 rnd sat td ts d a s
  | .pk4 rnd sat td ts d a => Sys2Proof.Machine.execPk4 rnd sat td ts d a s
  | .pk8 rnd sat td ts d a => Sys2Proof.Machine.execPk8 rnd sat td ts d a s
  | .upk2 rnd sat td ts d a => Sys2Proof.Machine.execUpk2 rnd sat td ts d a s
  | .upk4 rnd sat td ts d a => Sys2Proof.Machine.execUpk4 rnd sat td ts d a s
  | .upk8 rnd sat td ts d a => Sys2Proof.Machine.execUpk8 rnd sat td ts d a s
  | .shfl m d a b => Sys2Proof.Machine.execShfl m d a b s
  | .shflLit m d a lit => Sys2Proof.Machine.execShflLit m d a lit s
  | .vote op d pa => Sys2Proof.Machine.execVote op d pa s
  | .redl op ty d a => Sys2Proof.Machine.execRedl op ty d a s
  | .scan excl op ty d a => Sys2Proof.Machine.execScan excl op ty d a s
  | .bcast d a b => Sys2Proof.Machine.execBcast d a b s
  | .bcastLit d a lit => Sys2Proof.Machine.execBcastLit d a lit s
  | .lpart a => Sys2Proof.Machine.execLpart a s
  | .lpartLit lit => Sys2Proof.Machine.execLpartLit lit s
  | .rhash d a sr lit => Sys2Proof.Machine.execRhash d a sr lit s
  | .ld rt ty d base => Sys2Proof.Machine.execLd rt ty d base s
  | .ldOff rt ty d base off => Sys2Proof.Machine.execLdOff rt ty d base off s
  | .st rt ty d base => Sys2Proof.Machine.execSt rt ty d base s
  | .stOff rt ty d base off => Sys2Proof.Machine.execStOff rt ty d base off s
  | .ldt rt keep d base => Sys2Proof.Machine.execLdt rt keep d base s
  | .ldtOff rt keep d base off => Sys2Proof.Machine.execLdtOff rt keep d base off s
  | .stt rt d base => Sys2Proof.Machine.execStt rt d base s
  | .sttOff rt d base off => Sys2Proof.Machine.execSttOff rt d base off s
  | .tset rt base => Sys2Proof.Machine.execTset rt base s
  | .tsetOff rt base off => Sys2Proof.Machine.execTsetOff rt base off s
  | .tclr rt base => Sys2Proof.Machine.execTclr rt base s
  | .tclrOff rt base off => Sys2Proof.Machine.execTclrOff rt base off s
  | .ttest rt p base => Sys2Proof.Machine.execTtest rt p base s
  | .ttestOff rt p base off => Sys2Proof.Machine.execTtestOff rt p base off s
  | .pf rt base => Sys2Proof.Machine.execPf rt base s
  | .pfOff rt base off => Sys2Proof.Machine.execPfOff rt base off s
  | .cwb base => Sys2Proof.Machine.execCwb base s
  | .cwbOff base off => Sys2Proof.Machine.execCwbOff base off s
  | .cinv base => Sys2Proof.Machine.execCinv base s
  | .cinvOff base off => Sys2Proof.Machine.execCinvOff base off s
  | .cflush base => Sys2Proof.Machine.execCflush base s
  | .cflushOff base off => Sys2Proof.Machine.execCflushOff base off s
  | .bmode bank mode => Sys2Proof.Machine.execBmode bank mode s
  | .salloc d a => Sys2Proof.Machine.execSalloc d a s
  | .sfree a => Sys2Proof.Machine.execSfree a s
  | .aadd sc ty d base off c => Sys2Proof.Machine.execAadd sc ty d base off c s
  | .amin sc ty d base off c => Sys2Proof.Machine.execAmin sc ty d base off c s
  | .amax sc ty d base off c => Sys2Proof.Machine.execAmax sc ty d base off c s
  | .aand sc ty d base off c => Sys2Proof.Machine.execAand sc ty d base off c s
  | .aor sc ty d base off c => Sys2Proof.Machine.execAor sc ty d base off c s
  | .axor sc ty d base off c => Sys2Proof.Machine.execAxor sc ty d base off c s
  | .axchg sc ty d base off c => Sys2Proof.Machine.execAxchg sc ty d base off c s
  | .acas sc ty d base off c e => Sys2Proof.Machine.execAcas sc ty d base off c e s
  | .ainc sc ty d base off => Sys2Proof.Machine.execAinc sc ty d base off s
  | .red op sc ty base off c => Sys2Proof.Machine.execRed op sc ty base off c s
  | .bacc sc fd fs base off c sr => Sys2Proof.Machine.execBacc sc fd fs base off c sr s
  | .baccMem sc fd fs base off sr => Sys2Proof.Machine.execBaccMem sc fd fs base off sr s
  | .bld sc f d sr base off => Sys2Proof.Machine.execBld sc f d sr base off s
  | .bcvt td ts d a sr => Sys2Proof.Machine.execBcvt td ts d a sr s
  | .fence k sc => Sys2Proof.Machine.execFence k sc s
  | .bobjInit a e => Sys2Proof.Machine.execBobjInit a e s
  | .bobjExp a n => Sys2Proof.Machine.execBobjExp a n s
  | .bobjArr a n => Sys2Proof.Machine.execBobjArr a n s
  | .bobjWait a p => Sys2Proof.Machine.execBobjWait a p s
  | .mon a => Sys2Proof.Machine.execMon a s
  | .copyT ev im d o => Sys2Proof.Machine.execCopyT ev im d o s
  | .copyArm ev im d o r => Sys2Proof.Machine.execCopyArm ev im d o r s
  | .copyCancel p im => Sys2Proof.Machine.execCopyCancel p im s
  | .evpop d p => Sys2Proof.Machine.execEvpop d p s
  | .mxcfg k cfg => Sys2Proof.Machine.execMxcfg k cfg s
  | .mma mx ty k m n kk o => Sys2Proof.Machine.execMma mx ty k m n kk o s
  | .sacc k a b => Sys2Proof.Machine.execSacc k a b s
  | .mxflg d k => Sys2Proof.Machine.execMxflg d k s
  | .mxspill k a => Sys2Proof.Machine.execMxspill k a s
  | .crewEnter a n => Sys2Proof.Machine.execCrewEnter a n s
  | .seatLd n a => Sys2Proof.Machine.execSeatLd n a s
  | .qdef q b dep => Sys2Proof.Machine.execQdef q b dep s
  | .qadvH q n => Sys2Proof.Machine.execQadvH q n s
  | .qadvT q n => Sys2Proof.Machine.execQadvT q n s
  | .qwait free q n => Sys2Proof.Machine.execQwait free q n s
  | .enq p b => Sys2Proof.Machine.execEnq p b s
  | .trap n => Sys2Proof.Machine.execTrap n s
  | .bkpt n => Sys2Proof.Machine.execBkpt n s
  | .srRd d n => Sys2Proof.Machine.execSrRd d n s
  | .srWr n a => Sys2Proof.Machine.execSrWr n a s
  | .genBump a => Sys2Proof.Machine.execGenBump a s
  | .ptpRd d => Sys2Proof.Machine.execPtpRd d s
  | .nop => Sys2Proof.Machine.execNop s
  | .barTeam => Sys2Proof.Machine.execBarTeam s
  | .barCluster => Sys2Proof.Machine.execBarCluster s
  | .barSpan => Sys2Proof.Machine.execBarSpan s
  | .barGrid => Sys2Proof.Machine.execBarGrid s
  | .mwait => Sys2Proof.Machine.execMwait s
  | .mxarm0 => Sys2Proof.Machine.execMxarm0 s
  | .mxarm1 => Sys2Proof.Machine.execMxarm1 s
  | .mxarm2 => Sys2Proof.Machine.execMxarm2 s
  | .mxarm3 => Sys2Proof.Machine.execMxarm3 s
  | .mxdisarm0 => Sys2Proof.Machine.execMxdisarm0 s
  | .mxdisarm1 => Sys2Proof.Machine.execMxdisarm1 s
  | .mxdisarm2 => Sys2Proof.Machine.execMxdisarm2 s
  | .mxdisarm3 => Sys2Proof.Machine.execMxdisarm3 s
  | .crewLeave => Sys2Proof.Machine.execCrewLeave s
  | .role0 => Sys2Proof.Machine.execRole0 s
  | .role1 => Sys2Proof.Machine.execRole1 s
  | .role2 => Sys2Proof.Machine.execRole2 s
  | .role3 => Sys2Proof.Machine.execRole3 s
  | .yield => Sys2Proof.Machine.execYield s
  | .tret => Sys2Proof.Machine.execTret s
  | .halt => Sys2Proof.Machine.execHalt s
  | .fenceTable => Sys2Proof.Machine.execFenceTable s
  | .tagWaitServed => Sys2Proof.Machine.execTagWaitServed s
  | .fifoWaitServed => Sys2Proof.Machine.execFifoWaitServed s
  | .bankSwitchComplete core bank => Sys2Proof.Machine.execBankSwitchComplete core bank s
  | .repechagePass gid => Sys2Proof.Machine.execRepechagePass gid s
  | .baccAtHome gid => Sys2Proof.Machine.execBaccAtHome gid s
  | .fenceComplete gid => Sys2Proof.Machine.execFenceComplete gid s
  | .l1Invalidation client line => Sys2Proof.Machine.execL1Invalidation client line s
  | .barrierComplete gid => Sys2Proof.Machine.execBarrierComplete gid s
  | .mwaitTimeout gid => Sys2Proof.Machine.execMwaitTimeout gid s
  | .mwaitSpuriousWake gid => Sys2Proof.Machine.execMwaitSpuriousWake gid s
  | .enginePieceComplete core ident => Sys2Proof.Machine.execEnginePieceComplete core ident s
  | .enginePieceWord core ident => Sys2Proof.Machine.execEnginePieceWord core ident s
  | .firingWord core k => Sys2Proof.Machine.execFiringWord core k s
  | .saccWord core k => Sys2Proof.Machine.execSaccWord core k s
  | .copyComplete core ident => Sys2Proof.Machine.execCopyComplete core ident s
  | .copyFault core ident => Sys2Proof.Machine.execCopyFault core ident s
  | .faultBufferRead die => Sys2Proof.Machine.execFaultBufferRead die s
  | .arraySelect core => Sys2Proof.Machine.execArraySelect core s
  | .firingResultsWritten core k => Sys2Proof.Machine.execFiringResultsWritten core k s
  | .consumedEvent core base => Sys2Proof.Machine.execConsumedEvent core base s
  | .saccStart core k => Sys2Proof.Machine.execSaccStart core k s
  | .saccComplete core k => Sys2Proof.Machine.execSaccComplete core k s
  | .crewDrained gid => Sys2Proof.Machine.execCrewDrained gid s
  | .crewStroke gid => Sys2Proof.Machine.execCrewStroke gid s
  | .enqueueBufferWrite die => Sys2Proof.Machine.execEnqueueBufferWrite die s
  | .yieldTimeout gid => Sys2Proof.Machine.execYieldTimeout gid s
  | .clockStatusRead d => Sys2Proof.Machine.execClockStatusRead d s
  | .fifoConfigWrite bank a => Sys2Proof.Machine.execFifoConfigWrite bank a s
  | .creditReturnWrite a => Sys2Proof.Machine.execCreditReturnWrite a s
  | .genBumpComplete gid => Sys2Proof.Machine.execGenBumpComplete gid s
  | .coxGenBump asid => Sys2Proof.Machine.execCoxGenBump asid s
  | .coxGenBumpComplete asid => Sys2Proof.Machine.execCoxGenBumpComplete asid s
  | .issueSelect gid => Sys2Proof.Machine.execIssueSelect gid s
  | .issueStarvation gid => Sys2Proof.Machine.execIssueStarvation gid s
  | .trapEntry gid => Sys2Proof.Machine.execTrapEntry gid s
  | .preemptionRequest launch span => Sys2Proof.Machine.execPreemptionRequest launch span s
  | .graceExpiry gid => Sys2Proof.Machine.execGraceExpiry gid s
  | .gangSave launch span => Sys2Proof.Machine.execGangSave launch span s
  | .groupRetire gid => Sys2Proof.Machine.execGroupRetire gid s
  | .teamRetire core slot => Sys2Proof.Machine.execTeamRetire core slot s
  | .fifoItemArrival core bank => Sys2Proof.Machine.execFifoItemArrival core bank s
  | .fifoCreditArrival core bank => Sys2Proof.Machine.execFifoCreditArrival core bank s
  | .fifoLinkBreak core bank => Sys2Proof.Machine.execFifoLinkBreak core bank s
  | .homeOwnAccess client pa r w => Sys2Proof.Machine.execHomeOwnAccess client pa r w s
  | .homeWtLoad client pa r => Sys2Proof.Machine.execHomeWtLoad client pa r s
  | .homeSiLoad client pa r => Sys2Proof.Machine.execHomeSiLoad client pa r s
  | .homeUncLoad client pa r => Sys2Proof.Machine.execHomeUncLoad client pa r s
  | .homeWrite gid => Sys2Proof.Machine.execHomeWrite gid s
  | .homeEviction client pa => Sys2Proof.Machine.execHomeEviction client pa s
  | .directoryEntryEviction pa => Sys2Proof.Machine.execDirectoryEntryEviction pa s
  | .untrackedAccess pa w data asid => Sys2Proof.Machine.execUntrackedAccess pa w data asid s
  | .directoryUncorrectable pa => Sys2Proof.Machine.execDirectoryUncorrectable pa s
  | .l2DataUncorrectable pa sector otu => Sys2Proof.Machine.execL2DataUncorrectable pa sector otu s
  | .softError pa sector otu => Sys2Proof.Machine.execSoftError pa sector otu s
  | .l2Correctable pa sector => Sys2Proof.Machine.execL2Correctable pa sector s
  | .noRegionAccess pa part => Sys2Proof.Machine.execNoRegionAccess pa part s
  | .hostCacheableRead pa r => Sys2Proof.Machine.execHostCacheableRead pa r s
  | .hostReadForOwnership pa r w data => Sys2Proof.Machine.execHostReadForOwnership pa r w data s
  | .hostNoncachingAccess pa wr m data => Sys2Proof.Machine.execHostNoncachingAccess pa wr m data s
  | .hostAtomic pa op ty v e => Sys2Proof.Machine.execHostAtomic pa op ty v e s
  | .peerRequest entry pa wr m data => Sys2Proof.Machine.execPeerRequest entry pa wr m data s
  | .peerAtomic entry pa op ty v e => Sys2Proof.Machine.execPeerAtomic entry pa op ty v e s
  | .peerBacc x fd fs act scale elems => Sys2Proof.Machine.execPeerBacc x fd fs act scale elems s
  | .doorbell q v => Sys2Proof.Machine.execDoorbell q v s
  | .queueEnWrite q v => Sys2Proof.Machine.execQueueEnWrite q v s
  | .queueRst q => Sys2Proof.Machine.execQueueRst q s
  | .queueSnapshotRead q => Sys2Proof.Machine.execQueueSnapshotRead q s
  | .padPkt q => Sys2Proof.Machine.execPadPkt q s
  | .launchPkt q => Sys2Proof.Machine.execLaunchPkt q s
  | .configPkt q => Sys2Proof.Machine.execConfigPkt q s
  | .bindPkt q => Sys2Proof.Machine.execBindPkt q s
  | .waitPkt q => Sys2Proof.Machine.execWaitPkt q s
  | .waitReevaluate q => Sys2Proof.Machine.execWaitReevaluate q s
  | .signalPkt q => Sys2Proof.Machine.execSignalPkt q s
  | .timedPkt q => Sys2Proof.Machine.execTimedPkt q s
  | .stakeboatRelease launch => Sys2Proof.Machine.execStakeboatRelease launch s
  | .timedStart launch => Sys2Proof.Machine.execTimedStart launch s
  | .partDefine q => Sys2Proof.Machine.execPartDefine q s
  | .partSet q => Sys2Proof.Machine.execPartSet q s
  | .partReset q => Sys2Proof.Machine.execPartReset q s
  | .partDissolve q => Sys2Proof.Machine.execPartDissolve q s
  | .partPark q => Sys2Proof.Machine.execPartPark q s
  | .partResume q => Sys2Proof.Machine.execPartResume q s
  | .partQreset q => Sys2Proof.Machine.execPartQreset q s
  | .placementRound die => Sys2Proof.Machine.execPlacementRound die s
  | .umpireReport part => Sys2Proof.Machine.execUmpireReport part s
  | .groupWatchdog gid => Sys2Proof.Machine.execGroupWatchdog gid s
  | .replayPresent part => Sys2Proof.Machine.execReplayPresent part s
  | .clockStep ns => Sys2Proof.Machine.execClockStep ns s
  | .grandmasterLockChange lock => Sys2Proof.Machine.execGrandmasterLockChange lock s
  | .tableCommitGo => Sys2Proof.Machine.execTableCommitGo s
  | .tableCommitComplete => Sys2Proof.Machine.execTableCommitComplete s
  | .mcconsWrite v => Sys2Proof.Machine.execMcconsWrite v s
  | .registerWrite off v => Sys2Proof.Machine.execRegisterWrite off v s
  | .connReqUp im => Sys2Proof.Machine.execConnReqUp im s
  | .connReqDown im => Sys2Proof.Machine.execConnReqDown im s
  | .connFarEntry im far => Sys2Proof.Machine.execConnFarEntry im far s
  | .connFeather im => Sys2Proof.Machine.execConnFeather im s
  | .connFarFeather im => Sys2Proof.Machine.execConnFarFeather im s
  | .connDrainComplete im => Sys2Proof.Machine.execConnDrainComplete im s
  | .connErrcntRead im => Sys2Proof.Machine.execConnErrcntRead im s
  | .windowRead off => Sys2Proof.Machine.execWindowRead off s
  | .errcntWindowExpiry im => Sys2Proof.Machine.execErrcntWindowExpiry im s
  | .reductionContribution x op ty v => Sys2Proof.Machine.execReductionContribution x op ty v s
  | .reductionHoldExpiry pa => Sys2Proof.Machine.execReductionHoldExpiry pa s
  | .reductionWindowWrite w v => Sys2Proof.Machine.execReductionWindowWrite w v s
  | .deviceReset => Sys2Proof.Machine.execDeviceReset s
  | .modulePowerCycle => Sys2Proof.Machine.execModulePowerCycle s
  | .inputVoltageFault => Sys2Proof.Machine.execInputVoltageFault s
  | .junctionTemperature die tenths => Sys2Proof.Machine.execJunctionTemperature die tenths s
  | .blobGo blob => Sys2Proof.Machine.execBlobGo blob s
  | .firmwareWrite off v => Sys2Proof.Machine.execFirmwareWrite off v s
  | .coxWatchdogExpiry => Sys2Proof.Machine.execCoxWatchdogExpiry s
  | .fatalError cause => Sys2Proof.Machine.execFatalError cause s
  | .dumpComplete => Sys2Proof.Machine.execDumpComplete s
  | .powerUp => Sys2Proof.Machine.execPowerUp s
  | .replayedTransfer im => Sys2Proof.Machine.execReplayedTransfer im s
  | .hostPortAcknowledgement pa => Sys2Proof.Machine.execHostPortAcknowledgement pa s

end Sys2Proof.Machine
end

