-- ==== Sys2Proof/Machine/Progress.lean ====
section
/-! DEFINITION. How the machine goes on from one step to the next (log 1): the events of the device and the outside world,
the issue of the next instruction, and what a group that does not issue waits for. -/
namespace Sys2Proof.Machine

/-- The steps of the opcode table that the device, the host or another agent makes: they are no part of a program. -/
def isEvent (i : Instr) : Bool :=
  match i with
  | .tagWaitServed | .fifoWaitServed | .bankSwitchComplete _ _ | .repechagePass _ | .baccAtHome _ | .fenceComplete _
  | .l1Invalidation _ _ | .barrierComplete _ | .mwaitTimeout _ | .mwaitSpuriousWake _ | .enginePieceComplete _ _
  | .copyComplete _ _ | .copyFault _ _ | .arraySelect _ | .firingResultsWritten _ _ | .consumedEvent _ _
  | .saccStart _ _ | .saccComplete _ _ | .crewDrained _ | .crewStroke _ | .enqueueBufferWrite _ | .yieldTimeout _
  | .genBumpComplete _ | .issueSelect _ | .issueStarvation _ | .trapEntry _ | .preemptionRequest _ _ | .graceExpiry _
  | .gangSave _ _ | .groupRetire _ | .teamRetire _ _ | .fifoItemArrival _ _ | .fifoCreditArrival _ _
  | .fifoLinkBreak _ _ | .homeOwnAccess _ _ _ _ | .homeWtLoad _ _ _ | .homeSiLoad _ _ _ | .homeUncLoad _ _ _
  | .homeWrite _ | .homeEviction _ _ | .directoryEntryEviction _ | .untrackedAccess _ _ _ _
  | .directoryUncorrectable _ | .l2DataUncorrectable _ _ _ | .noRegionAccess _ _ | .hostCacheableRead _ _
  | .hostReadForOwnership _ _ _ _ | .hostNoncachingAccess _ _ _ _ | .hostAtomic _ _ _ _ _ | .peerRequest _ _ _ _ _
  | .doorbell _ _ | .queueEnWrite _ _ | .queueRst _ | .queueSnapshotRead _ | .padPkt _ | .launchPkt _ | .configPkt _
  | .bindPkt _ | .waitPkt _ | .waitReevaluate _ | .signalPkt _ | .timedPkt _ | .stakeboatRelease _ | .timedStart _
  | .partDefine _ | .partSet _ | .partReset _ | .partDissolve _ | .partPark _ | .partResume _ | .partQreset _
  | .placementRound _ | .umpireReport _ | .groupWatchdog _ | .replayPresent _ | .clockStep _
  | .grandmasterLockChange _ | .tableCommitGo | .tableCommitComplete | .mcconsWrite _ | .registerWrite _ _
  | .connReqUp _ | .connReqDown _ | .connFarEntry _ _ | .connFeather _ | .connDrainComplete _ | .connErrcntRead _
  | .errcntWindowExpiry _ | .reductionContribution _ _ _ _ | .reductionHoldExpiry _ | .reductionWindowWrite _ _
  | .deviceReset | .modulePowerCycle | .inputVoltageFault | .junctionTemperature _ _ | .blobGo _ | .coxWatchdogExpiry
  | .fatalError _ | .powerUp | .replayedTransfer _ | .hostPortAcknowledgement _
  | .enginePieceWord _ _ | .coxGenBump _ | .coxGenBumpComplete _ | .peerAtomic _ _ _ _ _ _ | .softError _ _ _
  | .l2Correctable _ _ | .windowRead _ | .faultBufferRead _ | .connFarFeather _ | .firmwareWrite _ _ | .dumpComplete | .firingWord _ _
  | .saccWord _ _ | .peerBacc _ _ _ _ _ _ => true
  | _ => false

/-- What reaches a device in every state of its power but off: resets, power, temperatures and reads of its registers. -/
def whenPowered (i : Instr) : Bool :=
  match i with
  | .deviceReset | .modulePowerCycle | .inputVoltageFault | .junctionTemperature _ _ | .windowRead _ | .connErrcntRead _
  | .queueSnapshotRead _ => true
  | _ => false

/-- What a device that a fatal error has stopped still reacts to (R428): further errors, the end of the dump, and the host's
accesses to its memory, beside resets and power. -/
def whenDumped (i : Instr) : Bool :=
  match i with
  | .fatalError _ | .coxWatchdogExpiry | .dumpComplete | .hostCacheableRead _ _ | .hostReadForOwnership _ _ _ _
  | .hostNoncachingAccess _ _ _ _ | .hostAtomic _ _ _ _ _ | .hostPortAcknowledgement _ => true
  | _ => whenPowered i

/-- What a device in its boot reacts to (R426, R427, R429): the steps of the boot, registers, the clock and fatal errors. The
Cox, its queues and the home slices do nothing yet. -/
def whenBooting (i : Instr) : Bool :=
  match i with
  | .registerWrite _ _ | .mcconsWrite _ | .reductionWindowWrite _ _ | .firmwareWrite _ _ | .blobGo _ | .fatalError _
  | .coxWatchdogExpiry | .clockStep _ | .grandmasterLockChange _ => true
  | _ => whenPowered i

/-- What a module without power reacts to (R424). -/
def whenOff (i : Instr) : Bool :=
  match i with
  | .powerUp => true
  | _ => false

/-- The event reaches the device in its present state (R426, R428). -/
def reaches (s : State) (i : Instr) : Bool :=
  isEvent i && match s.boot, s.halted with
    | .off, _ => whenOff i
    | .dumped, _ | .ready, true => whenDumped i
    | .ready, false => true
    | _, true => whenPowered i
    | _, false => whenBooting i

/-- The next event happens, if it reaches the device. -/
def takeEvent (i : Instr) (rest : List Instr) (s : State) : Result :=
  let s := { s with sched := rest }
  if reaches s i then exec i s else .next s

/-- The issuing group is the one that its pipe lets issue now (R232). -/
def mayIssue (s : State) : Bool := s.cur.request != .pending && ready s s.cur && chosen s s.cur

/-- The group arrives at its program counter (R226), unless an instruction that has arrived there restarts. -/
def arrive (g : Group) : Group :=
  if g.came = some g.arch.pc then g
  else
    let a := arriveJoin g.arch.stack g.arch
    { g with arch := a, came := some a.pc }

/-- What happens before the instruction at the pc is fetched: the group has issued (R232, R278), and arrives at a JOIN
(R226). -/
def beforeFetch (s : State) : State := updCur arrive (issued s)

/-- The group's fetch waits: so does the group, in the wait that it is in where it is in one. -/
def fetchHeld (s : State) : State := if !s.cur.placed || s.cur.wait.isSome then s else block .posted s

/-- What stands at the pc is executed, or traps, or waits. -/
def runFetched (r : State × Fetched) : Result :=
  match r.2 with
  | .instr g i _ => exec i (latch g r.1)
  | .trap t => .next (raise t r.1)
  | .wait => .next (fetchHeld r.1)

/-- The next instruction of the issuing group. -/
def issueNext (s : State) : Result := runFetched (fetch (beforeFetch s))

/-- A waiting instruction is tried again. -/
def retry (s : State) : Result := runFetched (fetch s)

/-- A posted operation of the issuing group is performed; where none can be, what else it waits for is tried. -/
def afterDrain (s : State) (k : State → Result) : Result := if (performable s).isEmpty then k s else .next (performOne s)

/-- One posted operation of the issuing group performed, or its fence completed. -/
def drainStep (s : State) : Result := afterDrain s fun s => .next (completeFence s)

/-- What a waiting group does: its posted operations are performed, and what it waits for is tried. -/
def waitStep (w : Wait) (s : State) : Result :=
  match w with
  | .fence => drainStep s
  | .bar _ => afterDrain s fun s => .next (completeBarrier s.cur s)
  | .commit => afterDrain s fun s => .next (endCommit s)
  | .bump asid gen => afterDrain s fun s => .next (endBump asid gen s.cur.since s (advance 16))
  | .drain | .queue _ _ _ => afterDrain s fun s =>
    match stroke s with
    | t => if t.cur.wait.isSome then retry t else .next t
  | _ => afterDrain s retry

/-- The group of the issuing group's pipe that is to issue, where it is another (R232). -/
def pipeChoice (s : State) : Option Nat :=
  ((allGroups s).find? (fun h => samePipe s.cur h && ready s h && chosen s h)).map Group.gid

/-- What a group that may not issue does: a trap or a pre-emption request that waits is taken where it can be, repechage
passes and posted operations go on, and a group of its pipe that goes before it becomes the one that issues. -/
def idleStep (s : State) : Result :=
  let g := s.cur
  if g.pend.isSome && !(trapWaits g) && g.passes.isNone then .next (takePending s)
  else if g.request == .pending && (masked g || canStop g) then .next (updCur takeRequest s)
  else match g.passes with
    | some p => .next (passOf p s)
    | none =>
      if g.request == .stopped || g.arch.live = 0 then drainStep s
      else if g.pend.isSome then drainStep s
      else match g.wait with
        | some w => waitStep w s
        | none => match (pipeChoice s).filter (fun n => n != g.gid) with
          | some n => .next (switchTo n s)
          | none => drainStep (cyclePasses g s)

/-- A step without an event: the issuing group issues, or goes on as it can. -/
def runStep (s : State) : Result :=
  if s.halted then .fault .issueStopped
  else if !s.cur.placed then .next s
  else if mayIssue s then issueNext s
  else idleStep s

/-- A die on which a placement round falls due (R385), once the Cox can run it. -/
def dueRound (s : State) : Option Nat :=
  if s.boot == .ready && !s.halted && coxIdle s then [0, 1, 2, 3].find? (roundWanted s) else none

/-- A partition whose umpire has something to note (R390). -/
def dueNote (s : State) : Option Nat := (List.range 8).find? (changeDue s)

/-- What the device does by itself before anything else happens: errors that a read has found are dealt with (R361), the time
at which matrix slots became ready is noted (R329), and the umpires note what has changed (R390). Nothing of it is due in a
device that a fatal error has stopped. -/
def duty (s : State) : Option State :=
  if s.halted then none
  else if !s.found.isEmpty then some (settleErrors s)
  else if stampDue s then some (stampReady s)
  else match dueNote s with
    | some p => some (noteChange s p)
    | none => none

/-- An event that may be the cause of a placement round (R385). -/
def causesRound (i : Instr) : Bool :=
  match i with
  | .teamRetire _ _ | .launchPkt _ | .stakeboatRelease _ | .gangSave _ _ | .queueRst _ | .partReset _ | .partResume _ => true
  | _ => false

/-- An event happens. Before it a placement round runs that is due, unless the event is a further cause in the same control
cycle, a free choice: such causes run one round between them (R402; log 6). -/
def eventStep (i : Instr) (rest : List Instr) (s : State) : Result :=
  match dueRound s with
  | none => takeEvent i rest s
  | some d => if causesRound i && Config.freeBit s.free then takeEvent i rest (nextFree s) else .next (placementRound d (nextFree s))

/-- A step without an event: a placement round that is due runs, or the issuing group goes on. -/
def quietStep (s : State) : Result :=
  match dueRound s with
  | some d => .next (placementRound d s)
  | none => runStep s

/-- The bytes of an instruction whose bits are w, up to 16 (R21). -/
def fetchBytes (nbits w : Nat) : List Byte := bytesOfNat 16 (w % 2 ^ nbits)

/-- A region that begins at address 0: one MiB in the slices of die 0, partition 0 (R95). -/
def fetchRegion : BitVec 128 := BitVec.ofNat 128 (2 ^ 105 + 2 ^ 99 + 2 ^ 64)

/-- A leaf for the page at address 0 (R61): valid, writable, executable, tracked, 4 KiB. -/
def fetchLeaf : BitVec 64 := 0x1F

/-- A launch of one group with the whole register file, for the group that runs what was stored (log 7). -/
def fetchLaunch : Launch :=
  { id := 0, queue := 0, seq := 0, entry := 0, data := 0, tvec := 0, save := 0, groups := 1, w := 1, h := 1, clusters := 1,
    smem := 0, regs := 16, pclass := 0, cor := false, priv := false, asid := 0, grid := 0, part := 0, timed := none,
    held := false, started := true, late := none, orphan := false, spans := [⟨0, 0, .placed, 0, [], false⟩] }

/-- The group in its entry state (R17) at address 0. -/
def fetchGroup : Group :=
  newGroup fetchLaunch ⟨0, 0, 0, 0, 0, 0, 0, 0, 1, []⟩ [⟨16, 0, 0⟩, ⟨0, 0, 0⟩, ⟨0, 0, 0⟩, ⟨0, 0, 0⟩] (BitVec.ofNat 64 localBase) 0 0 0 1 1

/-- An instruction's bytes stored where the next step fetches (log 7): at address 0, mapped and in a region, with a group in
its entry state there, and nothing that is due or scheduled before it. -/
def placeFetch (bs : List Byte) (s : State) : State :=
  (List.range 8).foldl noteChange { s with
    cur := fetchGroup, groups := [], launches := [], sched := [], boot := .ready, halted := false,
    commitPend := false, hostAcks := [], heldWrites := [], found := [], latent := [], slots := [], roundDue := [],
    regions := fetchRegion :: s.regions.tail,
    tlb1 := (0, ⟨0, tget 0 s.gens 0, 0, 4096, fetchLeaf⟩) :: s.tlb1,
    icache := [], copies := s.copies.filter (fun c => c.line != 0), poison := s.poison.filter (fun p => 4 ≤ p),
    retired := s.retired.filter (fun p => p != 0), mem := tsetList 0 s.mem 0 bs }

end Sys2Proof.Machine
end

