-- ==== Sys2Proof/Machine/Step.lean ====
section
/-! DEFINITION. One step of the machine. -/
namespace Sys2Proof.Machine

/-- A step (log 1): what the device itself must do first; else the next event of the device or the outside world where one
is due; else the issuing group goes on. A placement round that falls due comes before either. -/
def step (s : State) : Host.Outcome State Fault Refusal :=
  match duty s with
  | some t => .next t
  | none => match s.sched with
    | i :: rest => eventStep i rest s
    | [] => quietStep s

/-- The state with an instruction's bits stored where the next step fetches. -/
def State.withFetchWord (s : State) (nbits w : Nat) : State := placeFetch (fetchBytes nbits w) s

end Sys2Proof.Machine
end

