-- ==== Sys2Proof/Safety.lean ====
section
/-! DEFINITION. What counts as a safe state: what the rules promise of every state that a run reaches. -/
namespace Sys2Proof.Machine

/-- Every memory, the tags and the banks are in canonical form. -/
def State.tablesOk (s : State) : Bool :=
  Memory.wf s.mem && Memory.wf s.hostMem && Memory.wf s.peerMem && Memory.wf s.smem && twf false s.tags && twf resetBank s.banks

/-- The fixed numbers of registers are kept: 32 queues (R364), 8 partitions (R387), 16 regions in each bank (R95), 96
connection entries (R409), 16 windows (R415). -/
def State.sizesOk (s : State) : Bool :=
  s.queues.length = 32 && s.parts.length = 8 && s.regions.length = 16 && s.shadowRegions.length = 16 && s.conns.length = 96 &&
  s.windows.length = 16

end Sys2Proof.Machine
end

