-- ==== Sys2Proof/Certificates/Slice0/Obligations.lean ====
section
/-! DEFINITION. The statements for the provers, after the words they are made of. -/
namespace Sys2Proof.Claims
open Sys2Proof Sys2Proof.Machine

/-- The instruction completes: `exec` answers a next state, of which P holds. -/
def Completes (i : Instr) (s : State) (P : State → Prop) : Prop := ∃ t, exec i s = .next t ∧ P t

/-- Every byte of every memory, and every full/empty tag, reads as before. -/
def SameBytes (s t : State) : Prop :=
  ∀ a, tget 0 t.mem a = tget 0 s.mem a ∧ tget 0 t.hostMem a = tget 0 s.hostMem a ∧ tget 0 t.peerMem a = tget 0 s.peerMem a ∧
    tget 0 t.smem a = tget 0 s.smem a ∧ tget false t.tags a = tget false s.tags a

/-- Flag f is set for lane l in `ffl` (R236). -/
def flagAt (s : State) (f l : Nat) : Bool := (tget 0 s.cur.arch.ffl f).getLsbD l

/-- Lane l is active (R19). -/
def laneOn (s : State) (l : Nat) : Bool := (active s).getLsbD l

/-- No active lane raises a flag whose enable bit is set for it, or traps are masked (R237, R350). -/
def NoFlagTrap (fl : Nat → FlagSet) (s : State) : Prop :=
  ∀ f l, f < 7 → l < 32 → laneOn s l = true → (fl l).getLsbD f = true →
    masked s.cur = true ∨ (tget 0 s.cur.ften f).getLsbD l = false

/-- The group's wait is over, it has not arrived at its next instruction, and its registers are these; nothing else of the machine
differs. -/
def OnlyRegs (a : Arch) (s t : State) : Prop := t = { s with cur := { s.cur with arch := a, wait := none, since := 0, came := none } }

/-- The flags of R237: every active lane ORs those it raised into its `ffl`, the other lanes keep theirs. -/
def FlagsAccrue (fl : Nat → FlagSet) (s t : State) : Prop :=
  ∀ f l, f < 7 → l < 32 → flagAt t f l = (flagAt s f l || (laneOn s l && (fl l).getLsbD f))

/-- A scalar register was written: d holds v, every other scalar register what it held, the flags accrued, the pc moved
past n bytes, and nothing else of the machine differs. -/
structure ScalarWritten (n : Nat) (d : SReg) (v : Word) (fl : FlagSet) (s t : State) : Prop where
  only : OnlyRegs ⟨s.cur.arch.pc + BitVec.ofNat 57 n, s.cur.arch.em, s.cur.arch.live, s.cur.arch.lpart, s.cur.arch.stack,
    t.cur.arch.sregs, s.cur.arch.vregs, s.cur.arch.preds, t.cur.arch.ffl⟩ s t
  dest : getS t d = v
  others : ∀ r, r ≠ d → getS t r = getS s r
  flags : FlagsAccrue (fun _ => fl) s t
  bytes : SameBytes s t

/-- Vector registers were written: destination i holds val i in every active lane; every other register, and every lane
that is not active, holds what it held; the flags accrued, the pc moved past n bytes, and nothing else differs. -/
structure VectorWritten (n : Nat) (ds : List Nat) (val : Nat → Nat → LaneWord) (fl : Nat → FlagSet) (s t : State) : Prop where
  only : OnlyRegs ⟨s.cur.arch.pc + BitVec.ofNat 57 n, s.cur.arch.em, s.cur.arch.live, s.cur.arch.lpart, s.cur.arch.stack,
    s.cur.arch.sregs, t.cur.arch.vregs, s.cur.arch.preds, t.cur.arch.ffl⟩ s t
  dest : ∀ i l, i < ds.length → l < 32 → laneOn s l = true → getV t (ds.getD i 0) l = val i l
  others : ∀ r l, l < 32 → r ∉ ds ∨ laneOn s l = false → getV t r l = getV s r l
  flags : FlagsAccrue fl s t
  bytes : SameBytes s t

/-- A predicate was written in the lanes of a mask: `p7` stays true in every lane (R12), every other predicate holds what
it held, the flags accrued, the pc moved past n bytes, and nothing else differs. -/
structure PredicateWritten (n : Nat) (p : PReg) (lanes : Nat → Bool) (val : Nat → Bool) (fl : Nat → FlagSet) (s t : State) : Prop where
  only : OnlyRegs ⟨s.cur.arch.pc + BitVec.ofNat 57 n, s.cur.arch.em, s.cur.arch.live, s.cur.arch.lpart, s.cur.arch.stack,
    s.cur.arch.sregs, s.cur.arch.vregs, t.cur.arch.preds, t.cur.arch.ffl⟩ s t
  dest : p ≠ 7 → ∀ l, l < 32 → (getP t p).getLsbD l = if lanes l then val l else (getP s p).getLsbD l
  always : getP t 7 = allLanes
  others : ∀ q, q ≠ p → getP t q = getP s q
  flags : FlagsAccrue fl s t
  bytes : SameBytes s t

/-- The instruction only advances: the pc moved past n bytes, and nothing else differs. -/
structure Advanced (n : Nat) (s t : State) : Prop where
  only : OnlyRegs { s.cur.arch with pc := s.cur.arch.pc + BitVec.ofNat 57 n } s t
  bytes : SameBytes s t

/-- What a vector instruction asks of the state: SIMT mode (R293), its registers in the allotment (R231), a lane active. -/
def VectorReady (named : List Nat) (s : State) : Prop :=
  s.cur.crew = none ∧ (∀ r ∈ named, r < s.cur.allot) ∧ active s ≠ 0

/-- A scalar operation with its three operand forms: two registers, a 6-bit immediate, a 32-bit literal. -/
structure ScalarForms where
  reg : SReg → SReg → SReg → Instr
  imm : SReg → SReg → BitVec 6 → Instr
  lit : SReg → SReg → BitVec 32 → Instr
  op : Word → Word → Word

/-- The scalar operations whose immediate is signed and that raise no flag (R240). -/
def scalarSigned : List ScalarForms :=
  [⟨.sadd, .saddImm, .saddLit, fun x y => x + y⟩, ⟨.ssub, .ssubImm, .ssubLit, fun x y => x - y⟩,
   ⟨.smul, .smulImm, .smulLit, fun x y => x * y⟩,
   ⟨.smulhI64, .smulhI64Imm, .smulhI64Lit, fun x y => BitVec.ofInt 64 (x.toInt * y.toInt / 2 ^ 64)⟩,
   ⟨.smulhN64, .smulhN64Imm, .smulhN64Lit, fun x y => BitVec.ofNat 64 (x.toNat * y.toNat / 2 ^ 64)⟩,
   ⟨.sand, .sandImm, .sandLit, fun x y => x &&& y⟩, ⟨.sor, .sorImm, .sorLit, fun x y => x ||| y⟩,
   ⟨.sxor, .sxorImm, .sxorLit, fun x y => x ^^^ y⟩,
   ⟨.sminI64, .sminI64Imm, .sminI64Lit, fun x y => if x.slt y then x else y⟩,
   ⟨.sminN64, .sminN64Imm, .sminN64Lit, fun x y => if x.ult y then x else y⟩,
   ⟨.smaxI64, .smaxI64Imm, .smaxI64Lit, fun x y => if x.slt y then y else x⟩,
   ⟨.smaxN64, .smaxN64Imm, .smaxN64Lit, fun x y => if x.ult y then y else x⟩]

/-- The scalar shifts, whose immediate is unsigned and whose count is taken modulo 64 (R28, R240). -/
def scalarShifts : List ScalarForms :=
  [⟨.sshl, .sshlImm, .sshlLit, fun x y => x <<< (y.toNat % 64)⟩,
   ⟨.sshrN64, .sshrN64Imm, .sshrN64Lit, fun x y => x >>> (y.toNat % 64)⟩,
   ⟨.sshrI64, .sshrI64Imm, .sshrI64Lit, fun x y => x.sshiftRight (y.toNat % 64)⟩]

/-- The scalar divisions (R241): the quotient truncated toward zero, the remainder with the sign of the dividend, and the
results of a division by zero. -/
def scalarDivSigned : List ScalarForms :=
  [⟨.sdivI64, .sdivI64Imm, .sdivI64Lit, fun x y => if y = 0 then BitVec.allOnes 64 else x.sdiv y⟩,
   ⟨.sremI64, .sremI64Imm, .sremI64Lit, fun x y => if y = 0 then x else x.srem y⟩]

def scalarDivUnsigned : List ScalarForms :=
  [⟨.sdivN64, .sdivN64Imm, .sdivN64Lit, fun x y => if y = 0 then BitVec.allOnes 64 else x / y⟩,
   ⟨.sremN64, .sremN64Imm, .sremN64Lit, fun x y => if y = 0 then x else x % y⟩]

/-- The flag of a signed division (R241): IDZ for a zero divisor, IOV for the least value by -1. -/
def sdivFlag (x y : Word) : FlagSet :=
  if y = 0 then fIDZ else if x = BitVec.intMin 64 ∧ y = BitVec.allOnes 64 then fIOV else 0

/-- A form of an operation on the operand values x and y writes its result, whatever the operands (for a flag, where it
does not trap). -/
def ScalarRuns (i : Instr) (n : Nat) (d : SReg) (v : Word) (fl : FlagSet) (s : State) : Prop :=
  active s ≠ 0 → NoFlagTrap (fun _ => fl) s → Completes i s (ScalarWritten n d v fl s)

/-- The three forms of an operation, with its immediate widened one way and a flag. -/
def FormsRun (f : ScalarForms) (widen : BitVec 6 → Word) (fl : Word → Word → FlagSet) : Prop :=
  ∀ d a s,
    (∀ b, ScalarRuns (f.reg d a b) 4 d (f.op (getS s a) (getS s b)) (fl (getS s a) (getS s b)) s) ∧
    (∀ i, ScalarRuns (f.imm d a i) 4 d (f.op (getS s a) (widen i)) (fl (getS s a) (widen i)) s) ∧
    (∀ k, ScalarRuns (f.lit d a k) 12 d (f.op (getS s a) (k.signExtend 64)) (fl (getS s a) (k.signExtend 64)) s)

/-- The value of an index or count register (R221, R243): `%lane` apart, which `mov` reads. -/
def indexOfGroup (x : Indices) : IndexReg → Nat
  | .group => x.group | .team => x.team | .cluster => x.cluster | .span => x.span | .grid => x.grid
  | .nlane => 32 | .ngroup => x.ngroup | .nteam => x.nteam | .ncluster => x.ncluster | .nspan => x.nspan

/-- R239, R240: sadd, ssub, smul, smulh, sand, sor, sxor, smin and smax in every form write their result once for the
group, move past their bytes and change nothing else. -/
def ScalarArithmetic : Prop :=
  ∀ f ∈ scalarSigned, FormsRun f (fun i => i.signExtend 64) (fun _ _ => 0)

/-- R240: the scalar shifts in every form; the count is taken modulo 64. -/
def ScalarShifts : Prop :=
  ∀ f ∈ scalarShifts, FormsRun f (fun i => i.setWidth 64) (fun _ _ => 0)

/-- R241: sdiv and srem in every form, with the results by zero and their flags. -/
def ScalarDivision : Prop :=
  (∀ f ∈ scalarDivSigned, FormsRun f (fun i => i.signExtend 64) sdivFlag) ∧
  (∀ f ∈ scalarDivUnsigned, FormsRun f (fun i => i.signExtend 64) (fun _ y => if y = 0 then fIDZ else 0))

/-- R242: scmp in every form writes its result in all 32 lanes of a predicate (p7 stays true), where a lane is active. -/
def ScalarCompare : Prop :=
  ∀ cd p a s, active s ≠ 0 →
    (∀ b, Completes (.scmpI64 cd p a b) s (PredicateWritten 4 p (fun _ => true) (fun _ => condInt cd (getS s a).toInt (getS s b).toInt) (fun _ => 0) s)) ∧
    (∀ i, Completes (.scmpI64Imm cd p a i) s (PredicateWritten 4 p (fun _ => true) (fun _ => condInt cd (getS s a).toInt (i.signExtend 64 : Word).toInt) (fun _ => 0) s)) ∧
    (∀ k, Completes (.scmpI64Lit cd p a k) s (PredicateWritten 12 p (fun _ => true) (fun _ => condInt cd (getS s a).toInt (k.signExtend 64 : Word).toInt) (fun _ => 0) s)) ∧
    (∀ b, Completes (.scmpN64 cd p a b) s (PredicateWritten 4 p (fun _ => true) (fun _ => condInt cd (getS s a).toNat (getS s b).toNat) (fun _ => 0) s)) ∧
    (∀ i, Completes (.scmpN64Imm cd p a i) s (PredicateWritten 4 p (fun _ => true) (fun _ => condInt cd (getS s a).toNat (i.signExtend 64 : Word).toNat) (fun _ => 0) s)) ∧
    (∀ k, Completes (.scmpN64Lit cd p a k) s (PredicateWritten 12 p (fun _ => true) (fun _ => condInt cd (getS s a).toNat (k.signExtend 64 : Word).toNat) (fun _ => 0) s))

/-- R243: smov in every form, sclz, sctz, spopc and sbrev. -/
def ScalarMovesAndCounts : Prop :=
  ∀ d s, active s ≠ 0 →
    (∀ a, Completes (.smov d a) s (ScalarWritten 4 d (getS s a) 0 s)) ∧
    (∀ i, Completes (.smovImm d i) s (ScalarWritten 4 d (i.signExtend 64) 0 s)) ∧
    (∀ x, Completes (.smovIndex d x) s (ScalarWritten 4 d (BitVec.ofNat 64 (indexOfGroup s.cur.idx x)) 0 s)) ∧
    (∀ k, Completes (.smovLit d k) s (ScalarWritten 12 d (k.signExtend 64) 0 s)) ∧
    (∀ a, Completes (.sclz d a) s (ScalarWritten 4 d (BitVec.ofNat 64 (leadZeros 64 (getS s a).toNat)) 0 s)) ∧
    (∀ a, Completes (.sctz d a) s (ScalarWritten 4 d (BitVec.ofNat 64 (trailZeros 64 (getS s a).toNat)) 0 s)) ∧
    (∀ a, Completes (.spopc d a) s (ScalarWritten 4 d (BitVec.ofNat 64 (onesIn 64 (getS s a).toNat)) 0 s)) ∧
    (∀ a, Completes (.sbrev d a) s (ScalarWritten 4 d (BitVec.ofNat 64 (reverseBits 64 (getS s a).toNat)) 0 s))

/-- R243, R245: what the counts of zeros and ones and the reversal are, bit by bit. -/
def BitCountsAndReversal : Prop :=
  ∀ (w v : Nat), 0 < w → v < 2 ^ w →
    (v ≠ 0 → leadZeros w v < w ∧ v.testBit (w - 1 - leadZeros w v) = true ∧ ∀ k, w - 1 - leadZeros w v < k → v.testBit k = false) ∧
    (v ≠ 0 → trailZeros w v < w ∧ v.testBit (trailZeros w v) = true ∧ ∀ k, k < trailZeros w v → v.testBit k = false) ∧
    leadZeros w 0 = w ∧ trailZeros w 0 = w ∧
    onesIn w v = (List.range w).countP (fun k => v.testBit k) ∧
    (∀ k, k < w → (reverseBits w v).testBit k = v.testBit (w - 1 - k))

/-- A vector instruction runs: with its registers in the allotment, a lane active and no flag trapping, it writes its
destinations. -/
def VectorRuns (i : Instr) (n : Nat) (named ds : List Nat) (val : Nat → Nat → LaneWord) (fl : Nat → FlagSet) (s : State) : Prop :=
  VectorReady named s → NoFlagTrap fl s → Completes i s (VectorWritten n ds val fl s)

/-- A compare runs: the predicate is written in the active lanes. -/
def CompareRuns (i : Instr) (n : Nat) (named : List Nat) (p : PReg) (val : Nat → Bool) (fl : Nat → FlagSet) (s : State) : Prop :=
  VectorReady named s → NoFlagTrap fl s → Completes i s (PredicateWritten n p (laneOn s) val fl s)

/-- A lane-by-lane operation of one source: types of destination and source, and the operation on bit patterns. -/
def UnaryRuns (i : Instr) (td ts : Ty) (d a : VReg) (op : Nat → Nat × FlagSet) : Prop :=
  ∀ s, VectorRuns i 8 (regsOf td d ++ regsOf ts a) (regsOf td d) (fun k l => wordOf (op (laneVal s ts a l)).1 k)
    (fun l => (op (laneVal s ts a l)).2) s

/-- A lane-by-lane operation of two registers. -/
def BinaryRuns (i : Instr) (t : Ty) (d a b : VReg) (op : Nat → Nat → Nat × FlagSet) : Prop :=
  ∀ s, VectorRuns i 8 (regsOf t d ++ regsOf t a ++ regsOf t b) (regsOf t d)
    (fun k l => wordOf (op (laneVal s t a l) (laneVal s t b l)).1 k) (fun l => (op (laneVal s t a l) (laneVal s t b l)).2) s

/-- A lane-by-lane operation of a register and a literal. -/
def LiteralRuns (i : Instr) (t : Ty) (d a : VReg) (k : BitVec 32) (op : Nat → Nat → Nat × FlagSet) : Prop :=
  ∀ s, VectorRuns i 12 (regsOf t d ++ regsOf t a) (regsOf t d)
    (fun j l => wordOf (op (laneVal s t a l) (litVal t k)).1 j) (fun l => (op (laneVal s t a l) (litVal t k)).2) s

/-- A lane-by-lane operation of three registers. -/
def TernaryRuns (i : Instr) (t : Ty) (d a b c : VReg) (op : Nat → Nat → Nat → Nat × FlagSet) : Prop :=
  ∀ s, VectorRuns i 16 (regsOf t d ++ regsOf t a ++ regsOf t b ++ regsOf t c) (regsOf t d)
    (fun k l => wordOf (op (laneVal s t a l) (laneVal s t b l) (laneVal s t c l)).1 k)
    (fun l => (op (laneVal s t a l) (laneVal s t b l) (laneVal s t c l)).2) s

/-- A two-source operation with its register form and its literal form. -/
structure VectorForms where
  reg : VReg → VReg → VReg → Instr
  lit : VReg → VReg → BitVec 32 → Instr
  op : Nat → Nat → Nat × FlagSet

/-- Both forms of an operation run. -/
def BothRun (t : Ty) (f : VectorForms) : Prop :=
  ∀ d a, (∀ b, BinaryRuns (f.reg d a b) t d a b f.op) ∧ (∀ k, LiteralRuns (f.lit d a k) t d a k f.op)

/-- The two-source integer operations (R245, R246). -/
def integerForms (t : Ty) (sat : Bool) : List VectorForms :=
  [⟨.iadd t sat, .iaddLit t sat, intAdd t sat⟩, ⟨.isub t sat, .isubLit t sat, intSub t sat⟩, ⟨.imul t, .imulLit t, intMul t⟩,
   ⟨.imulh t, .imulhLit t, intMulh t⟩, ⟨.idiv t, .idivLit t, intDiv t⟩, ⟨.irem t, .iremLit t, intRem t⟩,
   ⟨.imin t, .iminLit t, intMinOf t⟩, ⟨.imax t, .imaxLit t, intMaxOf t⟩,
   ⟨.vAnd t, .vAndLit t, fun x y => (x &&& y, 0)⟩, ⟨.vOr t, .vOrLit t, fun x y => (x ||| y, 0)⟩,
   ⟨.vXor t, .vXorLit t, fun x y => (x ^^^ y, 0)⟩,
   ⟨.shl t, .shlLit t, fun x y => (x * 2 ^ (y % tyBits t) % 2 ^ tyBits t, 0)⟩, ⟨.shr t, .shrLit t, shiftRight t⟩]

/-- The two-source floating-point operations (R250, R251). -/
def floatForms (t : Ty) (rnd : Rnd) : List VectorForms :=
  [⟨.fadd t rnd, .faddLit t rnd, floatAdd (fmtOf t) rnd⟩, ⟨.fsub t rnd, .fsubLit t rnd, floatSub (fmtOf t) rnd⟩,
   ⟨.fmul t rnd, .fmulLit t rnd, floatMul (fmtOf t) rnd⟩, ⟨.fmin t, .fminLit t, floatMinMax (fmtOf t) false⟩,
   ⟨.fmax t, .fmaxLit t, floatMinMax (fmtOf t) true⟩]

/-- The two-source tapered operations (R257). -/
def taperedForms (t : Ty) : List VectorForms :=
  [⟨.tadd t, .taddLit t, fun x y => tapAdd t (decodeNum t x) (decodeNum t y)⟩,
   ⟨.tmul t, .tmulLit t, fun x y => tapMul t (decodeNum t x) (decodeNum t y)⟩,
   ⟨.tmin t, .tminLit t, fun x y => (if toSigned (tapN t) x ≤ toSigned (tapN t) y then x else y, 0)⟩,
   ⟨.tmax t, .tmaxLit t, fun x y => (if toSigned (tapN t) x ≤ toSigned (tapN t) y then y else x, 0)⟩]

/-- The exact sum of `dot4` (R248): the accumulator and four products of bytes, signed for `.i8`. -/
def dotSum (t acc : Ty) (a b c : Nat) : Int :=
  intOf acc c + ((List.range 4).map (fun j => intOf t (a / 256 ^ j % 256) * intOf t (b / 256 ^ j % 256))).sum

/-- Both forms of a compare run. -/
def BothCompare (t : Ty) (reg : PReg → VReg → VReg → Instr) (lit : PReg → VReg → BitVec 32 → Instr) (op : Nat → Nat → Bool × FlagSet) : Prop :=
  ∀ p a s,
    (∀ b, CompareRuns (reg p a b) 8 (regsOf t a ++ regsOf t b) p (fun l => (op (laneVal s t a l) (laneVal s t b l)).1)
      (fun l => (op (laneVal s t a l) (laneVal s t b l)).2) s) ∧
    (∀ k, CompareRuns (lit p a k) 12 (regsOf t a) p (fun l => (op (laneVal s t a l) (litVal t k)).1)
      (fun l => (op (laneVal s t a l) (litVal t k)).2) s)

/-- The lane whose value `shfl` gives lane l (R262), with n lanes in the set and the index value b. -/
def shuffleSource (m : ShflMode) (n l b : Nat) : Nat :=
  l / n * n + match m with
    | .idx => b % n
    | .up => (l % n + (n - b % n)) % n
    | .down => (l % n + b) % n
    | .xor => ((l % n) ^^^ b) % n

/-- A lane's own value where the source lane is not active (R262, R265). -/
def laneFrom (s : State) (a : VReg) (l j : Nat) : LaneWord := if laneOn s j then getV s a.toNat j else getV s a.toNat l

/-- The active lanes of lane l's set, lowest first (R227). -/
def activeInSet (s : State) (l : Nat) : List Nat :=
  let n := 2 ^ s.cur.arch.lpart.toNat
  ((List.range n).map (fun k => l / n * n + k)).filter (laneOn s)

/-- The active lanes of the set in which a predicate holds (R263). -/
def votersInSet (s : State) (p : PReg) (l : Nat) : List Nat := (activeInSet s l).filter (fun k => (getP s p).getLsbD k)

/-- k elements of w bits packed from bit 0 up (R260). -/
def packed (w k : Nat) (elem : Nat → Nat) : Nat := ((List.range k).map (fun i => elem i % 2 ^ w * 2 ^ (w * i))).sum

/-- The flags of k conversions together. -/
def flagsOf (k : Nat) (fl : Nat → FlagSet) : FlagSet := (List.range k).foldl (fun f i => f ||| fl i) 0

/-- R235, R245, R246: the two-source integer instructions, register and literal forms. -/
def IntegerTwoSources : Prop := ∀ t sat, ∀ f ∈ integerForms t sat, BothRun t f

/-- R245, R247, R248: the other integer instructions. -/
def IntegerOneOrThreeSources : Prop :=
  ∀ (t : Ty) (d a : VReg),
    UnaryRuns (.iabs t d a) t t d a (intAbs t) ∧ UnaryRuns (.ineg t d a) t t d a (intNeg t) ∧
    UnaryRuns (.vNot t d a) t t d a (fun x => (2 ^ tyBits t - 1 - x, 0)) ∧ UnaryRuns (.mov t d a) t t d a (fun x => (x, 0)) ∧
    UnaryRuns (.clz t d a) t t d a (fun x => (leadZeros (tyBits t) x, 0)) ∧
    UnaryRuns (.popc t d a) t t d a (fun x => (onesIn (tyBits t) x, 0)) ∧
    UnaryRuns (.brev t d a) t t d a (fun x => (reverseBits (tyBits t) x, 0)) ∧
    (∀ b c, TernaryRuns (.imad t d a b c) t d a b c (fun x y z => ((x * y + z) % 2 ^ tyBits t, 0))) ∧
    (∀ sat b c, TernaryRuns (.dot4 t sat d a b c) .b32 d a b c (dotFour t sat)) ∧
    (∀ (p : PReg) (b : VReg) s, VectorRuns (.sel t p d a b) 8 (regsOf t d ++ regsOf t a ++ regsOf t b) (regsOf t d)
      (fun k l => wordOf (if (getP s p).getLsbD l then laneVal s t a l else laneVal s t b l) k) (fun _ => 0) s) ∧
    (∀ k s, VectorRuns (.movLit t d k) 12 (regsOf t d) (regsOf t d) (fun j _ => wordOf (litVal t k) j) (fun _ => 0) s) ∧
    (∀ s, VectorRuns (.movLane d) 8 [d.toNat] [d.toNat] (fun _ l => BitVec.ofNat 32 l) (fun _ => 0) s)

/-- R247: icmp in both forms. -/
def IntegerCompare : Prop :=
  ∀ t cd, BothCompare t (.icmp t cd) (.icmpLit t cd) (fun x y => (condInt cd (intOf t x) (intOf t y), 0))

/-- R245, R246, R248: what the integer operations compute, on patterns of the type's width: with .sat the exact result clamped and
IOV where that changed it; the least value by -1 and the negation of the least value wrap with IOV; a right shift rounds down,
with the sign of the type. -/
def IntegerResults : Prop :=
  ∀ t x y, tyI4 t = true → x < 2 ^ tyBits t → y < 2 ^ tyBits t →
    (∀ sat, intOf t (intAdd t sat x y).1 = if sat then max (intMin t) (min (intOf t x + intOf t y) (intMax t))
      else intOf t ((x + y) % 2 ^ tyBits t)) ∧
    (intAdd t false x y).1 = (x + y) % 2 ^ tyBits t ∧ (intAdd t false x y).2 = 0 ∧
    ((intAdd t true x y).2 = fIOV ↔ intOf t x + intOf t y < intMin t ∨ intMax t < intOf t x + intOf t y) ∧
    (intSub t false x y).1 = (x + (2 ^ tyBits t - y)) % 2 ^ tyBits t ∧ (intSub t false x y).2 = 0 ∧
    ((intSub t true x y).2 = fIOV ↔ intOf t x - intOf t y < intMin t ∨ intMax t < intOf t x - intOf t y) ∧
    intOf t x * intOf t y = intOf t (intMulh t x y).1 * 2 ^ tyBits t + (intMul t x y).1 ∧
    (y ≠ 0 → ¬ (intOf t x = intMin t ∧ intOf t y = -1) →
      intOf t x = intOf t (intDiv t x y).1 * intOf t y + intOf t (intRem t x y).1 ∧
      (intOf t (intRem t x y).1).natAbs < (intOf t y).natAbs ∧
      (0 ≤ intOf t x → 0 ≤ intOf t (intRem t x y).1) ∧ (intOf t x ≤ 0 → intOf t (intRem t x y).1 ≤ 0) ∧
      (intDiv t x y).2 = 0 ∧ (intRem t x y).2 = 0) ∧
    (intDiv t x 0).1 = 2 ^ tyBits t - 1 ∧ (intRem t x 0).1 = x ∧ (intDiv t x 0).2 = fIDZ ∧ (intRem t x 0).2 = fIDZ ∧
    intOf t (intSub t true x y).1 = max (intMin t) (min (intOf t x - intOf t y) (intMax t)) ∧
    (tyIsSigned t = true → intOf t x = intMin t → intOf t y = -1 →
      intDiv t x y = (2 ^ (tyBits t - 1), fIOV) ∧ intRem t x y = (0, fIOV)) ∧
    intOf t (intMinOf t x y).1 = min (intOf t x) (intOf t y) ∧ (intMinOf t x y).2 = 0 ∧
    intOf t (intMaxOf t x y).1 = max (intOf t x) (intOf t y) ∧ (intMaxOf t x y).2 = 0 ∧
    (tyIsSigned t = true → intOf t x ≠ intMin t → intOf t (intAbs t x).1 = (intOf t x).natAbs ∧ (intAbs t x).2 = 0 ∧
      intOf t (intNeg t x).1 = -(intOf t x) ∧ (intNeg t x).2 = 0) ∧
    (tyIsSigned t = true → intOf t x = intMin t → intAbs t x = (2 ^ (tyBits t - 1), fIOV) ∧ intNeg t x = (2 ^ (tyBits t - 1), fIOV)) ∧
    intOf t (shiftRight t x y).1 = intOf t x / ((2 ^ (y % tyBits t) : Nat) : Int) ∧ (shiftRight t x y).2 = 0 ∧
    (∀ e ∈ ([(.i8, .i32), (.n8, .n32)] : List (Ty × Ty)), ∀ a b c,
      ((dotFour e.1 false a b c).1 : Int) = dotSum e.1 e.2 a b c % ((2 ^ 32 : Nat) : Int) ∧ (dotFour e.1 false a b c).2 = 0 ∧
      intOf e.2 (dotFour e.1 true a b c).1 = max (intMin e.2) (min (dotSum e.1 e.2 a b c) (intMax e.2)) ∧
      ((dotFour e.1 true a b c).2 = fIOV ↔ dotSum e.1 e.2 a b c < intMin e.2 ∨ intMax e.2 < dotSum e.1 e.2 a b c))

/-- R250 to R256: the floating-point instructions that write a vector register. The values of fexp2, flog2, frcp, frsq,
fsin and fcos rest on the free value of log 20 within the bounds of R254. -/
def FloatingPoint : Prop :=
  ∀ (t : Ty) (rnd : Rnd) (d a : VReg),
    (∀ f ∈ floatForms t rnd, BothRun t f) ∧
    (∀ b c, TernaryRuns (.ffma t rnd d a b c) t d a b c (floatFma (fmtOf t) rnd)) ∧
    (∀ b, BinaryRuns (.fsgn t d a b) t d a b
      (fun x y => (x % fmtSign (fmtOf t) + y / fmtSign (fmtOf t) * fmtSign (fmtOf t), 0))) ∧
    UnaryRuns (.fabs t d a) t t d a (fun x => (x % fmtSign (fmtOf t), 0)) ∧
    UnaryRuns (.fneg t d a) t t d a (fun x => (x ^^^ fmtSign (fmtOf t), 0)) ∧
    UnaryRuns (.fclass t d a) t t d a (fun x => (floatClass (fmtOf t) x, 0)) ∧
    UnaryRuns (.frnd t rnd d a) t t d a (floatRnd (fmtOf t) rnd) ∧
    UnaryRuns (.fexp2 d a) .f32 .f32 d a (fun x => specialFunction 0 (BitVec.ofNat 32 x)) ∧
    UnaryRuns (.flog2 d a) .f32 .f32 d a (fun x => specialFunction 1 (BitVec.ofNat 32 x)) ∧
    UnaryRuns (.frcp d a) .f32 .f32 d a (fun x => specialFunction 2 (BitVec.ofNat 32 x)) ∧
    UnaryRuns (.frsq d a) .f32 .f32 d a (fun x => specialFunction 3 (BitVec.ofNat 32 x)) ∧
    UnaryRuns (.fsin d a) .f32 .f32 d a (fun x => specialFunction 4 (BitVec.ofNat 32 x)) ∧
    UnaryRuns (.fcos d a) .f32 .f32 d a (fun x => specialFunction 5 (BitVec.ofNat 32 x)) ∧
    BothRun .f32 ⟨.xins rnd, .xinsLit rnd, fun x n => floatXins rnd x (toSigned 32 n)⟩ ∧
    UnaryRuns (.xext d a) .f32 .f32 d a (fun x => (toPattern 32 (floatXext x).1, (floatXext x).2))

/-- R253, R257: fcmp and tcmp in both forms. -/
def FloatAndTaperedCompare : Prop :=
  ∀ t cd, BothCompare t (.fcmp t cd) (.fcmpLit t cd) (floatCmp (fmtOf t) cd) ∧
    BothCompare t (.tcmp t cd) (.tcmpLit t cd) (fun x y => (condInt cd (toSigned (tapN t) x) (toSigned (tapN t) y), 0))

/-- R257 to R260: the tapered arithmetic and the conversions. -/
def TaperedAndConversions : Prop :=
  (∀ t, ∀ f ∈ taperedForms t, BothRun t f) ∧
  (∀ t d a b c, TernaryRuns (.tfma t d a b c) t d a b c (fun x y z => tapFma t (decodeNum t x) (decodeNum t y) (decodeNum t z))) ∧
  (∀ rnd sat td ts d a, UnaryRuns (.cvt rnd sat td ts d a) td ts d a (convertNum td ts rnd sat)) ∧
  (∀ sat td ts d a b s, VectorRuns (.cvtsr sat td ts d a b) 8 (regsOf td d ++ regsOf ts a ++ [b.toNat]) (regsOf td d)
    (fun k l => wordOf (convertSr td ts sat (laneVal s ts a l) (getV s b.toNat l).toNat).1 k)
    (fun l => (convertSr td ts sat (laneVal s ts a l) (getV s b.toNat l).toNat).2) s) ∧
  (∀ rnd sat td ts (d a : VReg) s, ∀ p ∈ ([(2, .pk2), (4, .pk4), (8, .pk8)] : List (Nat × (Rnd → Bool → Ty → Ty → VReg → VReg → Instr))),
    let elem := fun l i => convert td ts rnd sat ((getV s (a.toNat + i) l).toNat % 2 ^ tyBits ts)
    VectorRuns (p.2 rnd sat td ts d a) 8 (d.toNat :: (List.range p.1).map (fun i => a.toNat + i)) [d.toNat]
      (fun _ l => BitVec.ofNat 32 (packed (tyBits td) p.1 (fun i => (elem l i).1))) (fun l => flagsOf p.1 (fun i => (elem l i).2)) s) ∧
  (∀ rnd sat td ts (d a : VReg) s, ∀ p ∈ ([(2, .upk2), (4, .upk4), (8, .upk8)] : List (Nat × (Rnd → Bool → Ty → Ty → VReg → VReg → Instr))),
    let elem := fun l i => convert td ts rnd sat ((getV s a.toNat l).toNat / 2 ^ (tyBits ts * i) % 2 ^ tyBits ts)
    VectorRuns (p.2 rnd sat td ts d a) 8 ((List.range p.1).map (fun i => d.toNat + i) ++ [a.toNat]) ((List.range p.1).map (fun i => d.toNat + i))
      (fun i l => BitVec.ofNat 32 (elem l i).1) (fun l => flagsOf p.1 (fun i => (elem l i).2)) s)

/-- R261 to R265, R267: the cross-lane instructions and rhash. -/
def CrossLane : Prop :=
  ∀ (d a b : VReg) s,
    let n := 2 ^ s.cur.arch.lpart.toNat
    (∀ m, VectorRuns (.shfl m d a b) 8 [d.toNat, a.toNat, b.toNat] [d.toNat]
      (fun _ l => laneFrom s a l (shuffleSource m n l (getV s b.toNat l).toNat)) (fun _ => 0) s) ∧
    (∀ m k, VectorRuns (.shflLit m d a k) 12 [d.toNat, a.toNat] [d.toNat]
      (fun _ l => laneFrom s a l (shuffleSource m n l k.toNat)) (fun _ => 0) s) ∧
    (∀ p, CompareRuns (.vote .any d p) 8 [] (d.setWidth 3) (fun l => !(votersInSet s p l).isEmpty) (fun _ => 0) s) ∧
    (∀ p, CompareRuns (.vote .all d p) 8 [] (d.setWidth 3) (fun l => (activeInSet s l).all (fun k => (getP s p).getLsbD k)) (fun _ => 0) s) ∧
    (∀ p, VectorRuns (.vote .ballot d p) 8 [d.toNat] [d.toNat]
      (fun _ l => BitVec.ofNat 32 ((votersInSet s p l).map (fun k => 2 ^ k)).sum) (fun _ => 0) s) ∧
    (∀ op t, VectorRuns (.redl op t d a) 8 [d.toNat, a.toNat] [d.toNat]
      (fun _ l => BitVec.ofNat 32 (treeOf op t ((activeInSet s l).map (laneVal s t a))).1)
      (fun l => (treeOf op t ((activeInSet s l).map (laneVal s t a))).2) s) ∧
    (∀ op t, VectorRuns (.scan false op t d a) 8 [d.toNat, a.toNat] [d.toNat]
      (fun _ l => BitVec.ofNat 32 ((scanList op t ((activeInSet s l).map (laneVal s t a))).1.getD ((activeInSet s l).idxOf l) 0))
      (fun l => (scanList op t ((activeInSet s l).map (laneVal s t a))).2) s) ∧
    (∀ op t, VectorRuns (.scan true op t d a) 8 [d.toNat, a.toNat] [d.toNat]
      (fun _ l => BitVec.ofNat 32 (if (activeInSet s l).head? = some l then scanIdentity op t
        else (scanList op t ((activeInSet s l).map (laneVal s t a))).1.getD ((activeInSet s l).idxOf l - 1) 0))
      (fun l => (scanList op t ((activeInSet s l).map (laneVal s t a))).2) s) ∧
    VectorRuns (.bcast d a b) 8 [d.toNat, a.toNat, b.toNat] [d.toNat]
      (fun _ l => laneFrom s a l (l / n * n + (getV s b.toNat ((activeInSet s l).headD l)).toNat % n)) (fun _ => 0) s ∧
    (∀ k, VectorRuns (.bcastLit d a k) 12 [d.toNat, a.toNat] [d.toNat]
      (fun _ l => laneFrom s a l (l / n * n + k.toNat % n)) (fun _ => 0) s) ∧
    (∀ r k, VectorRuns (.rhash d a r k) 16 [d.toNat, a.toNat] [d.toNat] (fun _ l => rhashMix (getV s a.toNat l) k (getS s r)) (fun _ => 0) s)

/-- R266: lpart with an accepted set size sets LOG; any other size traps. -/
def LanePartition : Prop :=
  ∀ s, s.cur.crew = none → active s ≠ 0 →
    (∀ a k, 1 ≤ k → k ≤ 5 → getS s a = BitVec.ofNat 64 (2 ^ k) → Completes (.lpart a) s (fun t =>
      OnlyRegs { s.cur.arch with pc := s.cur.arch.pc + 8, lpart := BitVec.ofNat 3 k } s t ∧ SameBytes s t)) ∧
    (∀ (lit : BitVec 32) k, 1 ≤ k → k ≤ 5 → lit.toNat = 2 ^ k → Completes (.lpartLit lit) s (fun t =>
      OnlyRegs { s.cur.arch with pc := s.cur.arch.pc + 12, lpart := BitVec.ofNat 3 k } s t ∧ SameBytes s t)) ∧
    (∀ a, (∀ k, 1 ≤ k → k ≤ 5 → getS s a ≠ BitVec.ofNat 64 (2 ^ k)) →
      exec (.lpart a) s = .next (raiseGroup .lanePartition (getS s a) s))

/-- R14, R239, R268: an instruction of these families without an active lane only advances. -/
def NoActiveLane : Prop :=
  ∀ s, s.cur.crew = none → active s = 0 →
    (∀ f ∈ scalarSigned ++ scalarShifts ++ scalarDivSigned ++ scalarDivUnsigned, ∀ d a,
      (∀ b, Completes (f.reg d a b) s (Advanced 4 s)) ∧ (∀ i, Completes (f.imm d a i) s (Advanced 4 s)) ∧
      (∀ k, Completes (f.lit d a k) s (Advanced 12 s))) ∧
    (∀ t sat rnd, ∀ f ∈ integerForms t sat ++ floatForms t rnd ++ taperedForms t, ∀ d a,
      (∀ b, (∀ r ∈ regsOf t d ++ regsOf t a ++ regsOf t b, r < s.cur.allot) → Completes (f.reg d a b) s (Advanced 8 s)) ∧
      (∀ k, (∀ r ∈ regsOf t d ++ regsOf t a, r < s.cur.allot) → Completes (f.lit d a k) s (Advanced 12 s)))

/-- s63 holds A + 4 after a call, and every other scalar register what it held (R271). -/
def Linked (lk : Bool) (s t : State) : Prop :=
  ∀ r : SReg, getS t r = if lk = true ∧ r = 63 then (s.cur.arch.pc + 4).setWidth 64 else getS s r

/-- What a branch to an address does (R271), by T, the set of active lanes: none, all lanes of `em` (of the group in crew
mode), or some of them; the last pushes a PATH, for which a full stack traps (R226). -/
def Branches (i : Instr) (x : VAddr) (lk : Bool) (s : State) : Prop :=
  let a := s.cur.arch
  (active s = 0 → Completes i s (Advanced 4 s)) ∧
  (active s ≠ 0 → active s = groupMask s → Completes i s (fun t =>
    OnlyRegs { a with pc := x, sregs := t.cur.arch.sregs } s t ∧ Linked lk s t ∧ SameBytes s t)) ∧
  (active s ≠ 0 → active s ≠ groupMask s → a.stack.length < 32 → Completes i s (fun t =>
    OnlyRegs { a with pc := a.pc + 4, em := a.em &&& ~~~(active s), stack := ⟨false, x, active s⟩ :: a.stack,
                      sregs := t.cur.arch.sregs } s t ∧ Linked lk s t ∧ SameBytes s t)) ∧
  (active s ≠ 0 → active s ≠ groupMask s → 32 ≤ a.stack.length → exec i s = .next (raiseOpen .reconvergence s))

/-- The target of a relative branch (R270): A + SignExt(off18, 64) * 4. -/
def branchTarget (s : State) (off : BitVec 18) : VAddr := (s.cur.arch.pc.setWidth 64 + off.signExtend 64 * 4).setWidth 57

/-- What trap entry leaves (R349), for a group in SIMT mode: the trap registers, the shadow, the pc at the handler, `em` the
live lanes, one lane set; s56 to s63 stay, and nothing else differs. -/
structure TrapTaken (t : TrapInfo) (s u : State) : Prop where
  only : u = { s with cur := { s.cur with
    tcause := u.cur.tcause, tlm := t.lm, taddr := t.addr, tepc := t.epc.setWidth 64,
    shadow := ⟨s.cur.arch.em, s.cur.arch.lpart, u.cur.shadow.sregs, s.cur.arch.stack.length⟩,
    arch := { s.cur.arch with pc := u.cur.arch.pc, em := s.cur.arch.live, lpart := 5 },
    crew := none, wait := none, since := 0, pend := none, came := none } }
  cause : u.cur.tcause.toNat % 256 = (causeCode t.cause).toNat
  sub : u.cur.tcause.toNat / 2 ^ 16 % 2 ^ 16 = t.sub.toNat
  inCrewBit : u.cur.tcause.getLsbD 32 = false
  maskBit : u.cur.tcause.getLsbD 33 = true
  handler : u.cur.arch.pc.toNat = s.cur.tvec.toNat % 2 ^ 57 / 4 * 4
  shadowed : ∀ k, k < 8 → u.cur.shadow.sregs.getD k 0 = getS s (BitVec.ofNat 6 (56 + k))
  bytes : SameBytes s u

/-- A trap can be taken at once and its handler runs: SIMT mode, no incomplete fence (R134), traps not masked, a handler
address (R352). -/
def TrapReady (s : State) : Prop :=
  s.cur.crew = none ∧ s.cur.fence = none ∧ s.cur.tcause.getLsbD 33 = false ∧ s.cur.tvec.toNat % 2 ^ 57 / 4 ≠ 0

/-- R270, R271: bra and call, and jmp and calli to an aligned address. -/
def BranchInstructions : Prop :=
  ∀ s, (∀ off, Branches (.bra off) (branchTarget s off) false s ∧ Branches (.call off) (branchTarget s off) true s) ∧
    (∀ a, (getS s a).toNat % 4 = 0 →
      Branches (.jmp a) ((getS s a).setWidth 57) false s ∧ Branches (.calli a) ((getS s a).setWidth 57) true s)

/-- R22, R271: jmp and calli to an address that is not a multiple of 4 raise "illegal instruction", sub-cause 1, whatever
the guard; the taddr of that trap is free (log 21). -/
def MisalignedJumpTraps : Prop :=
  ∀ s a, TrapReady s → (getS s a).toNat % 4 ≠ 0 → ∀ i, i = Instr.jmp a ∨ i = Instr.calli a →
    Completes i s (TrapTaken ⟨.illegal, 1, s.cur.arch.em, Config.freeWord s.free, s.cur.arch.pc⟩ { s with free := s.free + 1 })

/-- R226, R273, R274: join, emrd, emwr, emand and emandn. Every write to `em` is ANDed with the live lanes (R225). -/
def MaskOperations : Prop :=
  ∀ s, s.cur.crew = none →
    let a := s.cur.arch
    (∀ off, a.stack.length < 32 → Completes (.join off) s (fun t =>
      OnlyRegs { a with pc := a.pc + 4, stack := ⟨true, branchTarget s off, a.em⟩ :: a.stack } s t ∧ SameBytes s t)) ∧
    (∀ off, 32 ≤ a.stack.length → exec (.join off) s = .next (raiseOpen .reconvergence s)) ∧
    (∀ d, Completes (.emrd d) s (ScalarWritten 4 d (a.em.setWidth 64) 0 s)) ∧
    (∀ r, Completes (.emwr r) s (fun t => OnlyRegs { a with pc := a.pc + 4, em := (getS s r).setWidth 32 &&& a.live } s t ∧ SameBytes s t)) ∧
    (∀ p, Completes (.emand p) s (fun t => SameBytes s t ∧ OnlyRegs { a with pc := a.pc + 4, em := t.cur.arch.em } s t ∧
      ∀ l, l < 32 → t.cur.arch.em.getLsbD l = (a.em.getLsbD l && (!(laneOn s l) || (getP s p).getLsbD l)))) ∧
    (∀ p, Completes (.emandn p) s (fun t => SameBytes s t ∧ OnlyRegs { a with pc := a.pc + 4, em := t.cur.arch.em } s t ∧
      ∀ l, l < 32 → t.cur.arch.em.getLsbD l = (a.em.getLsbD l && (!(laneOn s l) || !((getP s p).getLsbD l)))))

/-- R226, R276: nop only advances; halt takes the active lanes out of the live ones and continues at the highest PATH, or
with none of the group's lanes, `em` as it was (R225). -/
def NopAndHalt : Prop :=
  ∀ s, Completes .nop s (Advanced 4 s) ∧
    (s.cur.crew = none →
      let a := s.cur.arch
      let live := a.live &&& ~~~(active s)
      (∀ pre e rest, a.stack = pre ++ e :: rest → (∀ x ∈ pre, x.isJoin = true) → e.isJoin = false →
        Completes .halt s (fun t => SameBytes s t ∧
          t = { s with cur := { s.cur with arch := { a with live := live, em := e.mask &&& live, pc := e.addr, stack := rest }, came := none } })) ∧
      ((∀ x ∈ a.stack, x.isJoin = true) →
        Completes .halt s (fun t => SameBytes s t ∧
          t = { s with cur := { s.cur with arch := { a with live := 0, stack := [] }, came := none } })))

/-- R226: arrival at a JOIN. Where the highest JOIN names the pc: if it is on top, it is popped and `em` becomes its mask; if a
PATH is on top, the PATH is popped and the group continues there. Where it does not, nothing happens. -/
def ArrivalAtJoin : Prop :=
  ∀ (a : Arch) (e : StackEntry) (rest : List StackEntry), a.stack = e :: rest →
    (e.isJoin = true → e.addr = a.pc → arriveJoin a.stack a = { a with em := e.mask &&& a.live, stack := rest }) ∧
    (e.isJoin = false → (∃ j, (rest.find? (fun x => x.isJoin)) = some j ∧ j.addr = a.pc) →
      arriveJoin a.stack a = arriveJoin rest { a with em := e.mask &&& a.live, pc := e.addr, stack := rest }) ∧
    ((∀ j, a.stack.find? (fun x => x.isJoin) = some j → j.addr ≠ a.pc) → arriveJoin a.stack a = a)

/-- R347, R349: trap entry where the handler runs. -/
def TrapEntry : Prop :=
  ∀ s t, TrapReady s → TrapTaken t s (raise t s)

/-- R280, R351: tret while traps are masked restores `em` (within the live lanes), LOG, s56 to s63 and the depth of the
reconvergence stack from the shadow, clears MASK and continues at tepc; a crew runs again; a pre-emption request that was held stops the
group there. With traps not masked it raises "trap state". -/
def TrapReturn : Prop :=
  ∀ s, s.cur.fence = none → active s ≠ 0 →
    (s.cur.tcause.getLsbD 33 = true → s.cur.request ≠ .held → Completes .tret s (fun t => SameBytes s t ∧
      t.cur.arch = { s.cur.arch with pc := s.cur.tepc.setWidth 57, em := s.cur.shadow.em &&& s.cur.arch.live, lpart := s.cur.shadow.lpart,
                                     sregs := t.cur.arch.sregs, stack := t.cur.arch.stack } ∧
      t = { s with cur := { s.cur with tcause := t.cur.tcause, wait := none, since := 0, came := none, arch := t.cur.arch,
                                       crew := s.cur.crew.map (fun c => { c with stopped := false }) } } ∧
      (∀ k, k < 64 → t.cur.tcause.getLsbD k = (s.cur.tcause.getLsbD k && k != 33)) ∧
      (∀ r : SReg, getS t r = if 56 ≤ r.toNat ∧ r.toNat - 56 < s.cur.shadow.sregs.length then s.cur.shadow.sregs.getD (r.toNat - 56) 0 else getS s r) ∧
      t.cur.arch.stack.length = min s.cur.shadow.depth s.cur.arch.stack.length ∧ ∃ above, s.cur.arch.stack = above ++ t.cur.arch.stack)) ∧
    (s.cur.tcause.getLsbD 33 = true → s.cur.request = .held → s.cur.crew = none → ∀ u, exec .tret { s with cur := { s.cur with request := .none } } = .next u →
      Completes .tret s (fun t => t = { u with cur := { u.cur with request := .stopped, yielding := [], starved := false, late := false } })) ∧
    (s.cur.tcause.getLsbD 33 = false → exec .tret s = .next (raiseOpen .trapState s))

/-- R279: trap and bkpt take their trap: the software trap saves the address after it, the breakpoint its own. -/
def TrapAndBreakpoint : Prop :=
  ∀ s n, TrapReady s → active s ≠ 0 →
    Completes (.trap n) s (TrapTaken ⟨.softwareTrap, n, s.cur.arch.em, 0, s.cur.arch.pc + 16⟩ s) ∧
    Completes (.bkpt n) s (TrapTaken ⟨.breakpoint, n, s.cur.arch.em, 0, s.cur.arch.pc⟩ s)

/-- R352: a trap with traps masked, or without a handler address, ends the context with the code 0x82 or 0x81. -/
def UnhandledTrapEndsContext : Prop :=
  ∀ s t, s.cur.crew = none → s.cur.fence = none →
    (s.cur.tcause.getLsbD 33 = true → raise t s = endContext 0x82 (causeCode t.cause) t.sub s.cur.asid s.cur.part s) ∧
    (s.cur.tcause.getLsbD 33 = false → s.cur.tvec.toNat % 2 ^ 57 / 4 = 0 →
      raise t s = endContext 0x81 (causeCode t.cause) t.sub s.cur.asid s.cur.part s) ∧
    (∀ g ∈ (endContext 0x82 (causeCode t.cause) t.sub s.cur.asid s.cur.part s).groups, g.asid ≠ s.cur.asid ∨ g.part ≠ s.cur.part) ∧
    (endContext 0x82 (causeCode t.cause) t.sub s.cur.asid s.cur.part s).cur.placed = false

/-- R237: where an active lane raises an enabled flag, an integer, floating-point or tapered instruction of two registers
takes the arithmetic trap: the flags accrue, no destination is written, tlm names the trapping lanes. -/
def ArithmeticTrap : Prop :=
  ∀ t sat rnd, ∀ f ∈ integerForms t sat ++ floatForms t rnd ++ taperedForms t, ∀ (d a b : VReg) s,
    VectorReady (regsOf t d ++ regsOf t a ++ regsOf t b) s → TrapReady s →
    let fl := fun l => (f.op (laneVal s t a l) (laneVal s t b l)).2
    ¬ NoFlagTrap fl s → Completes (f.reg d a b) s (fun u => FlagsAccrue fl s u ∧ ∃ sub lm addr,
      TrapTaken ⟨.arithmetic, sub, lm, addr, s.cur.arch.pc⟩ { s with cur := { s.cur with arch := { s.cur.arch with ffl := u.cur.arch.ffl } } } u ∧
      (∀ l, l < 32 → lm.getLsbD l = (laneOn s l && (List.range 7).any (fun k => (fl l).getLsbD k && (tget 0 s.cur.ften k).getLsbD l))) ∧
      (∃ l, lm.getLsbD l = true ∧ (∀ k, k < l → lm.getLsbD k = false) ∧ addr = (fl l).setWidth 64) ∧
      (∀ k, k < 7 → (sub.getLsbD k = true ↔
        ∃ l, l < 32 ∧ laneOn s l = true ∧ (fl l).getLsbD k = true ∧ (tget 0 s.cur.ften k).getLsbD l = true)))

/-- R231: a vector instruction that names a register outside the allotment raises "register range" whatever its guard, with
the lowest such register in taddr. -/
def RegisterRangeTrap : Prop :=
  ∀ t sat rnd, ∀ f ∈ integerForms t sat ++ floatForms t rnd ++ taperedForms t, ∀ (d a b : VReg) s,
    TrapReady s →
    ∀ r ∈ regsOf t d ++ regsOf t a ++ regsOf t b, s.cur.allot ≤ r →
    (∀ q ∈ regsOf t d ++ regsOf t a ++ regsOf t b, s.cur.allot ≤ q → r ≤ q) →
    Completes (f.reg d a b) s (TrapTaken ⟨.registerRange, 0, s.cur.arch.em, BitVec.ofNat 64 r, s.cur.arch.pc⟩ s)

/-- A system instruction acts: a lane is active and no fence is incomplete (R268, R269). -/
def SystemReady (s : State) : Prop := active s ≠ 0 ∧ s.cur.fence = none

/-- The instruction moved past its 16 bytes and changed the fields of the group that an update changes, and nothing else. -/
def GroupChanged (f : Group → Group) (s t : State) : Prop :=
  t = { s with cur := { f s.cur with arch := { (f s.cur).arch with pc := s.cur.arch.pc + 16 }, wait := none, since := 0, came := none } } ∧ SameBytes s t

/-- A write of bytes at a key of a memory: they stand there, and every other byte is as before. -/
def BytesPut (key : Nat) (bs : List Byte) (m m' : List (Nat × Byte)) : Prop :=
  ∀ a, tget 0 m' a = if key ≤ a ∧ a < key + bs.length then bs.getD (a - key) 0 else tget 0 m a

/-- No error of the memories is waiting to be found (R419), and none that was found to be dealt with (R361). -/
def NoErrors (s : State) : Prop := s.latent = [] ∧ s.found = []

/-- What `sr.rd` gives for a special register whose read changes nothing (R282): the lane and trap registers, `ffl` and
`ften`, the context, the position, the table control, the bank state, the FIFO configuration and status. -/
def specialValue (s : State) (n : Nat) : Word :=
  let g := s.cur
  match n with
  | 0x001 => g.arch.lpart.setWidth 64
  | 0x002 => g.rbk.setWidth 64
  | 0x003 => g.pidx.setWidth 64
  | 0x008 => g.tvec
  | 0x009 => g.tcause
  | 0x00A => g.tlm.setWidth 64
  | 0x00B => g.taddr
  | 0x00C => g.tepc
  | 0x020 => BitVec.ofNat 64 ((tget 0 s.gens g.asid.toNat).toNat * 2 ^ 32 + g.asid.toNat * 2 ^ 16 + g.priv.toNat * 2 ^ 11 +
      g.part.toNat * 2 ^ 8 + g.cls.toNat * 2 ^ 4 + g.role)
  | 0x022 => BitVec.ofNat 64 (g.core / 96 * 2 ^ 14 + g.core % 96 / 12 * 2 ^ 11 + g.core % 12 * 2 ^ 7 + g.pipe * 2 ^ 4 + g.slot)
  | 0x023 => BitVec.ofNat 64 (min (drainCount s) 65535 * 2 ^ 4 + s.commitPend.toNat * 2 ^ 3 + s.ver.toNat)
  | n =>
    if n < 0x018 then (tget 0 g.arch.ffl (n - 0x010)).setWidth 64
    else if n < 0x020 then (tget 0 g.ften (n - 0x018)).setWidth 64
    else if n < 0x200 then bankState s g.core (n - 0x100)
    else if n < 0x300 then fifoConfig s g.core (n - 0x200)
    else fifoStatus s g.core (n - 0x300)

/-- The key of the issuing group's context in the list of stepped ones. -/
def ownContext (s : State) : Nat := s.cur.asid.toNat + 65536 * s.cur.part.toNat

/-- What a read of the clock status register does (R282): LOCK and STEP are read, and STEP of the context is cleared. -/
def ClockStatusRead (d : SReg) (s t : State) : Prop :=
  ScalarWritten 16 d (BitVec.ofNat 64 (2 * (s.stepped.contains (ownContext s)).toNat + s.clockLock.toNat)) 0
    { s with stepped := s.stepped.filter (fun k => k ≠ ownContext s) } t

/-- A bank as a legal configuration leaves it (R88): its configuration is the value, but for the reserved bits [10:4], which
are ignored (R281). -/
def configured (v : BitVec 32) (k : Bank) : Bank := { k with fifo := { k.fifo with cfg := v &&& 0xFFFFF80F, moved := none, owed := 0 } }

/-- The Cox has nothing still to do: no write, status word or SIGNAL that waits. -/
def CoxAtRest (s : State) : Prop := s.heldWrites = [] ∧ s.dueStatus = [] ∧ dueSignals s = []

/-- A FIFO configuration is accepted (R88): the bank is a FIFO of the team, empty and unlinked, and every field holds a value
of the table, LEN = 0 too; the peer that LEN = 1 links lies in the team's partition. -/
def FifoConfigLegal (b : Nat) (v : BitVec 32) (s : State) : Prop :=
  let k := Machine.bankOf s s.cur.core b
  let n := v.toNat
  k.mode = .fifo ∧ k.owner = s.cur.slot ∧ k.fifo.items = [] ∧ k.fifo.inItems = [] ∧ k.fifo.lnk = false ∧
  n / 2 ^ 30 ≠ 3 ∧ n / 2 ^ 26 % 16 ≤ 13 ∧ n / 2 ^ 20 % 16 ≤ 11 ∧ n / 2 ^ 11 % 64 ≤ 47 ∧ 4 ≤ n % 16 ∧ n % 16 ≤ 13 ∧
  (v.getLsbD 24 = true → tget 0 s.coreOwner (s.cur.core / 96 * 96 + n / 2 ^ 17 % 8 * 12 + n / 2 ^ 20 % 16) = tget 0 s.coreOwner s.cur.core)

/-- A bank and the peer that it names form a link (R90): both are FIFOs that no switch changes, each names the other with LEN = 1,
one is a producer end and the other a consumer end, and neither is linked or has a broken link. -/
def LinkForms (core b : Nat) (s : State) : Prop :=
  let k := Machine.bankOf s core b
  let p := peerOf core k.fifo
  let j := Machine.bankOf s p.1 p.2
  k.mode = .fifo ∧ j.mode = .fifo ∧ k.next = none ∧ j.next = none ∧ k.fifo.cfg.getLsbD 24 = true ∧ j.fifo.cfg.getLsbD 24 = true ∧
  peerOf p.1 j.fifo = (core, b) ∧ k.fifo.cfg.getLsbD 25 ≠ j.fifo.cfg.getLsbD 25 ∧ k.fifo.lnk = false ∧ j.fifo.lnk = false ∧
  k.fifo.brk = false ∧ j.fifo.brk = false

/-- What a write of a FIFO configuration does. Where no link forms, the bank is configured. Where one does, it is active: the
producer's credits are the consumer's capacity, and each of its items that has one is forwarded (R90). No other bank changes. -/
def FifoConfigured (b : Nat) (v : BitVec 32) (s t : State) : Prop :=
  let core := s.cur.core
  let u := setBank core b (configured v) s
  (¬ LinkForms core b u → Machine.bankOf t core b = configured v (Machine.bankOf s core b) ∧
    ∀ c n, n < 48 → (c, n) ≠ (core, b) → Machine.bankOf t c n = Machine.bankOf s c n) ∧
  (LinkForms core b u →
    let p := peerOf core (Machine.bankOf u core b).fifo
    ∀ x y, (v.getLsbD 25 = true → x = p ∧ y = (core, b)) → (v.getLsbD 25 = false → x = (core, b) ∧ y = p) →
      let cap := 2 ^ ((Machine.bankOf u y.1 y.2).fifo.cfg.toNat % 16)
      let f := (Machine.bankOf u x.1 x.2).fifo
      let n := min cap f.items.length
      (Machine.bankOf t x.1 x.2).fifo = { f with lnk := true, cred := cap - n, items := f.items.drop n } ∧
      (Machine.bankOf t y.1 y.2).fifo = { (Machine.bankOf u y.1 y.2).fifo with
        lnk := true, owed := 0, inItems := (Machine.bankOf u y.1 y.2).fifo.inItems ++ f.items.take n } ∧
      ∀ c n, n < 48 → (c, n) ≠ x → (c, n) ≠ y → Machine.bankOf t c n = Machine.bankOf s c n) ∧
  t = { s with banks := t.banks, cur := { s.cur with arch := { s.cur.arch with pc := s.cur.arch.pc + 16 }, wait := none, since := 0, came := none } } ∧
  SameBytes s t

/-- A credit return is legal (R90): a linked consumer end of the team with program-returned credits, and a count that does
not pass its capacity. -/
def CreditReturnLegal (v : Word) (s : State) : Prop :=
  let core := s.cur.core
  let b := v.toNat / 2 ^ 16 % 64
  let n := v.toNat % 2 ^ 14
  let k := Machine.bankOf s core b
  let p := peerOf core k.fifo
  let f := (Machine.bankOf s p.1 p.2).fifo
  b < 48 ∧ k.mode = .fifo ∧ k.owner = s.cur.slot ∧ isConsumer k.fifo = true ∧ creditMode k.fifo = 2 ∧ k.fifo.lnk = true ∧
  1 ≤ n ∧ n ≤ 8192 ∧ f.cred + f.inCred.foldl (fun a b => a + b) 0 + n ≤ fifoCap k.fifo

/-- What a credit return does: the count goes to the producer end as a message (R90). -/
def CreditReturned (v : Word) (s t : State) : Prop :=
  let p := peerOf s.cur.core (Machine.bankOf s s.cur.core (v.toNat / 2 ^ 16 % 64)).fifo
  ((Machine.bankOf s p.1 p.2).mode = .fifo → (Machine.bankOf s p.1 p.2).fifo.lnk = true → p ≠ (s.cur.core, v.toNat / 2 ^ 16 % 64) → p.2 < 48 →
    (Machine.bankOf t p.1 p.2).fifo.inCred = (Machine.bankOf s p.1 p.2).fifo.inCred ++ [v.toNat % 2 ^ 14]) ∧
  t = { s with banks := t.banks, cur := { s.cur with arch := { s.cur.arch with pc := s.cur.arch.pc + 16 }, wait := none, since := 0, came := none } } ∧
  SameBytes s t

/-- The packet of an enqueue instruction may go to its target (R286): a queue of the group's partition that accepts device
enqueue, with a packet kind that the group may send. -/
def EnqueueLegal (h : Word) (s : State) : Prop :=
  let k := queueAt s (h.toNat / 256 % 32)
  h.toNat / 16 % 4 = 0 ∧ k.part = s.cur.part.toNat ∧ k.devenq = true ∧ k.en = true ∧ (h.toNat % 16 = 7 → s.cur.priv = true)

/-- What the end of a bump to a generation leaves of the translation caches (R68, R69): every entry of the ASID goes where the
generation is 0, and all stay otherwise. -/
def Lapped (asid gen : BitVec 16) (s : State) : State :=
  if gen = 0 then
    { s with tlb1 := s.tlb1.filter (fun e => e.2.asid != asid), tlb2 := s.tlb2.filter (fun e => e.2.asid != asid),
             asidCache := s.asidCache.filter (fun e => e.2.asid != asid) }
  else s

/-- The current generation of one ASID has advanced, and that of no other. -/
def GenAdvanced (asid : BitVec 16) (s t : State) : Prop :=
  tget 0 t.gens asid.toNat = tget 0 s.gens asid.toNat + 1 ∧ ∀ x, x ≠ asid.toNat → tget 0 t.gens x = tget 0 s.gens x

/-- R281, R282: sr.rd of every special register that can be read writes its value; the clock status read clears STEP; the
table-control register is read by a privileged group only. -/
def SpecialRegisterReads : Prop :=
  ∀ s d (n : BitVec 12), SystemReady s → srReadable n = true →
    (n ≠ 0x024 → (n = 0x023 → s.cur.priv = true) → Completes (.srRd d n) s (ScalarWritten 16 d (specialValue s n.toNat) 0 s)) ∧
    (n = 0x024 → Completes (.srRd d n) s (ClockStatusRead d s)) ∧ Completes (.clockStatusRead d) s (ClockStatusRead d s) ∧
    (n = 0x023 → s.cur.priv = false → exec (.srRd d n) s = .next (raiseOpen .privilege s))

/-- R281, R282, R347, R350: sr.wr of tvec, tepc (while traps are masked), ffl and ften writes the register and nothing else;
tepc with traps not masked raises "special register". -/
def SpecialRegisterWrites : Prop :=
  ∀ s a, SystemReady s →
    Completes (.srWr 0x008 a) s (GroupChanged (fun g => { g with tvec := getS s a &&& 0x01FFFFFFFFFFFFFC }) s) ∧
    (s.cur.tcause.getLsbD 33 = true →
      Completes (.srWr 0x00C a) s (GroupChanged (fun g => { g with tepc := getS s a &&& 0x01FFFFFFFFFFFFFF }) s)) ∧
    (s.cur.tcause.getLsbD 33 = false → exec (.srWr 0x00C a) s = .next (raiseOpen .specialRegister s)) ∧
    (∀ f, f < 7 → Completes (.srWr (BitVec.ofNat 12 (0x010 + f)) a) s (fun t =>
      (∀ k, tget 0 t.cur.arch.ffl k = if k = f then (getS s a).setWidth 32 else tget 0 s.cur.arch.ffl k) ∧
      GroupChanged (fun g => { g with arch := { g.arch with ffl := t.cur.arch.ffl } }) s t)) ∧
    (∀ f, f < 7 → Completes (.srWr (BitVec.ofNat 12 (0x018 + f)) a) s (fun t =>
      (∀ k, tget 0 t.cur.ften k = if k = f then (getS s a).setWidth 32 else tget 0 s.cur.ften k) ∧
      GroupChanged (fun g => { g with ften := t.cur.ften }) s t))

/-- R88, R90: a write of a FIFO configuration register, and of the credit-return register, as sr.wr and as the row of its own;
with LEN = 1 the link becomes active once each end names the other. A configuration that is not legal, and a return that is not,
raise "FIFO configuration". The model's choices: the peer's partition is checked where LEN = 1 alone (log 41), and a bank counts as unlinked until its link is
active (log 74). -/
def FifoRegisterWrites : Prop :=
  ∀ s a, SystemReady s →
    (∀ b : BitVec 6, b.toNat < 48 → FifoConfigLegal b.toNat ((getS s a).setWidth 32) s →
      Completes (.fifoConfigWrite b a) s (FifoConfigured b.toNat ((getS s a).setWidth 32) s) ∧
      Completes (.srWr (BitVec.ofNat 12 (0x200 + b.toNat)) a) s (FifoConfigured b.toNat ((getS s a).setWidth 32) s)) ∧
    (∀ b : BitVec 6, b.toNat < 48 → ¬ FifoConfigLegal b.toNat ((getS s a).setWidth 32) s →
      exec (.fifoConfigWrite b a) s = .next (raiseOpen .fifoConfig s) ∧
      exec (.srWr (BitVec.ofNat 12 (0x200 + b.toNat)) a) s = .next (raiseOpen .fifoConfig s)) ∧
    (CreditReturnLegal (getS s a) s → Completes (.creditReturnWrite a) s (CreditReturned (getS s a) s) ∧
      Completes (.srWr 0x030 a) s (CreditReturned (getS s a) s)) ∧
    (¬ CreditReturnLegal (getS s a) s → exec (.creditReturnWrite a) s = .next (raiseOpen .fifoConfig s) ∧
      exec (.srWr 0x030 a) s = .next (raiseOpen .fifoConfig s))

/-- R229, R277: role n enters a declared role with an empty reconvergence stack: its allotment, class and entry; a vector
register that becomes reachable reads zero, and every other keeps its value. Otherwise "role state" is raised. -/
def RoleChange : Prop :=
  ∀ s, s.cur.crew = none → SystemReady s →
    ∀ p ∈ ([(0, .role0), (1, .role1), (2, .role2), (3, .role3)] : List (Nat × Instr)),
      (∀ r, s.cur.roles[p.1]? = some r → r.allot ≠ 0 → s.cur.arch.stack = [] → r.allot ≤ 16 → Completes p.2 s (fun t =>
        (∀ n l, l < 32 → n < 16 * r.allot → getV t n l = if s.cur.allot ≤ n then 0 else getV s n l) ∧
        t = { s with cur := { s.cur with role := p.1, allot := 16 * r.allot, cls := r.cls, wait := none, since := 0, came := none,
                                         arch := { s.cur.arch with pc := s.cur.entry + r.off.setWidth 57, vregs := t.cur.arch.vregs } } } ∧
        SameBytes s t)) ∧
      ((s.cur.roles[p.1]? = none ∨ (∃ r, s.cur.roles[p.1]? = some r ∧ r.allot = 0) ∨ s.cur.arch.stack ≠ []) →
        exec p.2 s = .next (raiseOpen .roleState s))

/-- R278: yield moves on and gives up the pipe to the groups of it that are ready. -/
def Yield : Prop :=
  ∀ s, SystemReady s → s.cur.request ≠ .held →
    Completes .yield s (fun t => GroupChanged (fun g => { g with yielding := t.cur.yielding }) s t ∧
      ∀ n, n ∈ t.cur.yielding ↔ ∃ h ∈ s.groups, h.placed = true ∧ h.gid = n ∧ n ≠ s.cur.gid ∧ samePipe s.cur h = true ∧
        ready { s with cur := { s.cur with arch := { s.cur.arch with pc := s.cur.arch.pc + 16 }, wait := none, since := 0, came := none } } h = true)

/-- R68, R69, R283: gen.bump by a privileged group, or of the own ASID, advances the current generation at once and waits; once
the cores have written back what they hold dirty and every access of the ASID that issued before it is performed it moves on, with a
lap flush for generation 0. The same for a bump that the Cox makes for the driver. Of another ASID by an unprivileged group gen.bump raises "privilege". -/
def GenerationBump : Prop :=
  ∀ s a, s.cur.crew = none → SystemReady s →
    let asid : BitVec 16 := (getS s a).setWidth 16
    (s.cur.wait = none → (s.cur.priv = true ∨ asid = s.cur.asid) → Completes (.genBump a) s (fun t => GenAdvanced asid s t ∧
      t.cur.wait = some (.bump asid (tget 0 s.gens asid.toNat + 1)) ∧ t.cur.arch.pc = s.cur.arch.pc)) ∧
    (∀ x gen, s.cur.wait = some (.bump x gen) → s.redUnit = [] → bumpDone x s.cur.since (cleanAll s) = true →
      Completes (.genBump a) s (Advanced 16 (Lapped x gen (cleanAll s))) ∧
      (s.cur.placed = true → Completes (.genBumpComplete s.cur.gid) s (Advanced 16 (Lapped x gen (cleanAll s))))) ∧
    ((∀ c ∈ s.copies, c.dirty = 0 ∨ c.client = hostClient) → cleanAll s = s) ∧
    (s.cur.wait = none → s.cur.priv = false → asid ≠ s.cur.asid → exec (.genBump a) s = .next (raiseGroup .privilege (getS s a) s)) ∧
    (∀ x, Completes (.coxGenBump x) s (fun t => GenAdvanced x s t ∧
      ∃ since, t.coxBumps = s.coxBumps ++ [(x, tget 0 s.gens x.toNat + 1, since)])) ∧
    (∀ x gen since rest, s.coxBumps = (x, gen, since) :: rest → s.redUnit = [] → bumpDone x since (cleanAll s) = true →
      Completes (.coxGenBumpComplete x) s (fun t => t = { Lapped x gen (cleanAll s) with coxBumps := rest } ∧ SameBytes (cleanAll s) t))

/-- R113, R284, R406: fence.table and GO make the shadow region table active under the next version and a commit pending; the
commit completes once nothing issued under another version is in flight, and then the fence moves on, and a GO that was written
meanwhile makes the next commit. -/
def TableCommit : Prop :=
  ∀ s,
    (s.cur.crew = none → SystemReady s → s.cur.priv = true → s.commitPend = false → s.cur.wait = none → Completes .fenceTable s (fun t =>
      t.regions = s.shadowRegions ∧ t.ver = s.ver + 1 ∧ t.commitPend = true ∧ t.cur.wait = some .commit ∧
      t.cur.arch = s.cur.arch ∧ SameBytes s t)) ∧
    (s.cur.crew = none → SystemReady s → s.cur.priv = false → exec .fenceTable s = .next (raiseOpen .privilege s)) ∧
    (s.commitGo = 0 → s.commitPend = false → Completes .tableCommitGo s (fun t =>
      t = { s with regions := s.shadowRegions, ver := s.ver + 1, commitPend := true, commitGo := 2 } ∧ SameBytes s t)) ∧
    (s.commitGo = 0 → s.commitPend = true → Completes .tableCommitGo s (fun t => t = { s with commitGo := 1 })) ∧
    (s.commitGo ≠ 0 → Completes .tableCommitGo s (fun t => t = { s with goMore := s.goMore + 1 })) ∧
    (s.commitPend = true → drainCount s = 0 → s.redUnit = [] → CoxAtRest s → s.commitGo = 0 → s.groups = [] → s.cur.placed = true → s.cur.wait = some .commit →
      Completes .tableCommitComplete s (fun t => Advanced 16 { s with commitPend := false } t)) ∧
    (s.commitPend = true → drainCount s = 0 → s.redUnit = [] → CoxAtRest s → s.commitGo = 2 → (∀ g ∈ allGroups s, g.wait ≠ some .commit) →
      (s.goMore = 0 → Completes .tableCommitComplete s (fun t => t = { s with commitPend := false, commitGo := 0 } ∧ SameBytes s t)) ∧
      (∀ n, s.goMore = n + 1 → Completes .tableCommitComplete s (fun t =>
        t = { s with regions := s.shadowRegions, ver := s.ver + 1, commitGo := 2, goMore := n } ∧ SameBytes s t))) ∧
    (drainCount s ≠ 0 → s.redUnit = [] → Completes .tableCommitComplete s (fun t => t = s))

/-- R285: ptp.rd writes the device clock, which never goes back. -/
def ClockRead : Prop :=
  ∀ s d, SystemReady s → s.clock < 2 ^ 64 → Completes (.ptpRd d) s (fun t => s.clock ≤ t.clock ∧ t.clock < 2 ^ 64 ∧
    ScalarWritten 16 d (BitVec.ofNat 64 t.clock) 0 { s with clock := t.clock, free := s.free + 1 } t)

/-- R286, R287: once the dirty words of its core are written back, enq with a legal target and room puts the packet of eight
scalar registers into its die's buffer and writes 0 to the predicate in all lanes; without room it writes 1. The buffer's oldest
packet is then written to the target ring's next unit, little-endian, and SUBMIT advances: in host memory, or in device memory at
the homes of the unit's bytes where nothing holds the write up. That the release of enq writes dirty words back at once is the model's reading (log 76). -/
def Enqueue : Prop :=
  (∀ s (p : PReg) (b : SReg), s.cur.crew = none → SystemReady s → s.cur.posted = [] → EnqueueLegal (getS s b) s →
    let q := (getS s b).toNat / 256 % 32
    let die := s.cur.core / 96
    let room := (s.enqBuf.filter (fun e => e.die = die)).length < 32 ∧
      (queueAt s q).submit - (queueAt s q).cpl + (s.enqBuf.filter (fun e => e.queue = q)).length < 2 ^ (queueAt s q).size
    (room → Completes (.enq p b) s (PredicateWritten 16 p (fun _ => true) (fun _ => false) (fun _ => 0)
      { cleanCore s.cur.core s with enqBuf := s.enqBuf ++ [⟨die, q, (List.range 8).map (fun i => getS s (b + BitVec.ofNat 6 i))⟩] })) ∧
    (¬ room → Completes (.enq p b) s (PredicateWritten 16 p (fun _ => true) (fun _ => true) (fun _ => 0) (cleanCore s.cur.core s)))) ∧
  (∀ s die e rest, s.enqBuf = e :: rest → e.die = die → e.queue < s.queues.length → Completes (.enqueueBufferWrite die) s (fun t =>
    let k := queueAt s e.queue
    let unit := k.base + 64 * (k.submit % 2 ^ k.size)
    let bs := e.words.flatMap (fun w => leBytes 8 w.toNat)
    t.enqBuf = rest ∧ (queueAt t e.queue).submit = k.submit + 1 ∧
    (k.host = true → s.heldWrites = [] → BytesPut unit bs s.hostMem t.hostMem ∧ t.mem = s.mem) ∧
    (k.host = false → s.heldWrites = [] → s.commitPend = false → s.hostAcks = [] → NoErrors s →
      (∀ i, i < bs.length → ∃ cell, homeCell s.regions (unit + i) = some cell ∧ ∀ c ∈ s.copies, c.line ≠ cell / 128) →
      (∀ i j, i < j → j < bs.length → homeCell s.regions (unit + i) ≠ homeCell s.regions (unit + j)) →
      (∀ i cell, i < bs.length → homeCell s.regions (unit + i) = some cell → tget 0 t.mem cell = bs.getD i 0) ∧
        (∀ cell, (∀ i, i < bs.length → homeCell s.regions (unit + i) ≠ some cell) → tget 0 t.mem cell = tget 0 s.mem cell) ∧
        t.hostMem = s.hostMem))) ∧
  (∀ s die, (∀ e ∈ s.enqBuf, e.die ≠ die) → Completes (.enqueueBufferWrite die) s (fun t => t = s))

/-- No line stands in a bank that leaves cache mode (R80). -/
def NoneLeaving (s : State) : Prop := ∀ c ∈ s.copies, leavingWay c.client c.way s = false

/-- Nothing of the group or the homes delays an access: no incomplete fence, no posted operation, no pending table commit,
no line that waits for the host port, none in a bank that leaves cache mode. -/
def Quiet (s : State) : Prop :=
  s.cur.fence = none ∧ s.cur.posted = [] ∧ s.commitPend = false ∧ s.hostAcks = [] ∧ NoneLeaving s

/-- The active lanes of a memory operand of n bytes translate without a fault (R71), to the lanes xs in the state s1 (its TLBs
filled, the walks' own records made), and local ones lie in an extent of the team that they reach (R83). -/
def Access (k : AccKind) (n : Nat) (b : MBase) (off : BitVec 32) (s s1 : State) (xs : List LaneAcc) : Prop :=
  translateLanes (whoOf s.cur) k n (laneAddrs b off s) s = (s1, xs) ∧ Quiet s ∧ Quiet s1 ∧
  ∀ x ∈ xs, laneFault x = none ∧ x.x1 ≠ .wait ∧ (localBase ≤ x.addr.toNat → allocOk (whoOf s1.cur) x.addr n s1 = true)

/-- No lane leads to a FIFO bank. -/
def NoFifo (xs : List LaneAcc) : Prop := ∀ x ∈ xs, laneBank x = none

/-- Every lane leads to a scratchpad. -/
def InScratch (xs : List LaneAcc) : Prop := ∀ x ∈ xs, ∃ c o, laneLoc x = .smem c o

/-- The group's registers after a load: its vector registers hold the loaded values in the active lanes, every other register
what it held; the pc moved past n bytes; nothing else of the machine differs from s1. -/
def LoadedFrom (n : Nat) (ds : List Nat) (val : Nat → Nat → LaneWord) (s1 t : State) : Prop :=
  OnlyRegs { s1.cur.arch with pc := s1.cur.arch.pc + BitVec.ofNat 57 n, vregs := t.cur.arch.vregs } s1 t ∧
  (∀ i l, i < ds.length → l < 32 → laneOn s1 l = true → getV t (ds.getD i 0) l = val i l) ∧
  (∀ r l, l < 32 → r ∉ ds ∨ laneOn s1 l = false → getV t r l = getV s1 r l)

/-- A state whose group has these registers, its pc moved past n bytes and its wait over. -/
def movedPast (n : Nat) (a : Arch) (s : State) : State :=
  { s with cur := { s.cur with wait := none, since := 0, came := none, arch := { a with pc := s.cur.arch.pc + BitVec.ofNat 57 n } } }

/-- The forms of a memory instruction without and with an offset: bytes of code, offset, instruction. -/
def memForms (plain : Instr) (withOff : BitVec 32 → Instr) (P : Nat → BitVec 32 → Instr → Prop) : Prop :=
  P 8 0 plain ∧ ∀ off, P 16 off (withOff off)

/-- The words of the scratchpads that lanes address are all in a tag state, and no other group waits on a tag. -/
def TagsReady (want : Bool) (xs : List LaneAcc) (s : State) : Prop :=
  (∀ x ∈ xs, tget false s.tags (laneWord x) = want) ∧ ∀ g ∈ s.groups, ∀ w ws, g.wait ≠ some (.tag w ws)

/-- Lanes are aligned to n bytes. -/
def LanesAligned (n : Nat) (xs : List LaneAcc) : Prop := ∀ x ∈ xs, x.addr.toNat % n = 0

/-- A FIFO bank of the issuing team that all lanes address, with k lanes, unlinked and unbroken. -/
def AtBank (b : Nat) (xs : List LaneAcc) (s : State) : Prop :=
  b < 48 ∧ xs ≠ [] ∧ (∀ x ∈ xs, laneBank x = some b) ∧
  let k := Machine.bankOf s s.cur.core b
  k.mode = .fifo ∧ k.owner = s.cur.slot ∧ k.next = none ∧ k.fifo.lnk = false ∧ k.fifo.brk = false

/-- A bank's items after an instruction; every other bank, and everything but the group's registers, as before. -/
def BankItems (len b : Nat) (items : List (Option LaneWord)) (s1 t : State) : Prop :=
  (Machine.bankOf t s1.cur.core b).fifo.items = items ∧
  (∀ c n, n < 48 → (c, n) ≠ (s1.cur.core, b) → Machine.bankOf t c n = Machine.bankOf s1 c n) ∧
  t = { s1 with banks := t.banks, tick := t.tick, cur := { s1.cur with arch := t.cur.arch, wait := none, since := 0, came := none } } ∧
  t.cur.arch.pc = s1.cur.arch.pc + BitVec.ofNat 57 len ∧ SameBytes s1 t

/-- The tags after an instruction: the words of the lanes hold a state, every other word what it held. -/
def TagsAfter (full : Bool) (xs : List LaneAcc) (s t : State) : Prop :=
  ∀ w, tget false t.tags w = if w ∈ xs.map laneWord then full else tget false s.tags w

/-- Bytes written one by one at a key of a memory, some left out: those stand there, and every other byte is as before. -/
def SomePut (key : Nat) (bs : List (Option Byte)) (m m' : List (Nat × Byte)) : Prop :=
  ∀ a, tget 0 m' a = if key ≤ a then ((bs.getD (a - key) none).getD (tget 0 m a)) else tget 0 m a

/-- The byte at a location as the memories hold it. -/
def memByte (s : State) (l : Loc) : Byte :=
  match l with
  | .smem c o => tget 0 s.smem (c * 0x180000 + o)
  | .host pa => tget 0 s.hostMem pa
  | .dev pa _ => match homeCell s.regions pa with
    | some cell => tget 0 s.mem cell
    | none => 0xFF
  | _ => 0

/-- A location of plain memory: a scratchpad, host memory, or device memory in a region, neither poisoned nor retired, and in
no L1 where it is tracked. -/
def PlainByte (s : State) (l : Loc) : Prop :=
  match l with
  | .smem _ _ | .host _ => True
  | .dev pa tracked => (∃ cell, homeCell s.regions pa = some cell ∧ cellPoisoned s cell 1 = false) ∧
      s.retired.contains (pa / 65536) = false ∧ (tracked = true → s.copies = [])
  | _ => False

/-- A lane as translation leaves it: both its pages lead somewhere, and where the address is aligned the location in its line is. -/
def LaneTranslated (x : LaneAcc) : Prop :=
  (∃ l m, x.x1 = .ok l ∧ x.x2 = .ok m) ∧ x.lane < 32 ∧ ∀ pa tracked, laneLoc x = .dev pa tracked → pa % 128 = x.addr.toNat % 128

/-- Bytes b to b + size - 1 of a core's scratchpad lie in banks in scratchpad mode that no switch changes, and in no extent
of a team (R166). -/
def RunIsFree (s : State) (core b size : Nat) : Prop :=
  (∀ k, k < 48 → b < 0x8000 * (k + 1) → 0x8000 * k < b + size →
    (Machine.bankOf s core k).mode = .scratch ∧ (Machine.bankOf s core k).next = none) ∧
  ∀ t ∈ s.teams, t.core = core → ∀ e ∈ t.exts, ¬ (e.base < b + size ∧ b < e.base + e.size)

/-- A bank may not be switched by the group (R80): a live extent lies in it, or it is another team's FIFO. -/
def BankInUse (s : State) (b : Nat) : Prop :=
  (∃ t ∈ s.teams, t.core = s.cur.core ∧ ∃ e ∈ t.exts, e.base < 0x8000 * (b + 1) ∧ 0x8000 * b < e.base + e.size) ∨
  ((Machine.bankOf s s.cur.core b).mode = .fifo ∧ (Machine.bankOf s s.cur.core b).owner ≠ s.cur.slot)

/-- Nobody else of the core waits for a switch of a bank, and none is in progress. -/
def BankAtRest (s : State) (b : Nat) : Prop :=
  (Machine.bankOf s s.cur.core b).next = none ∧ ∀ g ∈ s.groups, g.wait ≠ some (.bank b)

/-- The home line of a lane that leads to device memory. -/
def LineOf (s : State) (x : LaneAcc) (l : Nat) : Prop :=
  ∃ pa tracked cell, laneLoc x = .dev pa tracked ∧ homeCell s.regions pa = some cell ∧ l = cell / 128

/-- The dirty words of a core's copies of some lines stand at their homes (R98), and every other byte there is as before. -/
def WrittenBack (core : Nat) (lines : Nat → Prop) (s t : State) : Prop :=
  ∀ cell,
    (∀ c, lines (cell / 128) → copyOf core (cell / 128) s = some c → c.dirty.getLsbD (cell % 128 / 4) = true →
      tget 0 t.mem cell = lineByte c.data (cell % 128)) ∧
    ((lines (cell / 128) → ∀ c, copyOf core (cell / 128) s = some c → c.dirty.getLsbD (cell % 128 / 4) = false) →
      tget 0 t.mem cell = tget 0 s.mem cell)

/-- R154, R157, R158: ld in both forms, where its lanes translate and lead to memory: the lanes of its destination receive what
the reads give (R154: the group runs on after them); the reads themselves are those of the statements on what lanes read. -/
def Load : Prop :=
  ∀ rt ty d b, memForms (.ld rt ty d b) (.ldOff rt ty d b) (fun len off i => ∀ s s1 xs,
    VectorReady (regsOf ty d ++ baseRegs b) s → Access .load (tyBits ty / 8) b off s s1 xs → NoFifo xs →
    let r := readLanes (whoOf s1.cur) rt (tyBits ty / 8) xs s1
    r.1.cur.placed = s1.cur.placed → r.2.bad = [] →
      Completes i s (LoadedFrom len (regsOf ty d) (fun j l => wordOf (valAt r.2.vals l) j) r.1))

/-- R137, R158: what the lanes of a load read. An aligned lane's value is that of the n bytes of one read at its location, a
misaligned one's that of its bytes, each read by itself, and all ones where one of them meets poison (R362); and over plain memory every lane of an instruction has the value of
the bytes that stand at its locations. -/
def LanesRead : Prop :=
  ∀ w rt n (s : State), n ∈ [1, 2, 4, 8] → s.cur.fence = none →
    (∀ x, LaneTranslated x → x.addr.toNat % n = 0 →
      (readLanes w rt n [x] s).2.vals = [(x.lane, leVal (readLoc w rt (laneLoc x) n s).2.bytes)]) ∧
    (∀ x, LaneTranslated x → x.addr.toNat % n ≠ 0 → (∀ l ∈ laneLocs x n, isTracked l = false) →
      let r := (readEach w rt (laneLocs x n) s).2
      (readLanes w rt n [x] s).2.vals = [(x.lane, leVal (if r.poison then allOnesBytes n else r.bytes))]) ∧
    (∀ xs, NoErrors s → (∀ x ∈ xs, LaneTranslated x ∧ ∀ l ∈ laneLocs x n, PlainByte s l) → (xs.map LaneAcc.lane).Nodup →
      (readLanes w rt n xs s).2.bad = [] ∧ SameBytes s (readLanes w rt n xs s).1 ∧
      ∀ x ∈ xs, valAt (readLanes w rt n xs s).2.vals x.lane = leVal ((laneLocs x n).map (memByte s)))

/-- R97, R137, R157, R158: what a read at a location gives, and that it leaves the registers: scratchpad bytes, host memory, device
memory through an untracked mapping or where no copy of any line exists, and the core's own copy where it serves the load. -/
def ReadAtLocation : Prop :=
  ∀ w rt n (s : State), 0 < n →
    (∀ c o, readLoc w rt (.smem c o) n s = (s, ⟨tbytes s.smem (c * 0x180000 + o) n, false⟩)) ∧
    (∀ pa, readLoc w rt (.host pa) n s = (s, ⟨tbytes s.hostMem pa n, false⟩)) ∧
    (∀ pa tracked cell, NoErrors s → homeCell s.regions pa = some cell → cell % 128 + n ≤ 128 →
      s.retired.contains (pa / 65536) = false → cellPoisoned s cell n = false → (tracked = true → s.copies = []) →
      let r := readLoc w rt (.dev pa tracked) n s
      r.2 = ⟨tbytes s.mem cell n, false⟩ ∧ r.1.cur = s.cur ∧ SameBytes s r.1) ∧
    (∀ pa cell c, homeCell s.regions pa = some cell → s.retired.contains (pa / 65536) = false →
      copyOf w.core (cell / 128) s = some c → servesLoad rt (maskRange (cell % 128) n) c = true →
      (readLoc w rt (.dev pa true) n s).2 = ⟨(List.range n).map (fun i => lineByte c.data (cell % 128 + i)), false⟩ ∧
      SameBytes s (readLoc w rt (.dev pa true) n s).1)

/-- R156, R157, R158: st in both forms, where its lanes translate and lead to memory, hands over its posted writes and moves on:
no byte changes yet. -/
def Store : Prop :=
  ∀ rt ty d b, memForms (.st rt ty d b) (.stOff rt ty d b) (fun len off i => ∀ s s1 xs,
    VectorReady (regsOf ty d ++ baseRegs b) s → Access .store (tyBits ty / 8) b off s s1 xs → NoFifo xs →
    Completes i s (fun t => SameBytes s1 t ∧
      t = movedPast len s1.cur.arch { s1 with tick := s1.tick + 1, cur := { s1.cur with posted := storePosts s1 rt (tyBits ty / 8) (laneVal s1 ty d) xs } }))

/-- R137, R139, R156: the posted writes of a store whose lanes are aligned and do not overlap: one for each lane, of its value at
its location. -/
def StorePostsItsLanes : Prop :=
  ∀ s rt n val xs, 0 < n → LanesAligned n xs →
    xs.Pairwise (fun x y => ∀ l ∈ laneLocs x n, ∀ m ∈ laneLocs y n, locKey s.devno l ≠ locKey s.devno m) →
    storePosts s rt n val xs =
      xs.map (fun x => ⟨.write (leBytes n (val x.lane)), laneLoc x, rt, locCell s (laneLoc x), s.ver, BitVec.twoPow 32 x.lane, x.addr,
        s.tick, s.cur.epoch, false⟩)

/-- R84, R98, R102, R156: a posted write performed at its target puts its bytes there and changes no other byte: a scratchpad (whose
words become FULL, R84), host memory, and a home of device memory through an untracked mapping or without a copy. -/
def HomeWrite : Prop :=
  ∀ (s : State) (p : Posted) (bs : List Byte), s.cur.placed = true → s.cur.posted = [p] → p.op = .write bs → bs ≠ [] →
    p.merged = false → s.hostAcks = [] → NoneLeaving s → NoErrors s →
    (∀ c o, p.loc = .smem c o → Completes (.homeWrite s.cur.gid) s (fun t => t.cur.posted = [] ∧ t.cur.arch = s.cur.arch ∧
      BytesPut (c * 0x180000 + o) bs s.smem t.smem ∧ t.mem = s.mem ∧ t.hostMem = s.hostMem ∧ t.peerMem = s.peerMem ∧
      ∀ w, tget false t.tags w = if c * 0x60000 + o / 4 ≤ w ∧ w ≤ c * 0x60000 + (o + bs.length - 1) / 4 then true else tget false s.tags w)) ∧
    (∀ pa, p.loc = .host pa → Completes (.homeWrite s.cur.gid) s (fun t => t.cur.posted = [] ∧ t.cur.arch = s.cur.arch ∧
      BytesPut pa bs s.hostMem t.hostMem ∧ t.mem = s.mem ∧ t.smem = s.smem ∧ t.tags = s.tags ∧ t.peerMem = s.peerMem)) ∧
    (∀ pa tracked cell, p.loc = .dev pa tracked → p.cell = some cell → cell % 128 + bs.length ≤ 128 →
      s.retired.contains (pa / 65536) = false → (tracked = true → s.copies = [] ∧ p.rt ≠ .own) → s.cur.fence = none →
      Completes (.homeWrite s.cur.gid) s (fun t => t.cur.posted = [] ∧ t.cur.arch = s.cur.arch ∧
        BytesPut cell bs s.mem t.mem ∧ t.hostMem = s.hostMem ∧ t.smem = s.smem ∧ t.tags = s.tags ∧ t.peerMem = s.peerMem))

/-- R139, R156: a posted write of an aligned lane some of whose bytes a higher lane writes puts the others there, and changes no
other byte: at a scratchpad and in host memory. -/
def PartWrite : Prop :=
  ∀ (s : State) (p : Posted) bs, s.cur.placed = true → s.cur.posted = [p] → p.op = .part bs → p.merged = false → s.hostAcks = [] →
    (∀ c o, p.loc = .smem c o → Completes (.homeWrite s.cur.gid) s (fun t => t.cur.posted = [] ∧ t.cur.arch = s.cur.arch ∧
      SomePut (c * 0x180000 + o) bs s.smem t.smem ∧ t.mem = s.mem ∧ t.hostMem = s.hostMem ∧ t.peerMem = s.peerMem)) ∧
    (∀ pa, p.loc = .host pa → Completes (.homeWrite s.cur.gid) s (fun t => t.cur.posted = [] ∧ t.cur.arch = s.cur.arch ∧
      SomePut pa bs s.hostMem t.hostMem ∧ t.mem = s.mem ∧ t.smem = s.smem ∧ t.tags = s.tags ∧ t.peerMem = s.peerMem))

/-- R89: ld and st of words at one FIFO bank of the team: the lanes take its data items in lane order, or append theirs. -/
def FifoLoadAndStore : Prop :=
  ∀ rt (d : VReg) b,
    memForms (.ld rt .b32 d b) (.ldOff rt .b32 d b) (fun len off i => ∀ s s1 xs bank, VectorReady (d.toNat :: baseRegs b) s →
      Access .load 4 b off s s1 xs → AtBank bank xs s1 →
      let f := (Machine.bankOf s1 s1.cur.core bank).fifo
      xs.length ≤ 2 ^ (f.cfg.toNat % 16) → xs.length ≤ (dataRun f.items).length →
      Completes i s (fun t => BankItems len bank (f.items.drop xs.length) s1 t ∧
        t.cur.arch = { s1.cur.arch with pc := s1.cur.arch.pc + BitVec.ofNat 57 len, vregs := t.cur.arch.vregs } ∧
        (∀ j x, xs[j]? = some x → getV t d.toNat x.lane = (dataRun f.items).getD j 0) ∧
        (∀ r l, l < 32 → r ≠ d.toNat ∨ laneOn s1 l = false → getV t r l = getV s1 r l))) ∧
    memForms (.st rt .b32 d b) (.stOff rt .b32 d b) (fun len off i => ∀ s s1 xs bank, VectorReady (d.toNat :: baseRegs b) s →
      Access .store 4 b off s s1 xs → AtBank bank xs s1 →
      let f := (Machine.bankOf s1 s1.cur.core bank).fifo
      f.items.length + f.inItems.length + xs.length ≤ 2 ^ (f.cfg.toNat % 16) →
      Completes i s (fun t => BankItems len bank (f.items ++ xs.map (fun x => some (getV s1 d.toNat x.lane))) s1 t ∧
        t.cur.arch = { s1.cur.arch with pc := s1.cur.arch.pc + BitVec.ofNat 57 len }))

/-- R84, R85, R160: ldt reads words that are FULL and leaves them EMPTY, or FULL with keep; stt writes words that are EMPTY and leaves
them FULL. Nothing else changes. -/
def TaggedLoadAndStore : Prop :=
  ∀ rt (d : VReg) b,
    (∀ keep, memForms (.ldt rt keep d b) (.ldtOff rt keep d b) (fun len off i => ∀ s s1 xs, VectorReady (d.toNat :: baseRegs b) s →
      Access .load 4 b off s s1 xs → InScratch xs → LanesAligned 4 xs → TagsReady true xs s1 →
      Completes i s (fun t => TagsAfter keep xs s1 t ∧
        (∀ x ∈ xs, getV t d.toNat x.lane = BitVec.ofNat 32 (leVal (tbytes s1.smem (4 * laneWord x) 4))) ∧
        (∀ r l, l < 32 → r ≠ d.toNat ∨ laneOn s1 l = false → getV t r l = getV s1 r l) ∧
        t = movedPast len { s1.cur.arch with vregs := t.cur.arch.vregs } { s1 with tags := t.tags }))) ∧
    memForms (.stt rt d b) (.sttOff rt d b) (fun len off i => ∀ s s1 xs, VectorReady (d.toNat :: baseRegs b) s →
      Access .store 4 b off s s1 xs → InScratch xs → LanesAligned 4 xs → TagsReady false xs s1 → (xs.map laneWord).Nodup →
      Completes i s (fun t => TagsAfter true xs s1 t ∧
        (∀ x ∈ xs, tbytes t.smem (4 * laneWord x) 4 = leBytes 4 (getV s1 d.toNat x.lane).toNat) ∧
        (∀ a, a / 4 ∉ xs.map laneWord → tget 0 t.smem a = tget 0 s1.smem a) ∧
        t = movedPast len s1.cur.arch { s1 with tags := t.tags, smem := t.smem }))

/-- R162: tset and tclr of scratchpad words set and clear their tags; ttest reads them into a predicate. -/
def TagOperations : Prop :=
  ∀ rt b,
    memForms (.tset rt b) (.tsetOff rt b) (fun len off i => ∀ s s1 xs, VectorReady (baseRegs b) s → Access .store 1 b off s s1 xs → InScratch xs →
      Completes i s (fun t => TagsAfter true xs s1 t ∧
        t = movedPast len s1.cur.arch { s1 with tags := t.tags })) ∧
    memForms (.tclr rt b) (.tclrOff rt b) (fun len off i => ∀ s s1 xs, VectorReady (baseRegs b) s → Access .store 1 b off s s1 xs → InScratch xs →
      Completes i s (fun t => TagsAfter false xs s1 t ∧
        t = movedPast len s1.cur.arch { s1 with tags := t.tags })) ∧
    (∀ p : PReg, memForms (.ttest rt p b) (.ttestOff rt p b) (fun len off i => ∀ s s1 xs, VectorReady (baseRegs b) s → Access .load 1 b off s s1 xs → InScratch xs →
      Completes i s (PredicateWritten len p (laneOn s1) (fun l => xs.any (fun x => x.lane = l && tget false s1.tags (laneWord x))) (fun _ => 0) s1)))

/-- R163: pf moves on; it writes no register. R164: cwb, cinv and cflush move on; after cinv and cflush the core holds no copy with
bytes of the lanes' lines, after cwb no dirty word of them; each dirty word of these lines stands at its home, and every other
byte there is as before. -/
def PrefetchAndMaintenance : Prop :=
  ∀ b,
    (∀ rt, memForms (.pf rt b) (.pfOff rt b) (fun len _ i => ∀ s, VectorReady (baseRegs b) s → s.cur.fence = none → s.commitPend = false →
      s.hostAcks = [] → NoneLeaving s → NoErrors s →
      Completes i s (fun t => t.cur.arch = { s.cur.arch with pc := s.cur.arch.pc + BitVec.ofNat 57 len } ∧ t.cur.wait = none ∧
        t.cur.ften = s.cur.ften ∧ t.cur.tcause = s.cur.tcause ∧ t.cur.posted = s.cur.posted ∧ t.smem = s.smem ∧ t.tags = s.tags ∧ t.peerMem = s.peerMem))) ∧
    memForms (.cwb b) (.cwbOff b) (fun len off i => ∀ s s1 xs, VectorReady (baseRegs b) s →
      translateLanes (whoOf s.cur) .load 1 (laneAddrs b off s) s = (s1, xs) → Quiet s1 → (∀ x ∈ xs, laneFault x = none ∧ x.x1 ≠ .wait) →
      Completes i s (fun t => t.cur = (movedPast len s1.cur.arch s1).cur ∧
        t.smem = s1.smem ∧ t.tags = s1.tags ∧ t.hostMem = s1.hostMem ∧ t.peerMem = s1.peerMem ∧
        (∀ x ∈ xs, ∀ l, LineOf s1 x l → ∀ c, copyOf s1.cur.core l t = some c → c.dirty = 0) ∧
        WrittenBack s1.cur.core (fun l => ∃ x ∈ xs, LineOf s1 x l) s1 t)) ∧
    (∀ p ∈ ([(.cinv b, .cinvOff b), (.cflush b, .cflushOff b)] : List (Instr × (BitVec 32 → Instr))),
      memForms p.1 p.2 (fun len off i => ∀ s s1 xs, VectorReady (baseRegs b) s →
        translateLanes (whoOf s.cur) .load 1 (laneAddrs b off s) s = (s1, xs) → Quiet s1 → (∀ x ∈ xs, laneFault x = none ∧ x.x1 ≠ .wait) →
        Completes i s (fun t => t.cur = (movedPast len s1.cur.arch s1).cur ∧
          t.smem = s1.smem ∧ t.tags = s1.tags ∧ t.hostMem = s1.hostMem ∧ t.peerMem = s1.peerMem ∧
          (∀ x ∈ xs, ∀ l, LineOf s1 x l → ∀ c, copyOf s1.cur.core l t = some c → c.r ||| c.w = 0) ∧
          WrittenBack s1.cur.core (fun l => ∃ x ∈ xs, LineOf s1 x l) s1 t)))

/-- R80 (its last paragraph), R165: bmode to the present mode of a bank that is not in use and that no switch waits for completes
at once and only advances: the bank keeps its contents. -/
def BankModeKept : Prop :=
  ∀ s (bank : BitVec 6) m, s.cur.crew = none → SystemReady s → BankAtRest s bank.toNat → ¬ BankInUse s bank.toNat →
    (Machine.bankOf s s.cur.core bank.toNat).mode = m → Completes (.bmode bank m) s (Advanced 16 s)

/-- R80, R165: bmode to another mode begins the switch and the group waits for it, behind a switch in progress or one that another
group asked for before; at the end of the switch the bank has the mode, and the group moves on. A bank with a live extent, or
another team's FIFO, raises "bank in use". -/
def BankModeSwitch : Prop :=
  ∀ s (bank : BitVec 6) m, s.cur.crew = none → SystemReady s →
    let b := bank.toNat
    let k := Machine.bankOf s s.cur.core b
    (BankAtRest s b → ¬ BankInUse s b → k.mode ≠ m → Completes (.bmode bank m) s (fun t =>
      Machine.bankOf t s.cur.core b = { k with next := some (m, s.cur.gid) } ∧
      t.cur.wait = some (.bank b) ∧ t.cur.arch = s.cur.arch ∧ SameBytes s t)) ∧
    (k.next ≠ none → Completes (.bmode bank m) s (fun t => t.cur.wait = some (.bank b) ∧ t.cur.arch = s.cur.arch ∧ t.banks = s.banks ∧
      SameBytes s t)) ∧
    (s.cur.placed = true → b < 48 → k.next = some (m, s.cur.gid) → s.cur.wait = some (.bank b) → k.mode ≠ m → k.mode ≠ .cache → k.fifo.lnk = false →
      Completes (.bankSwitchComplete s.cur.core b) s (fun t => t.cur = (movedPast 16 s.cur.arch s).cur ∧
        (Machine.bankOf t s.cur.core b).mode = m ∧ (Machine.bankOf t s.cur.core b).next = none)) ∧
    (BankAtRest s b → BankInUse s b → exec (.bmode bank m) s = .next (raiseOpen .bankInUse s))

/-- R82, R166: salloc with room gives the lowest free multiple of 256 at which the extent has room; its bytes are zero and its words
EMPTY, and no other byte or tag changes; without room, for 0 bytes, for too many, or with extents 1 to 3 taken, it writes 0. -/
def ScratchpadAllocation : Prop :=
  ∀ s d a team, s.cur.crew = none → SystemReady s → teamAt s s.cur.core s.cur.slot = some team →
    let n := (getS s a).toNat
    let core := s.cur.core
    let size := (n + 255) / 256 * 256
    (∀ b, 0 < n → n ≤ 0x180000 → (∃ k, k ∈ [1, 2, 3] ∧ ∀ e ∈ team.exts, e.num ≠ k) →
      b % 256 = 0 → b + size ≤ 0x180000 → RunIsFree s core b size → (∀ c, c < b → c % 256 = 0 → ¬ RunIsFree s core c size) →
      Completes (.salloc d a) s (fun t => getS t d = BitVec.ofNat 64 (localBase + b) ∧ (∀ r, r ≠ d → getS t r = getS s r) ∧
        (∃ k ∈ [1, 2, 3], (∀ e ∈ team.exts, e.num ≠ k) ∧ (∀ j ∈ [1, 2, 3], j < k → ∃ e ∈ team.exts, e.num = j) ∧
          (teamAt t core s.cur.slot).map Team.exts = some (team.exts ++ [⟨k, b, size⟩])) ∧
        (∀ o, tget 0 t.smem o = if core * 0x180000 + b ≤ o ∧ o < core * 0x180000 + b + size then 0 else tget 0 s.smem o) ∧
        (∀ w, tget false t.tags w = if core * 0x60000 + b / 4 ≤ w ∧ w < core * 0x60000 + (b + size) / 4 then false else tget false s.tags w) ∧
        t.mem = s.mem ∧ t.hostMem = s.hostMem ∧ t.peerMem = s.peerMem ∧ t.cur.arch.pc = s.cur.arch.pc + 8 ∧ t.cur.wait = none)) ∧
    ((n = 0 ∨ 0x180000 < n ∨ (∀ b, b % 256 = 0 → b + size ≤ 0x180000 → ¬ RunIsFree s core b size) ∨
        ∀ k, k ∈ [1, 2, 3] → ∃ e ∈ team.exts, e.num = k) →
      Completes (.salloc d a) s (ScalarWritten 8 d 0 0 s))

/-- R154: the stages of a memory instruction: a lane that faults in translation traps with the kind of the lowest failing lane, tlm
the failing lanes and taddr its address. -/
def TranslationFaultTraps : Prop :=
  ∀ rt ty d b, memForms (.ld rt ty d b) (.ldOff rt ty d b) (fun _ off i => ∀ s s1 xs x k,
    VectorReady (regsOf ty d ++ baseRegs b) s → s.cur.fence = none →
    translateLanes (whoOf s.cur) .load (tyBits ty / 8) (laneAddrs b off s) s = (s1, xs) →
    (∀ y ∈ xs, y.x1 ≠ .wait) →
    (xs.filter (fun y => (laneFault y).isSome)).head? = some x → laneFault x = some k → k ≠ 0 →
    ∃ s2, exec i s = .next (raise ⟨.translation, BitVec.ofNat 16 k, accMask (xs.filter (fun y => (laneFault y).isSome)),
      x.addr.setWidth 64, s2.cur.arch.pc⟩ s2) ∧ s2.smem = s1.smem ∧ s2.mem = s1.mem ∧ s2.cur = s1.cur)

/-- The atomics with one data operand, with their operation (R169). -/
def atomicOps : List (AtomOp × (Scope → Ty → VReg → MBase → BitVec 32 → VReg → Instr)) :=
  [(.add, .aadd), (.min, .amin), (.max, .amax), (.and, .aand), (.or, .aor), (.xor, .axor), (.xchg, .axchg)]

/-- An atomic of one active lane: its read-modify-write at the location gives its vD the old value and stores the operation's
result; nothing else of the registers changes, and the group moves past 16 bytes. -/
def AtomicRuns (i : Instr) (op : AtomOp) (ty : Ty) (d : VReg) (b : MBase) (off : BitVec 32) (named : List Nat) (v e : State → Nat → Nat) : Prop :=
  ∀ s s1 x, VectorReady (regsOf ty d ++ named ++ baseRegs b) s → Access .atomic (tyBits ty / 8) b off s s1 [x] → NoFifo [x] →
    x.addr.toNat % (tyBits ty / 8) = 0 → x.lane < 32 → v s x.lane < 2 ^ 64 → e s x.lane < 2 ^ 64 →
    let n := tyBits ty / 8
    let r := rmwLoc (whoOf s1.cur) (laneLoc x) (locCell s1 (laneLoc x)) n
      (fun old => leBytes n (atomVal op ty (leVal old) (v s x.lane) (e s x.lane))) s1
    r.2.poison = false → Completes i s (fun t =>
      (∀ k, k < (regsOf ty d).length → getV t ((regsOf ty d).getD k 0) x.lane = wordOf (leVal r.2.bytes) k) ∧
      (∀ q l, l < 32 → q ∉ regsOf ty d ∨ l ≠ x.lane → getV t q l = getV r.1 q l) ∧
      t = movedPast 16 { r.1.cur.arch with vregs := t.cur.arch.vregs } { r.1 with cur := { r.1.cur with passes := none } })

/-- A barrier object lies at a register's address (R135, R177): a local address of 16 aligned bytes in an extent, whose first
byte has the key given. -/
def ObjectAt (v : Word) (key : Nat) (s : State) : Prop :=
  let a : VAddr := v.setWidth 57
  localBase ≤ a.toNat ∧ a.toNat % 16 = 0 ∧ allocOk (whoOf s.cur) a 16 s = true ∧
  ∃ c o, localLoc (whoOf s.cur) (a.toNat - localBase) s = .ok (.smem c o) ∧ key = c * 0x180000 + o

/-- Only the 16 bytes of an object changed among the bytes of memory, and the tags stay. -/
def ObjectOnly (key : Nat) (s t : State) : Prop :=
  (∀ a, a < key ∨ key + 16 ≤ a → tget 0 t.smem a = tget 0 s.smem a) ∧ t.mem = s.mem ∧ t.hostMem = s.hostMem ∧ t.peerMem = s.peerMem ∧
  t.tags = s.tags

/-- `Complete(o, n)` (R135) on an object's fields. -/
def completed (n : Nat) (o : BarObj) : BarObj :=
  let arr := min (o.arr + n) (2 ^ 40 - 1)
  if arr < o.exp then { o with arr := arr } else ⟨!o.ph, o.ovf || decide (o.exp < arr), o.rsv, o.init, 0, o.init⟩

/-- The core holds no copy that a fence would drop or whose words a release would write back, and the reduction unit holds nothing: a
fence has no further effect. -/
def FenceIdle (s : State) : Prop :=
  s.redUnit = [] ∧ ∀ c ∈ s.copies, c.client ≠ s.cur.core ∨ (c.kind ≠ .unrecorded ∧ c.stale = false ∧ c.dirty = 0)

/-- The barrier instructions with their levels. -/
def barriers : List (BarLevel × Instr) := [(.team, .barTeam), (.cluster, .barCluster), (.span, .barSpan), (.grid, .barGrid)]

/-- A source record of a block instruction (R212): its address translates to a location of one page, in an allowed space. -/
def RecordAt (k : AccKind) (t : Ty) (a : VAddr) (s s1 : State) (l : Loc) : Prop :=
  (∃ l2 x, translateSpan (whoOf s.cur) k a (recordBytes t) s = (s1, .ok l, .ok l2, x)) ∧ Quiet s1 ∧ slotAligned t a = true ∧
  bldRefuses l = none ∧ (localBase ≤ a.toNat → allocOk (whoOf s1.cur) a (recordBytes t) s1 = true)

/-- What the steps of R214 make of a record (a scale and 32 elements): a scale of 0xFF where a scale is that, or an element is no
real; otherwise the smallest scale under which the largest |x(i)| fits, or 254, and each x(i) rounded under it, L with its sign
where it is above L. -/
def Accumulated (fd fs : Ty) (ss : Nat) (act : Mask) (elems old new : List Byte) : Prop :=
  let sd := (old.getD 0 0).toNat
  let dv := fun i => decodeNum fd (recordElem fd old i)
  let sv := fun i => decodeNum fs (elems.getD i 0).toNat
  let bad := sd = 255 ∨ ss = 255 ∨ ∃ i, i < 32 ∧ (notReal (dv i) = true ∨ (act.getLsbD i = true ∧ notReal (sv i) = true))
  let x := fun i =>
    let d := scaleNum (dv i) ((sd : Int) - 127)
    if act.getLsbD i then sumNum d (scaleNum (sv i) ((ss : Int) - 127)) else d
  let fits := fun (k : Nat) => numLt (scaleNum (largest fd) ((k : Int) - 127)) (maxAbs ((List.range 32).map x)) = false
  (bad → new = 0xFF :: old.drop 1) ∧
  (¬ bad → new.length = recordBytes fd ∧ ∃ scale, scale ≤ 254 ∧ new.getD 0 0 = BitVec.ofNat 8 scale ∧
    (∀ k, k < scale → ¬ fits k) ∧ (scale < 254 → fits scale) ∧
    ∀ i n m e sgn lm le, i < 32 → scaleNum (x i) (127 - (scale : Int)) = .fin n m e → largest fd = .fin sgn lm le →
      recordElem fd new i = (if numLt (largest fd) (.fin false m e) then (roundFloat (fmtOf fd) .rn false n lm le).1
        else (roundFloat (fmtOf fd) .rn false n m e).1) % 2 ^ tyBits fd)

/-- Lanes address one record slot (R212). -/
def OneSlot (t : Ty) (xs : List LaneAcc) : Prop := ∀ x ∈ xs, slotAligned t x.addr = true ∧ (xs.head?.map LaneAcc.addr) = some x.addr

/-- R168 to R172: the atomics, for one active lane at any location. -/
def Atomics : Prop :=
  (∀ p ∈ atomicOps, ∀ sc ty d b off c, (ty = .f32 ∨ tyBits ty = 32 ∨ tyBits ty = 64) →
    AtomicRuns (p.2 sc ty d b off c) p.1 ty d b off (regsOf ty c) (fun s => laneVal s ty c) (fun _ _ => 0)) ∧
  (∀ sc ty d b off c e, tyBits ty = 32 ∨ tyBits ty = 64 →
    AtomicRuns (.acas sc ty d b off c e) .cas ty d b off (regsOf ty c ++ regsOf ty e) (fun s => laneVal s ty c) (fun s => laneVal s ty e)) ∧
  (∀ sc ty d b off, tyBits ty = 32 ∨ tyBits ty = 64 →
    AtomicRuns (.ainc sc ty d b off) .inc ty d b off [] (fun _ _ => 0) (fun _ _ => 0))

/-- R99, R171: one read-modify-write at a scratchpad, in host memory, or at a home through an untracked mapping or without a copy:
it gives the old bytes, puts the new ones, and changes no other byte. -/
def ReadModifyWrite : Prop :=
  ∀ (w : Who) (n : Nat) (f : List Byte → List Byte) (s : State), 0 < n → (∀ bs, (f bs).length = n) →
    (∀ c o cell, let r := rmwLoc w (.smem c o) cell n f s
      let old := tbytes s.smem (c * 0x180000 + o) n
      r.2 = ⟨old, false⟩ ∧ BytesPut (c * 0x180000 + o) (f old) s.smem r.1.smem ∧ r.1.mem = s.mem ∧ r.1.hostMem = s.hostMem ∧
      r.1.peerMem = s.peerMem ∧ r.1.cur = s.cur) ∧
    (∀ pa cell, let r := rmwLoc w (.host pa) cell n f s
      let old := tbytes s.hostMem pa n
      r.2 = ⟨old, false⟩ ∧ BytesPut pa (f old) s.hostMem r.1.hostMem ∧ r.1.mem = s.mem ∧ r.1.smem = s.smem ∧ r.1.tags = s.tags ∧
      r.1.peerMem = s.peerMem ∧ r.1.cur = s.cur) ∧
    (∀ pa tracked cell, cell % 128 + n ≤ 128 → NoErrors s → s.retired.contains (pa / 65536) = false → cellPoisoned s cell n = false → s.copies = [] →
      s.cur.fence = none →
      let r := rmwLoc w (.dev pa tracked) (some cell) n f s
      let old := tbytes s.mem cell n
      r.2 = ⟨old, false⟩ ∧ BytesPut cell (f old) s.mem r.1.mem ∧ r.1.smem = s.smem ∧ r.1.tags = s.tags ∧ r.1.hostMem = s.hostMem ∧
      r.1.peerMem = s.peerMem ∧ r.1.cur.arch = s.cur.arch)

/-- R170: a repechage pass performs the lowest of the lanes that are left at one scratchpad address and leaves the others for the next
pass; the last pass ends the atomic. -/
def RepechagePass : Prop :=
  ∀ (s : State) (p : Passes) (x : AtomLane) (rest : List AtomLane) c o, s.cur.placed = true → s.cur.passes = some p →
    p.left = x :: rest → (∀ y ∈ p.left, y.loc = .smem c o) → x.lane < 32 →
    let n := tyBits p.ty / 8
    let old := tbytes s.smem (c * 0x180000 + o) n
    Completes (.repechagePass s.cur.gid) s (fun t =>
      t.cur.passes = (if rest = [] then none else some { p with left := rest }) ∧
      BytesPut (c * 0x180000 + o) (leBytes n (atomVal p.op p.ty (leVal old) x.v.toNat x.e.toNat)) s.smem t.smem ∧
      (∀ k, k < (regsOf p.ty p.d).length → getV t ((regsOf p.ty p.d).getD k 0) x.lane = wordOf (leVal old) k) ∧
      (∀ q l, l < 32 → q ∉ regsOf p.ty p.d ∨ l ≠ x.lane → getV t q l = getV s q l) ∧
      t.mem = s.mem ∧ t.hostMem = s.hostMem ∧ t.peerMem = s.peerMem ∧ t.cur.arch.pc = s.cur.arch.pc)

/-- R173: red hands over one posted reduction for each address, of the tree over the lanes there in increasing order, and moves on. -/
def Reduction : Prop :=
  ∀ op sc ty b off c s s1 xs, VectorReady (regsOf ty c ++ baseRegs b) s → Access .atomic (tyBits ty / 8) b off s s1 xs → NoFifo xs →
    LanesAligned (tyBits ty / 8) xs → Completes (.red op sc ty b off c) s (fun t =>
      t = movedPast 16 s1.cur.arch { s1 with tick := s1.tick + 1, cur := { s1.cur with posted := t.cur.posted } } ∧ SameBytes s1 t ∧
      (∀ x ∈ xs, ∃ p ∈ t.cur.posted, locKey s1.devno p.loc = locKey s1.devno (laneLoc x)) ∧
      t.cur.posted.Pairwise (fun p q => locKey s1.devno p.loc ≠ locKey s1.devno q.loc) ∧
      ∀ p ∈ t.cur.posted, p.op = .red op ty (BitVec.ofNat 64
        (treeOf op ty ((xs.filter (fun x => locKey s1.devno (laneLoc x) == locKey s1.devno p.loc)).map (fun x => laneVal s1 ty c x.lane))).1))

/-- R210 to R219: bacc with a register or a memory source hands over its accumulation; bld loads a record's scale and elements; bcvt
converts a block. -/
def BlockInstructions : Prop :=
  (∀ sc fd fs b off (c : VReg) sr s s1 xs, VectorReady (c.toNat :: baseRegs b) s → Access .atomic (recordBytes fd) b off s s1 xs →
    OneSlot fd xs → (∀ x ∈ xs, x.addr.toNat < 0x180000000000000) → ∀ x ∈ xs.head?,
    Completes (.bacc sc fd fs b off c sr) s (fun t => SameBytes s1 t ∧ t = movedPast 16 s1.cur.arch { s1 with tick := s1.tick + 1, cur := { s1.cur with posted :=
      [⟨.bacc fd fs ((getS s1 sr).setWidth 8) ((List.range 32).map (fun l => BitVec.ofNat 8 ((getV s1 c.toNat l).toNat % 2 ^ tyBits fs))),
        laneLoc x, .unc, locCell s1 (laneLoc x), s1.ver, active s1, x.addr, s1.tick, s1.cur.epoch, false⟩] } })) ∧
  (∀ sc fd fs b off sr s s1 s2 xs l, VectorReady (baseRegs b) s → Access .atomic (recordBytes fd) b off s s1 xs → OneSlot fd xs →
    (∀ x ∈ xs, x.addr.toNat < 0x180000000000000) → RecordAt .load fs ((getS s1 sr).setWidth 57) s1 s2 l →
    let r := readRecord (whoOf s2.cur) fs l s2
    r.2.poison = false → r.1.cur.fence = none → r.1.cur.posted = [] → ∀ x ∈ xs.head?,
    Completes (.baccMem sc fd fs b off sr) s (fun t => SameBytes r.1 t ∧ t = movedPast 16 r.1.cur.arch { r.1 with tick := r.1.tick + 1, cur := { r.1.cur with posted :=
      [⟨.bacc fd fs (r.2.bytes.getD 0 0) ((List.range 32).map (fun k => BitVec.ofNat 8 (recordElem fs r.2.bytes k))),
        laneLoc x, .unc, locCell r.1 (laneLoc x), r.1.ver, active r.1, x.addr, r.1.tick, r.1.cur.epoch, false⟩] } })) ∧
  (∀ sc f (d : VReg) sr b off s s1 xs, VectorReady (d.toNat :: baseRegs b) s → Access .load (recordBytes f) b off s s1 xs → OneSlot f xs →
    (∀ x ∈ xs, bldRefuses (laneLoc x) = none) → ∀ x ∈ xs.head?,
    let r := readRecord (whoOf s1.cur) f (laneLoc x) s1
    r.2.poison = false → Completes (.bld sc f d sr b off) s (fun t =>
      getS t sr = (r.2.bytes.getD 0 0).setWidth 64 ∧ (∀ q, q ≠ sr → getS t q = getS r.1 q) ∧
      (∀ l, l < 32 → laneOn s1 l = true → getV t d.toNat l = BitVec.ofNat 32 (recordElem f r.2.bytes l)) ∧
      (∀ q l, l < 32 → q ≠ d.toNat ∨ laneOn s1 l = false → getV t q l = getV r.1 q l) ∧ SameBytes r.1 t ∧
      t = movedPast 16 { r.1.cur.arch with vregs := t.cur.arch.vregs, sregs := t.cur.arch.sregs } r.1)) ∧
  (∀ td ts (d a : VReg) sr s, VectorReady [d.toNat, a.toNat] s →
    let val := fun l => decodeNum ts ((getV s a.toNat l).toNat % 2 ^ tyBits ts)
    let ss := (getS s sr).toNat % 256
    let bad := ss = 255 ∨ ∃ l, laneOn s l = true ∧ notReal (val l) = true
    let x := fun l => scaleNum (val l) ((ss : Int) - 127)
    let scale := chooseScale td (maxAbs ((lanesOf (active s)).map x))
    Completes (.bcvt td ts d a sr) s (fun t => SameBytes s t ∧
      (bad → getS t sr = 0xFF ∧ ∀ l, l < 32 → laneOn s l = true → getV t d.toNat l = 0) ∧
      (¬ bad → getS t sr = BitVec.ofNat 64 scale ∧ ∀ l, l < 32 → laneOn s l = true → getV t d.toNat l = BitVec.ofNat 32 (blockElem td scale (x l))) ∧
      (∀ q, q ≠ sr → getS t q = getS s q) ∧ (∀ q l, l < 32 → q ≠ d.toNat ∨ laneOn s l = false → getV t q l = getV s q l) ∧
      t = movedPast 16 { s.cur.arch with vregs := t.cur.arch.vregs, sregs := t.cur.arch.sregs } s))

/-- R213, R214: a posted block accumulation performed at its home is one read-modify-write of the record, of the value that the
steps of R214 give, under the version with which it was homed (R113). -/
def BlockAccumulationAtHome : Prop :=
  ∀ (s : State) (p : Posted) fd fs scale elems, s.cur.placed = true → s.cur.posted = [p] → p.op = .bacc fd fs scale elems →
    p.merged = false → s.hostAcks = [] → NoneLeaving s →
    let s0 := { s with ver := p.ver, cur := { s.cur with posted := [] } }
    let r := rmwLoc (whoOf s.cur) p.loc p.cell (recordBytes fd) (accumulate fd fs scale.toNat p.lanes elems) s0
    (recordFmt fd = true → recordFmt fs = true → ∀ old, old.length = recordBytes fd →
      Accumulated fd fs scale.toNat p.lanes elems old (accumulate fd fs scale.toNat p.lanes elems old)) ∧
    (r.2.poison = false → Completes (.baccAtHome s.cur.gid) s (fun t => t = { r.1 with ver := s.ver }))

/-- R130, R131, R174: a fence at scope `group` advances, and from then on the group's operations to one target keep their order: one
posted before it and one posted after it to the same target are performed in that order, and a load after it from that target waits
for the first. That it does no more than count an epoch is the model's reading (log 31). Any other fence lets the group go on past
it, with the registers to which a rollback returns; at a full one, the groups of the instance that have missed a write of the group
roll back (the model's choice, log 72). It completes once its accesses are performed: the stores held after it leave in order. -/
def Fences : Prop :=
  ∀ s k sc,
    (s.cur.crew = none → active s ≠ 0 → s.cur.fence = none → sc = .group →
      Completes (.fence k sc) s (Advanced 8 { s with cur := { s.cur with epoch := s.cur.epoch + 1 } })) ∧
    (s.cur.crew = none → active s ≠ 0 → s.cur.fence = none → sc ≠ .group → Completes (.fence k sc) s (fun t => SameBytes s t ∧
      ∃ f, f = ⟨k, sc, s.cur.arch.pc, { s.cur.arch with pc := s.cur.arch.pc + 8 }, s.cur.queues, [], [], 0, []⟩ ∧
        t = movedPast 8 s.cur.arch { s with cur := { s.cur with fence := some f }, groups := if k = .full then s.groups.map (meetsFull sc s.cur) else s.groups })) ∧
    (∀ i j q p, i < j → s.cur.posted[i]? = some q → s.cur.posted[j]? = some p → q.epoch < p.epoch →
      postedTarget s q = postedTarget s p → (q.merged = false ∨ willMerge s p = false) →
      goesFirst s q p = true ∧ canPerform s j = false ∧ j ∉ performable s) ∧
    (∀ ls l p, l ∈ ls → p ∈ s.cur.posted → p.epoch < s.cur.epoch → postedTarget s p = locTarget s l.1 →
      beforeAccess s ls p = true ∧ mustWait (beforeAccess s ls) ls s = true) ∧
    (∀ f, s.cur.placed = true → s.cur.fence = some f → s.cur.posted = [] → s.hostAcks = [] → s.commitPend = false → FenceIdle s →
      Completes (.fenceComplete s.cur.gid) s (fun t => SameBytes s t ∧
        t = { s with cur := { s.cur with fence := none, posted := t.cur.posted, wait := t.cur.wait, since := t.cur.since } } ∧
        t.cur.posted = f.held.flatten.map (fun p => { p with cell := locCell s p.loc, ver := s.ver }) ∧
        t.cur.wait = (if s.cur.wait = some .fence then none else s.cur.wait) ∧
        t.cur.since = if s.cur.wait = some .fence then 0 else s.cur.since)) ∧
    (∀ f p ps, s.cur.placed = true → s.cur.fence = some f → f.kind ≠ .acq → s.cur.posted = p :: ps → (∀ q ∈ p :: ps, q.merged = false) → FenceIdle s →
      Completes (.fenceComplete s.cur.gid) s (fun t => t = s))

/-- R119, R175: a group that comes to a barrier with its stores performed arrives and waits, and groups that have missed a write of
it past their own full fence roll back (the model's choice, log 72); a grid barrier outside a co-resident
launch raises "illegal scope". -/
def BarrierArrival : Prop :=
  ∀ s, s.cur.crew = none → active s ≠ 0 → s.cur.fence = none → s.cur.posted = [] → s.hostAcks = [] → FenceIdle s → ∀ p ∈ barriers,
    ((p.1 = .grid → s.cur.coresident = true) → Completes p.2 s (fun t => t.cur.wait = some (.bar p.1) ∧ t.cur.arch = s.cur.arch ∧
      t.groups = s.groups.map (meetsFull (barScope p.1) s.cur) ∧ SameBytes s t)) ∧
    (p.1 = .grid → s.cur.coresident = false → exec p.2 s = .next (raiseOpen .illegalScope s))

/-- R176: once every participant that has not retired has arrived, the barrier completes and each moves past it; before, nothing
happens. -/
def BarrierCompletion : Prop :=
  ∀ s l, s.cur.placed = true → s.cur.wait = some (.bar l) → s.redUnit = [] → s.copies = [] →
    (s.cur :: s.groups).Pairwise (fun g h => g.gid ≠ h.gid) →
    ((∀ h ∈ allGroups s, sameInstance l s.cur h = true → h.wait = some (.bar l)) → Completes (.barrierComplete s.cur.gid) s (fun t =>
      (∀ h ∈ allGroups s, sameInstance l s.cur h = true → ∃ h' ∈ allGroups t, h'.gid = h.gid ∧ h'.wait = none ∧
        h'.arch = { h.arch with pc := h.arch.pc + 8 }) ∧
      (∀ h ∈ allGroups s, sameInstance l s.cur h = false → h ∈ allGroups t) ∧ SameBytes s t)) ∧
    ((∃ h ∈ allGroups s, sameInstance l s.cur h = true ∧ h.wait ≠ some (.bar l)) → Completes (.barrierComplete s.cur.gid) s (fun t => t = s))

/-- R135, R177, R178: bobj.init, bobj.exp, bobj.arr and bobj.wait on an object in a scratchpad extent; a value of 2^40 or more raises
"object value". -/
def BarrierObjects : Prop :=
  ∀ s a n key, s.cur.crew = none → active s ≠ 0 → Quiet s → ObjectAt (getS s a) key s →
    let v := (getS s n).toNat
    let o := readObj s key
    (v < 2 ^ 40 → Completes (.bobjInit a n) s (fun t => readObj t key = ⟨false, false, o.rsv, v, 0, v⟩ ∧ ObjectOnly key s t ∧
      t = movedPast 8 s.cur.arch { s with smem := t.smem })) ∧
    (v < 2 ^ 40 → o.exp + v < 2 ^ 40 → Completes (.bobjExp a n) s (fun t => readObj t key = { o with exp := o.exp + v } ∧ ObjectOnly key s t ∧
      t = movedPast 8 s.cur.arch { s with smem := t.smem })) ∧
    (v < 2 ^ 40 → (∀ g ∈ allGroups s, ∀ ph, g.wait ≠ some (.object key ph)) → Completes (.bobjArr a n) s (fun t =>
      readObj t key = completed v o ∧ ObjectOnly key s t ∧ t = movedPast 8 s.cur.arch { s with smem := t.smem })) ∧
    (o.ph = (getS s n).getLsbD 0 → Completes (.bobjWait a n) s (Advanced 8 s)) ∧
    (o.ph ≠ (getS s n).getLsbD 0 → Completes (.bobjWait a n) s (fun t => t.cur.wait = some (.object key ((getS s n).getLsbD 0)) ∧
      t.cur.arch = s.cur.arch ∧ SameBytes s t)) ∧
    (2 ^ 40 ≤ v → exec (.bobjInit a n) s = .next (raiseOpen .objectValue s) ∧ exec (.bobjArr a n) s = .next (raiseOpen .objectValue s)) ∧
    (2 ^ 40 ≤ o.exp + v → exec (.bobjExp a n) s = .next (raiseOpen .objectValue s))

/-- R179, R180: mon records its address, its line and the 8 bytes there; mwait without a monitor, or with a triggered one, moves on,
and otherwise waits; a wait that ends clears the monitor. A copy of the line that a stale notice has marked is given up, so that a
read after mwait does not return a value older than the write that triggered it. -/
def Monitors : Prop :=
  (∀ s a s1 pa l2 x cell, s.cur.crew = none → active s ≠ 0 → Quiet s → Quiet s1 →
    translateSpan (whoOf s.cur) .load ((getS s a).setWidth 57) 1 s = (s1, .ok (.dev pa true), .ok l2, x) →
    ((getS s a).setWidth 57 : VAddr).toNat < localBase → NoErrors s1 → homeCell s1.regions (pa / 8 * 8) = some cell → s1.copies = [] →
    cellPoisoned s1 cell 8 = false → cell % 8 = 0 → Completes (.mon a) s (fun t =>
      (t.cur = { (movedPast 8 s1.cur.arch s1).cur with mon := t.cur.mon }) ∧ SameBytes s1 t ∧
      t.cur.mon = some ⟨(getS s a).setWidth 57, cell / 128, BitVec.ofNat 64 (leVal (tbytes s1.mem cell 8)), false⟩)) ∧
  (∀ s, s.cur.crew = none → active s ≠ 0 → s.cur.fence = none →
    (s.cur.mon = none → Completes .mwait s (Advanced 8 s)) ∧
    (∀ m, s.cur.mon = some m → m.triggered = true → (∀ c, copyOf s.cur.core m.line s = some c → c.stale = false) →
      (s.cur.wait ≠ some .mwait → Completes .mwait s (Advanced 8 s)) ∧
      (s.cur.wait = some .mwait →
        Completes .mwait s (fun t => t = movedPast 8 s.cur.arch { s with cur := { s.cur with mon := none } } ∧ SameBytes s t))) ∧
    (∀ m c, s.cur.mon = some m → m.triggered = true → copyOf s.cur.core m.line s = some c → c.stale = true →
      Completes .mwait s (fun t => t.cur = { (movedPast 8 s.cur.arch s).cur with mon := if s.cur.wait = some .mwait then none else some m } ∧
        (∀ x, copyOf s.cur.core m.line t = some x → x.r ||| x.w = 0) ∧ WrittenBack s.cur.core (fun l => l = m.line) s t)) ∧
    (∀ m, s.cur.mon = some m → m.triggered = false → Completes .mwait s (fun t => t.cur.wait = some .mwait ∧ t.cur.arch = s.cur.arch ∧
      t.cur.mon = some m ∧ SameBytes s t))) ∧
  (∀ s, s.cur.placed = true → s.cur.wait = some .mwait →
    ∀ i, i = Instr.mwaitTimeout s.cur.gid ∨ i = Instr.mwaitSpuriousWake s.cur.gid →
      Completes i s (fun t => t = movedPast 8 s.cur.arch { s with cur := { s.cur with mon := none } } ∧ SameBytes s t))

/-- A command of a group may act: SIMT mode, a lane active, nothing that it would wait for (R268, R293). -/
def CommandReady (s : State) : Prop := s.cur.crew = none ∧ active s ≠ 0 ∧ Quiet s

/-- n bytes of a descriptor are read as a `.unc` load of the group (R183), in the state s, to the state s1: the address
translates, it lies where a descriptor may, and no byte meets poison. -/
def DescriptorRead (a : VAddr) (n : Nat) (s s1 : State) (bs : List Byte) : Prop :=
  ∃ s0 l1 l2 x, translateSpan (whoOf s.cur) .load a n s = (s0, .ok l1, .ok l2, x) ∧ s0.cur = s.cur ∧ s1.cur = s.cur ∧
    (∀ l ∈ spanLocs a n l1 l2, locBusy s0 l = false) ∧
    (a.toNat < 0x100000000000000 ∨ (localBase ≤ a.toNat ∧ a.toNat < localBase + 0x180000)) ∧
    (localBase ≤ a.toNat → allocOk (whoOf s0.cur) a n s0 = true) ∧
    readEach (whoOf s0.cur) .unc (spanLocs a n l1 l2) s0 = (s1, ⟨bs, false⟩)

/-- An operand of a copy passes the check of R183: no byte lies where a copy may not go, and either no element is local, or
all from the lowest to the highest byte lie in an extent of the team. -/
def OperandAt (k : AccKind) (n : Nat) (as : List VAddr) (s s1 : State) : Prop :=
  badOperand n as = false ∧
  (((∀ a ∈ as, a.toNat < localBase) ∧ s1 = s) ∨
    ∃ lo l, lo ∈ as ∧ (∀ a ∈ as, lo.toNat ≤ a.toNat) ∧ localBase ≤ lo.toNat ∧ translate (whoOf s.cur) k lo s = (s1, .ok l) ∧
      allocOk (whoOf s1.cur) lo (as.foldl (fun m a => max m (a.toNat + n)) 0 - lo.toNat) s1 = true)

/-- The object of a command (R177): none, or one in an extent that the team reaches. -/
def CommandObject (v : Word) (s : State) : Prop := v = 0 ∨ ∃ key, ObjectAt v key s

/-- A completion record that an engine appends (R92): two words, the second the address. -/
def recordWords (eng core slot id src stat bytes : Nat) (a : VAddr) : List EvWord :=
  [⟨core, slot, eng, BitVec.ofNat 64 (id % 2 ^ 16 * 2 ^ 48 + src * 2 ^ 44 + slot * 2 ^ 41 + stat * 2 ^ 32 + min bytes (2 ^ 32 - 1))⟩,
    ⟨core, slot, eng, a.setWidth 64⟩]

/-- The copy that a descriptor with a header and dimensions asks for, by a group (R182, R185). -/
def askedCopy (s : State) (a : VAddr) (h : DescHead) (ds : List Dim) (obj : Word) (ev : Bool) (trigger : Option VAddr) (n issued : Nat) (eng : Option Nat) : CopyOp :=
  ⟨s.cur.core, s.cur.slot, n, s.cur.asid, s.cur.part, a, h.src, h.dst, h.srt, h.drt, h.esize, ds, obj.setWidth 57, ev, trigger,
    if trigger.isSome then .armed else .queued, [], 0, issued, eng, []⟩

/-- An engine of the die of a core that its partition owns, or none where it owns none there (R387). -/
def EngineOf (s : State) (core part : Nat) (e : Option Nat) : Prop :=
  (∀ x, e = some x → x / 8 = core / 96 ∧ tget 0 s.engineOwner x = part) ∧
  (e = none → ∀ x, x / 8 = core / 96 → tget 0 s.engineOwner x ≠ part)

/-- What is left of a block of a copy is read and written (R184), from s0 to s1: every access is made, none waits, none meets a
fault, poison or a retired page. -/
def PieceMoved (c : CopyOp) (b : VAddr) (s0 s1 : State) : Prop :=
  moveUnits c (unitsLeft c b s0.free) { s0 with free := s0.free + 256 } = (s1, true)

/-- Nothing of a team is left to be performed: no posted, fenced or passing operation of its groups, no engine command, no
firing. -/
def TeamAtRest (s : State) (core slot : Nat) : Prop :=
  (∀ g ∈ s.cur :: s.groups, g.core = core → g.slot = slot →
    g.posted = [] ∧ g.fence = none ∧ g.passes = none ∧ ∀ w, g.wait ≠ some (.spill w)) ∧
  (∀ c ∈ s.copyOps, c.core = core → c.slot ≠ slot) ∧
  (∀ k ∈ s.slots, k.core = core → k.team = slot → k.cmds = [] ∧ k.st ≠ .firing ∧ k.st ≠ .suspended)

/-- One copy of a core with an identifier is replaced by another, or by none; the others stay, in order. -/
def CopyReplaced (core ident : Nat) (c : Option CopyOp) (s t : State) : Prop :=
  t.copyOps = s.copyOps.flatMap (fun x => if x.core = core ∧ x.ident = ident then c.toList else [x])

/-- R185, R186: copy.t and copy.arm read the descriptor, check it and its operands, and queue (or arm) the copy under an
identifier that is not 0 and that no outstanding copy of the core holds, for a copy engine of the die that the partition owns;
rI receives the identifier. -/
def CopyCommands : Prop :=
  ∀ s s1 s2 s3 s4 i d o ev hb db h ds, CommandReady s →
    let a : VAddr := (getS s d).setWidth 57
    a.toNat % 32 = 0 → DescriptorRead a 32 s s1 hb → parseHead hb = some h → DescriptorRead (a + 32) (16 * h.ndim) s1 s2 db →
    parseDims h db = some ds → s1.cur = s.cur → s2.cur = s.cur → s3.cur = s.cur → s4.cur = s.cur →
    (copiesOf s4 s.cur.core s.cur.slot).length < 16 → (s4.copyOps.filter (fun x => x.core = s.cur.core)).length < 65535 →
    ∀ r tr, tr = none ∨ tr = some ((getS s r).setWidth 57) →
    let c := askedCopy s a h ds (getS s o) ev tr
    OperandAt .engineRead h.esize ((copyElems (c 0 0 none)).map (fun e => e.1)) s2 s3 →
    OperandAt .engineWrite h.esize ((copyElems (c 0 0 none)).map (fun e => e.2)) s3 s4 → CommandObject (getS s o) s4 →
    Completes (if tr.isSome then .copyArm ev i d o r else .copyT ev i d o) s (fun t =>
      ∃ n e, n ≠ 0 ∧ n < 2 ^ 16 ∧ EngineOf s4 s.cur.core s.cur.part.toNat e ∧ (∀ x ∈ s4.copyOps, x.core = s.cur.core → x.ident ≠ n) ∧ getS t i = BitVec.ofNat 64 n ∧
        (∀ q, q ≠ i → getS t q = getS s q) ∧
        t = movedPast 16 { s.cur.arch with sregs := t.cur.arch.sregs }
          { s4 with copyOps := s4.copyOps ++ [c n (s4.tick + 1) e], tick := s4.tick + 1, free := s4.free + 2 })

/-- R187: copy.cancel removes a copy of the team that has written no byte, with a record of STAT 8 where EV asks for one, and
writes true; where there is none, it writes false. -/
def CopyCancel : Prop :=
  ∀ s p i, CommandReady s →
    (∀ c, c ∈ s.copyOps → c.core = s.cur.core → c.slot = s.cur.slot → c.ident = (getS s i).toNat → c.blocks = [] → c.early = [] →
      (∀ x ∈ s.copyOps, x.core = c.core → x.ident = c.ident → x = c) →
      Completes (.copyCancel p i) s (fun t => (∀ q, getP t q = if q = p then allLanes else getP s q) ∧
        CopyReplaced s.cur.core c.ident none s t ∧
        t.evq = s.evq ++ (if c.ev then recordWords (recorderOf c) s.cur.core s.cur.slot c.ident 0 8 0 c.obj else []) ∧
        t = movedPast 16 { s.cur.arch with preds := t.cur.arch.preds } { s with copyOps := t.copyOps, evq := t.evq })) ∧
    ((∀ c ∈ s.copyOps, c.core = s.cur.core → c.slot = s.cur.slot → c.ident = (getS s i).toNat → c.blocks ≠ [] ∨ c.early ≠ []) →
      Completes (.copyCancel p i) s (fun t => (∀ q, getP t q = if q = p ∧ p ≠ 7 then 0 else getP s q) ∧
        t = movedPast 16 { s.cur.arch with preds := t.cur.arch.preds } s ∧ SameBytes s t))

/-- R188: evpop takes the oldest word of the team out of the core's event queue, and writes true; without one, 0 and false. -/
def EventPop : Prop :=
  ∀ s d p, CommandReady s →
    let own := fun (e : EvWord) => e.core = s.cur.core ∧ e.slot = s.cur.slot
    let seen := (s.evq.filter (fun e => e.core = s.cur.core)).take (evVisible s s.cur.core)
    (∀ xs e ys, s.evq = xs ++ e :: ys → own e → (∀ x ∈ xs, ¬ own x) → (xs.filter (fun x => x.core = s.cur.core)).length < evVisible s s.cur.core →
      Completes (.evpop d p) s (fun t => getS t d = e.word ∧ (∀ q, q ≠ d → getS t q = getS s q) ∧
        (∀ q, getP t q = if q = p then allLanes else getP s q) ∧
        t = movedPast 16 { s.cur.arch with sregs := t.cur.arch.sregs, preds := t.cur.arch.preds } { s with evq := xs ++ ys } ∧ SameBytes s t)) ∧
    ((∀ e ∈ seen, e.slot ≠ s.cur.slot) → Completes (.evpop d p) s (fun t => getS t d = 0 ∧ (∀ q, q ≠ d → getS t q = getS s q) ∧
        (∀ q, getP t q = if q = p ∧ p ≠ 7 then 0 else getP s q) ∧
        t = movedPast 16 { s.cur.arch with sregs := t.cur.arch.sregs, preds := t.cur.arch.preds } s ∧ SameBytes s t))

/-- R167: sfree of an extent that nothing still uses removes it, a team at rest in particular; of no extent's base, it raises
"allocation"; of one in use, it waits. -/
def ExtentFree : Prop :=
  ∀ s a team, CommandReady s → teamAt s s.cur.core s.cur.slot = some team →
    (∀ e, e ∈ team.exts → e.num ≠ 0 → (getS s a).toNat = localBase + e.base →
      (∀ x ∈ team.exts, x.num ≠ 0 → x.base = e.base → x = e) →
      (extentBusy s.cur.core s.cur.slot e s = false ∨ TeamAtRest s s.cur.core s.cur.slot → Completes (.sfree a) s (fun t =>
        teamAt t s.cur.core s.cur.slot = some { team with exts := team.exts.filter (fun x => x.num ≠ e.num) } ∧
        (∀ c n, (c, n) ≠ (s.cur.core, s.cur.slot) → teamAt t c n = teamAt s c n) ∧
        t = movedPast 8 s.cur.arch { s with teams := t.teams } ∧ SameBytes s t)) ∧
      (extentBusy s.cur.core s.cur.slot e s = true → Completes (.sfree a) s (fun t =>
        t.cur.wait = some (.free e.base) ∧ t.cur.arch = s.cur.arch ∧ t.teams = s.teams ∧ SameBytes s t))) ∧
    ((∀ e ∈ team.exts, e.num ≠ 0 → (getS s a).toNat ≠ localBase + e.base) →
      exec (.sfree a) s = .next (oneTrap .allocation 0 (getS s a) s))

/-- R135, R137, R138, R184: an access of a copy whose bytes lie in scratchpads puts the bytes read at its destination, its
words FULL; a copy that runs, or that the scoreboard lets start, makes one of the accesses that are left of one of the
blocks that are left, or all of those of the block: then it counts the block's bytes into the object. -/
def CopyPieces : Prop :=
  (∀ c u s dc dl ss (sl : List (Nat × Nat)), let w := teamWho c.core c.slot s
    engineBytes w .engineWrite (u.bytes.map (fun m => m.1)) s = (s, .locs (.smem dc dl :: ss)) →
    engineBytes w .engineRead (u.bytes.map (fun m => m.2)) s = (s, .locs (sl.map (fun (x : Nat × Nat) => Loc.smem x.1 x.2))) →
    (∀ l ∈ ss, ∃ a b, l = .smem a b) → (copyAt s c.core c.ident).isSome →
    ∃ t, moveUnit c u s = (t, true) ∧
      BytesPut (dc * 0x180000 + dl) (sl.map (fun x => tget 0 s.smem (x.1 * 0x180000 + x.2))) s.smem t.smem ∧
      (∀ k, tget false t.tags k = (decide (dc * 0x60000 + dl / 4 ≤ k ∧ k < dc * 0x60000 + dl / 4 + (dl % 4 + sl.length + 3) / 4) || tget false s.tags k)) ∧
      t.mem = s.mem ∧ t.hostMem = s.hostMem ∧ t.peerMem = s.peerMem ∧ t.copyOps = s.copyOps) ∧
  ∀ s core ident c0 c, copyAt s core ident = some c0 → copyGoes s c0 = some c →
    (blocksLeft c ≠ [] → ∃ b ∈ blocksLeft c, someBlock c s = some b) ∧
    (∀ b us, someBlock c s = some b → unitsLeft c b (s.free + 2) = us → us ≠ [] →
      ∃ u ∈ us, ∀ s1, moveUnit c u { s with free := s.free + 258 } = (s1, true) →
        Completes (.enginePieceWord core ident) s (fun t => t = runCopy c (fun y => { y with early := y.early ++ [u.addr] }) s1)) ∧
    (∀ b s1 c1, someBlock c s = some b → PieceMoved c b { s with free := s.free + 1 } s1 → copyAt s1 core ident = some c1 →
      (∀ x ∈ s1.copyOps, x.core = core → x.ident = ident → x = c1) →
      let c' := { c1 with st := .running, engine := c.engine, blocks := c1.blocks ++ [b], bytes := c1.bytes + pieceBytes c b,
                          early := c1.early.filter (fun a => !(blockOf a == b)) }
      (c.obj = 0 → Completes (.enginePieceComplete core ident) s (fun t =>
        CopyReplaced core ident (some c') s1 t ∧ t = { s1 with copyOps := t.copyOps })) ∧
      (∀ co off, c.obj ≠ 0 → localBase ≤ c.obj.toNat → localLoc (teamWho core c.slot s1) (c.obj.toNat - localBase) s1 = .ok (.smem co off) →
        c.core = core → (∀ g ∈ allGroups s1, ∀ ph, g.wait ≠ some (.object (co * 0x180000 + off) ph)) →
        Completes (.enginePieceComplete core ident) s (fun t =>
          readObj t (co * 0x180000 + off) = completed (pieceBytes c b) (readObj s1 (co * 0x180000 + off)) ∧
          ObjectOnly (co * 0x180000 + off) s1 t ∧
          CopyReplaced core ident (some c') s1 t ∧ t = { s1 with copyOps := t.copyOps, smem := t.smem })))

/-- R185, R189: a copy all of whose blocks are written completes with STAT 0 and a record where EV asks for one. One that meets a
fault finishes and counts the blocks in flight first, waiting where one can neither be finished yet nor faults; then it completes
with the fault's kind and the bytes that it has written in a record, and the fault is recorded at its die; a retired page ends its
context. (That the bytes of a block which the fault itself cuts stand in BYTES and are not counted into the object is the model's
reading, log 34.) -/
def CopyEnds : Prop :=
  (∀ s core ident c, copyAt s core ident = some c → c.st = .running → blocksLeft c = [] →
    Completes (.copyComplete core ident) s (fun t => CopyReplaced core ident none s t ∧
      t.evq = s.evq ++ (if c.ev then recordWords (recorderOf c) core c.slot ident 0 0 c.bytes c.obj else []) ∧
      t = { s with copyOps := t.copyOps, evq := t.evq } ∧ SameBytes s t)) ∧
  (∀ s core ident c0 c k a, copyAt s core ident = some c0 → copyGoes s c0 = some c →
    let bs := blocksLeft c
    let n := if bs.length ≤ 1 then 0 else Config.freeNat s.free % bs.length
    copyFaultOf c (bs.drop n ++ bs.take n) { s with free := s.free + 1 } = some (k, a) →
    let s1 := finishBegun core ident bs { s with free := s.free + 1 }
    (c0.early = [] → s1 = { s with free := s.free + 1 }) ∧
    ∀ y, copyAt s1 core ident = some y →
      let c1 := { y with engine := c.engine }
      ((∃ b ∈ blocksLeft c1, begun c1 b = true ∧ copyFaultOf c1 [b] s1 = none) → Completes (.copyFault core ident) s (fun t => t = s1)) ∧
      ((∀ b ∈ blocksLeft c1, begun c1 b = true → copyFaultOf c1 [b] s1 ≠ none) →
        (k = 0 → exec (.copyFault core ident) s = .next (endContext 0x84 0 0 c1.asid c1.part s1)) ∧
        (k ≠ 0 → (∀ r ∈ s1.faults, r.die = dieOf core → r.asid = c1.asid → r.page = a.toNat / 4096 → r.kind ≠ k) →
          (s1.faults.filter (fun r => r.die = dieOf core)).length < 512 →
          Completes (.copyFault core ident) s (fun t => CopyReplaced core ident none s1 t ∧
            t.evq = s1.evq ++ recordWords (recorderOf c1) core c1.slot ident 0 k (c1.bytes + earlyBytes c1) a ∧
            t.faults = s1.faults ++ (if k = 9 then [] else [⟨dieOf core, c1.asid, a.toNat / 4096, k, 1⟩]) ∧
            t = { s1 with copyOps := t.copyOps, evq := t.evq, faults := t.faults } ∧ SameBytes s1 t))))

/-- What holds of a slot of the issuing group's core that is not FREE and that the team owns (R320). -/
def OwnSlot (k : BitVec 2) (x : Slot) (s : State) : Prop := slotAt s s.cur.core k.toNat = some x ∧ x.team = s.cur.slot

/-- One slot of a core is x; every other slot is what it was. -/
def SlotBecomes (core num : Nat) (x : Slot) (s t : State) : Prop :=
  slotAt t core num = some x ∧ ∀ c n, (c, n) ≠ (core, num) → slotAt t c n = slotAt s c n

/-- An operation passes the checks of R335 on a slot: its shape, its addresses, disjoint regions, its object. -/
def ShapeOk (x : Slot) (o : MxOp) (obj : Word) (s : State) : Prop :=
  badShape x o = none ∧ (∀ a ∈ slotWords x o, faultOf s a = none ∧ (inScratch a.toNat = true ∨ inCluster a.toNat = true) ∧
    allocOk (whoOf s.cur) a 4 s = true) ∧ disjointOk s x o = true ∧ CommandObject obj s

/-- Some words of local memory were written with values and tagged FULL; every other word and tag is what it was. -/
def WordsPut (ws : List (Nat × LaneWord)) (s t : State) : Prop :=
  (∀ x ∈ ws, tbytes t.smem (4 * x.1) 4 = leBytes 4 x.2.toNat ∧ tget false t.tags x.1 = true) ∧
  (∀ w, w ∉ ws.map Prod.fst → (∀ i, i < 4 → tget 0 t.smem (4 * w + i) = tget 0 s.smem (4 * w + i)) ∧ tget false t.tags w = tget false s.tags w) ∧
  t.mem = s.mem ∧ t.hostMem = s.hostMem ∧ t.peerMem = s.peerMem

/-- A slot as mxarm leaves it (R321): armed, with no fired or consumed operand. -/
def armedSlot (x : Slot) : Slot :=
  { x with st := .armed, disarm := false, firedA := false, firedB := false, consA := false, consB := false, ready := 0 }

/-- An armed slot after the consumed event of the region at a base (R325): it may fire on that region again. -/
def freed (s : State) (key : Nat) (y : Slot) : Slot :=
  let a := !(aKey s y == some key)
  let b := !(bKey s y == some key)
  { y with firedA := y.firedA && a, consA := y.consA && a, firedB := y.firedB && b, consB := y.consB && b }

/-- The mxarm and mxdisarm instructions by slot. -/
def armForms : List (BitVec 2 × Instr × Instr) := [(0, .mxarm0, .mxdisarm0), (1, .mxarm1, .mxdisarm1), (2, .mxarm2, .mxdisarm2), (3, .mxarm3, .mxdisarm3)]

/-- Element q of row i of an operand in local memory. -/
def rowElem (s : State) (k : Slot) (o : MxOp) (base pitch i q : Nat) : Nat :=
  operandElem s (rowKey (teamWho k.core k.team s) s base pitch i) (tyBits o.ty) q

/-- No consumed event of a core's operand regions is due: some armed reader of each has not consumed it (R325). -/
def NothingDue (core : Nat) (s : State) : Prop :=
  ∀ key r rs, readersOf s core key = r :: rs → ∃ y ∈ r :: rs, hasConsumed s key y = false

/-- The words of a tile whose elements 32 i + j are not among some already written (R138). -/
def leftOf (early : List Nat) (ds : List (Nat × Nat × Nat)) : List (Nat × Nat × Nat) :=
  ds.filter (fun d => 32 * d.2.1 + d.2.2 ∉ early)

/-- Bytes of scale operands read by the scaling unit (R338): translated, none that waits, none poisoned. -/
def ScalesRead (x : Slot) (o : MxOp) (c : MxCmd) (s s1 : State) (bytes : List Byte) : Prop :=
  let w := teamWho x.core x.team s
  let addrs := fun (a : VAddr) (n : Nat) => (List.range n).map (fun i => a + BitVec.ofNat 57 i)
  ∃ s0 ls, engineBytes w .engineRead (addrs c.sa o.m ++ addrs c.sb o.n) s = (s0, .locs ls) ∧ (∀ l ∈ ls, locBusy s0 l = false) ∧ engineRead w .unc ls s0 = (s1, ⟨bytes, false⟩) ∧
    s1.slots = s.slots ∧ s1.teams = s.teams

/-- R321, R334: mxcfg loads the 64 bytes at its address into a slot that is not armed, claims a FREE slot for the team, and leaves
it SET; a slot that is armed or another team's raises "matrix state". -/
def MatrixConfiguration : Prop :=
  ∀ s k r, CommandReady s →
    let v := getS s r
    let num := k.toNat
    let bs := tbytes s.smem (s.cur.core * 0x180000 + (v.toNat - localBase)) 64
    let c := (List.range 8).map (fun i => BitVec.ofNat 64 (leVal ((bs.drop (8 * i)).take 8)))
    (inScratch v.toNat = true → v.toNat % 64 = 0 → allocOk (whoOf s.cur) (v.setWidth 57) 64 s = true → configOk c = true →
      (slotAt s s.cur.core num = none → Completes (.mxcfg k r) s (fun t =>
        SlotBecomes s.cur.core num { newSlot s.cur.core num s.cur.slot with cfg := c, cfgAddr := v } s t ∧
        t = movedPast 16 s.cur.arch { s with slots := t.slots } ∧ SameBytes s t)) ∧
      (∀ x, OwnSlot k x s → isArmed x = false → Completes (.mxcfg k r) s (fun t =>
        SlotBecomes s.cur.core num { x with st := .set, cfg := c, cfgAddr := v, op := none } s t ∧
        t = movedPast 16 s.cur.arch { s with slots := t.slots } ∧ SameBytes s t))) ∧
    (∀ x, slotAt s s.cur.core num = some x → x.team ≠ s.cur.slot ∨ isArmed x = true →
      exec (.mxcfg k r) s = .next (raiseOpen .matrixState s))

/-- R321, R335, R336: mma on a slot that is not armed, with a shape and regions that the checks accept, loads the operation. -/
def MatrixOperation : Prop :=
  ∀ s mx ty k m n kk o x, CommandReady s → OwnSlot k x s →
    let op : MxOp := ⟨mx, ty, (getS s m).toNat, (getS s n).toNat, (getS s kk).toNat, (getS s o).setWidth 57⟩
    (isArmed x = false → ShapeOk x op (getS s o) s → Completes (.mma mx ty k m n kk o) s (fun t =>
      SlotBecomes s.cur.core k.toNat { x with st := .loaded, op := some op } s t ∧
      t = movedPast 16 s.cur.arch { s with slots := t.slots } ∧ SameBytes s t)) ∧
    (isArmed x = true → exec (.mma mx ty k m n kk o) s = .next (raiseOpen .matrixState s))

/-- R321, R325, R337: mxarm arms a slot with an operation whose regions lie beside those of every other armed slot of the core as
R337 allows; on an armed slot it does nothing. mxdisarm leaves an armed slot LOADED, waits for a firing to end, and after that wait
is done, whatever the slot has come to. That FIRING and SUSPENDED slots count as armed for mxarm, and the addresses that its checks
report, are the model's choice (logs 37 and 21). -/
def MatrixArming : Prop :=
  ∀ s, CommandReady s → ∀ f ∈ armForms, ∀ x, OwnSlot f.1 x s →
    (isArmed x = true → Completes f.2.1 s (Advanced 16 s)) ∧
    (∀ o, isArmed x = false → x.op = some o → ShapeOk x o (o.obj.setWidth 64) s → (∀ y ∈ otherArmed s x, besideOk s x o y = true) →
      Completes f.2.1 s (fun t =>
        slotAt t s.cur.core f.1.toNat = some (armedSlot x) ∧ t.cur.arch = { s.cur.arch with pc := s.cur.arch.pc + 16 } ∧
        t.smem = s.smem ∧ t.mem = s.mem ∧ (NothingDue s.cur.core s → SlotBecomes s.cur.core f.1.toNat (armedSlot x) s t ∧
          t = movedPast 16 s.cur.arch { s with slots := t.slots } ∧ SameBytes s t))) ∧
    (isArmed x = false → Completes f.2.2 s (Advanced 16 s)) ∧
    (x.st = .armed → (∀ u, s.cur.wait ≠ some (.disarm u)) → Completes f.2.2 s (fun t =>
      (∃ y, slotAt t s.cur.core f.1.toNat = some y ∧ y.st = .loaded ∧ y.disarm = false ∧ y.op = x.op ∧ y.cfg = x.cfg ∧ y.cmds = x.cmds) ∧
      t.cur.arch = { s.cur.arch with pc := s.cur.arch.pc + 16 } ∧ t.cur.wait = none ∧ t.smem = s.smem ∧ t.mem = s.mem ∧
      (NothingDue s.cur.core s → slotAt t s.cur.core f.1.toNat = some { x with st := .loaded, disarm := false }) ∧
      (NothingDue s.cur.core s → otherArmed s x = [] → t = movedPast 16 s.cur.arch { s with slots := t.slots }))) ∧
    (inFiring x = true → (∀ u, s.cur.wait ≠ some (.disarm u)) → Completes f.2.2 s (fun t =>
      t.cur.wait = some (.disarm x.started) ∧ t.cur.arch = s.cur.arch ∧
      SlotBecomes s.cur.core f.1.toNat { x with disarm := true } s t ∧ SameBytes s t)) ∧
    (∀ u, s.cur.wait = some (.disarm u) →
      (inFiring x = true → x.started = u → Completes f.2.2 s (fun t => t = s)) ∧
      (inFiring x = false ∨ x.started ≠ u → Completes f.2.2 s (Advanced 16 s)))

/-- R338, R339, R341: sacc appends a command to its slot, with the slot's configuration and operation of that moment (that it keeps
them is the model's choice, log 77); mxflg reads the status word and clears the flag tile; mxspill writes the
accumulator image, with full words. -/
def MatrixScalingAndFlags : Prop :=
  (∀ s s1 s2 k a b x o l1 l2 f1 l3 l4 f2, CommandReady s → OwnSlot k x s → x.op = some o → o.mx = true → s1.cur = s.cur → s2.cur = s.cur →
    s2.slots = s.slots →
    translateSpan (whoOf s.cur) .load ((getS s a).setWidth 57) o.m s = (s1, .ok l1, .ok l2, f1) →
    translateSpan (whoOf s.cur) .load ((getS s b).setWidth 57) o.n s1 = (s2, .ok l3, .ok l4, f2) → bankLoc l1 = none → bankLoc l3 = none →
    (localBase ≤ ((getS s a).setWidth 57 : VAddr).toNat → allocOk (whoOf s.cur) ((getS s a).setWidth 57) o.m s2 = true) →
    (localBase ≤ ((getS s b).setWidth 57 : VAddr).toNat → allocOk (whoOf s.cur) ((getS s b).setWidth 57) o.n s2 = true) →
    scalings s2 s.cur.core s.cur.slot < 16 → Completes (.sacc k a b) s (fun t =>
      SlotBecomes s.cur.core k.toNat { x with cmds := x.cmds ++ [⟨(getS s a).setWidth 57, (getS s b).setWidth 57, s2.tick + 1, x.cfg, o, false, []⟩] } s t ∧
      t = movedPast 16 s.cur.arch { s2 with slots := t.slots, tick := s2.tick + 1 })) ∧
  (∀ s k d, CommandReady s →
    (∀ x, OwnSlot k x s → Completes (.mxflg d k) s (fun t =>
      getS t d = BitVec.ofNat 64 (x.prog % 2 ^ 12 * 2 ^ 48 + slotCode x.st * 2 ^ 44 + x.flags.toNat * 2 ^ 32 + x.rows.toNat) ∧
      (∀ q, q ≠ d → getS t q = getS s q) ∧ SlotBecomes s.cur.core k.toNat { x with rows := 0, flags := 0 } s t ∧
      t = movedPast 16 { s.cur.arch with sregs := t.cur.arch.sregs } { s with slots := t.slots } ∧ SameBytes s t)) ∧
    (slotAt s s.cur.core k.toNat = none → Completes (.mxflg d k) s (ScalarWritten 16 d 0 0 s))) ∧
  (∀ s k a x, CommandReady s → OwnSlot k x s →
    let v := getS s a
    let word := s.cur.core * 0x60000 + (v.toNat - localBase) / 4
    inScratch v.toNat = true → v.toNat % 128 = 0 → allocOk (whoOf s.cur) (v.setWidth 57) 4096 s = true →
    (s.cur.wait = some (.spill word) ∧ commandFree s.cur.core s.cur.slot s.cur.since (spillSets word) s = true ∨
      s.cur.wait ≠ some (.spill word) ∧ scalings s s.cur.core s.cur.slot < 16 ∧
        commandFree s.cur.core s.cur.slot (s.tick + 1) (spillSets word) s = true) →
    Completes (.mxspill k a) s (fun t => WordsPut ((List.range 1024).map (fun i => (word + i, tget 0 x.acc i))) s t ∧
      t = movedPast 16 s.cur.arch { s with smem := t.smem, tags := t.tags }))

/-- R320, R321, R335 to R341: a matrix instruction on another team's slot, and mma, mxarm, mxdisarm, sacc and mxspill on a FREE slot,
raise "matrix state"; the taddr of that trap is free (log 21). -/
def MatrixStateErrors : Prop :=
  ∀ s k, CommandReady s → ∀ m n d mx ty, ∀ i ∈ ([.mma mx ty k m n d d, .sacc k m n, .mxspill k m] ++
      ((armForms.filter (fun f => f.1 = k)).flatMap (fun f => [f.2.1, f.2.2])) : List Instr),
    (slotAt s s.cur.core k.toNat = none → exec i s = .next (raiseOpen .matrixState s)) ∧
    (∀ x, slotAt s s.cur.core k.toNat = some x → x.team ≠ s.cur.slot → exec i s = .next (raiseOpen .matrixState s))

/-- R324, R326, R329: the array takes one K-block of a candidate that none precedes: a slot whose conditions hold starts its firing
with the starting accumulators; each accumulator takes the step of R326 on its row of A and of B; the other firings with blocks
left are suspended. -/
def ArraySelection : Prop :=
  ∀ s core, (∀ y ∈ s.slots, y.core = core → y.st = .armed → lostWord s y = none) →
    let s1 := stampReady s
    (arrayCandidates core s1 = [] → Completes (.arraySelect core) s (fun t => t = s1 ∧ SameBytes s t)) ∧
    (∀ k o, arrayChoice core s1 = some k → k.op = some o → o.n ≤ 32 →
      s1.slots.Pairwise (fun x y => (x.core, x.num) ≠ (y.core, y.num)) →
      let first := !(inFiring k)
      k ∈ arrayCandidates core s1 ∧ (∀ y ∈ arrayCandidates core s1, selectBefore y k = false) ∧
      Completes (.arraySelect core) s (fun t => ∃ x, slotAt t core k.num = some x ∧ x.st = .firing ∧
        x.prog = (if first then 0 else k.prog) + 1 ∧ x.bank = (if first then some ((freeBank core s1).getD 0) else k.bank) ∧
        (first = true → x.firedA = true ∧ x.firedB = true) ∧
        (∀ i j, i < o.m → j < o.n → tget 0 x.acc (32 * i + j) = BitVec.ofNat 32 (accStep o
          (if first then accStart o else tget 0 k.acc (32 * i + j)).toNat (rowElem s k o (cfgBits k 0 0 57) (cfgBits k 4 0 24) i)
          (rowElem s k o (cfgBits k 1 0 57) (cfgBits k 4 32 24) j) (if first then 0 else k.prog)).1) ∧
        (∀ y ∈ s1.slots, (y.core, y.num) ≠ (core, k.num) → slotAt t y.core y.num =
          some (if y.core = core ∧ y.st = .firing ∧ y.prog < blocksOf y then { y with st := .suspended } else y)) ∧
        t = { s with slots := t.slots, tick := t.tick } ∧ SameBytes s t))

/-- R138, R321, R326, R327: the results of a firing all of whose blocks have entered are written to D, whose words become FULL: one word
after the other in any order, and then all that are left; the slot is armed again, or LOADED where a disarm waits; a record follows
where EV asks for one and the operation is no `mma.mx`. (Of operations that count into no object.) -/
def FiringResults : Prop :=
  ∀ s core k x o, slotAt s core k.toNat = some x → x.op = some o → inFiring x = true → blocksOf x ≤ x.prog →
    o.mx = true ∨ o.obj = 0 →
    let ds := leftOf x.early (tileWords (teamWho x.core x.team s) s (cfgBits x 2 0 57) (cfgBits x 5 0 24) o)
    (ds = [] → Completes (.firingWord core k) s (fun t => t = s)) ∧
    (ds ≠ [] → Completes (.firingWord core k) s (fun t => ∃ d ∈ ds,
      WordsPut [(d.1, tget 0 x.acc (32 * d.2.1 + d.2.2))] s t ∧
      SlotBecomes core k.toNat { x with early := x.early ++ [32 * d.2.1 + d.2.2] } s t ∧
      t = { s with smem := t.smem, tags := t.tags, slots := t.slots, free := s.free + 1 })) ∧
    (x.disarm = true → Completes (.firingResultsWritten core k) s (fun t =>
      ∃ y, slotAt t core k.toNat = some y ∧ y.st = .loaded ∧ y.bank = none ∧ y.disarm = false ∧ y.early = [] ∧ y.op = x.op ∧ y.cfg = x.cfg ∧
        t.cur = s.cur ∧ ∀ d ∈ ds, (ds.map (fun d => d.1)).Nodup → tbytes t.smem (4 * d.1) 4 = leBytes 4 (tget 0 x.acc (32 * d.2.1 + d.2.2)).toNat)) ∧
    (x.disarm = false → NothingDue core s → (ds.map (fun d => d.1)).Nodup → Completes (.firingResultsWritten core k) s (fun t =>
      WordsPut (ds.map (fun d => (d.1, tget 0 x.acc (32 * d.2.1 + d.2.2)))) s t ∧
      SlotBecomes core k.toNat { x with st := .armed, bank := none, ready := 0, early := [] } s t ∧
      t.evq = s.evq ++ (if o.mx = false ∧ cfgBits x 6 2 1 = 1 then recordWords (arrayEngine core) core x.team k.toNat 1 0 (4 * o.m * o.n) o.obj else []) ∧
      t = { s with smem := t.smem, tags := t.tags, slots := t.slots, evq := t.evq }))

/-- R186, R325: once every armed reader of an operand region has consumed it, its words (of A and of B, where both lie there) become EMPTY, the readers may fire on it
again, and the copies armed on it are queued; before, nothing happens. -/
def ConsumedEvents : Prop :=
  ∀ s core base k key r rs, (s.slots.filter (fun y => y.core = core && isArmed y)).find?
      (fun y => cfgBits y 0 0 57 = base.toNat || cfgBits y 1 0 57 = base.toNat) = some k →
    baseKey (teamWho core k.team s) s base.toNat = some key → readersOf s core key = r :: rs →
    (∀ o w, r.op = some o → (w ∈ regionOf s key r ↔
      (aKey s r = some key ∧ w ∈ aWords s r o) ∨ (bKey s r = some key ∧ w ∈ bWords s r o))) ∧
    ((∀ y ∈ r :: rs, hasConsumed s key y = true) → Completes (.consumedEvent core base) s (fun t =>
      (∀ w, tget false t.tags w = if w ∈ regionOf s key r then false else tget false s.tags w) ∧
      t.slots = s.slots.map (fun y => if y.core = core ∧ isArmed y = true then freed s key y else y) ∧
      t.copyOps = s.copyOps.map (fun c => if c.core / 96 = core / 96 ∧ armedOn s key c = true then { c with st := .queued } else c) ∧
      t = { s with tags := t.tags, slots := t.slots, copyOps := t.copyOps })) ∧
    ((∃ y ∈ r :: rs, hasConsumed s key y = false) → Completes (.consumedEvent core base) s (fun t => t = s))

/-- R138, R338: the oldest sacc of a slot starts when D is full and the scoreboard lets it; performed, each word of OUT is x of R338 with
full tags, one word after the other in any order and then all that are left, D becomes EMPTY, and the command is done (the last of
commands that count into no object). That the command keeps the configuration and operation of its issue, and is a reader from its
start to its end, is the model's choice (logs 77 and 37). -/
def Scaling : Prop :=
  (∀ s core k x c r, slotAt s core k.toNat = some x → x.cmds = c :: r →
    let seen := saccSlot x c
    (c.running = false → engineHolds s (arrayEngine core) = false → tagsAre s true (dWords s seen c.op) = true →
      commandFree core x.team c.issued (saccSets s seen c) s = true → Completes (.saccStart core k) s (fun t =>
        SlotBecomes core k.toNat { x with cmds := { c with running := true } :: r } s t ∧ t = { s with slots := t.slots } ∧ SameBytes s t)) ∧
    (c.running = true ∨ engineHolds s (arrayEngine core) = true ∨ tagsAre s true (dWords s seen c.op) = false ∨
      commandFree core x.team c.issued (saccSets s seen c) s = false → Completes (.saccStart core k) s (fun t => t = s))) ∧
  (∀ s s1 core k x c r bytes, slotAt s core k.toNat = some x → x.cmds = c :: r → c.running = true → c.op.obj = 0 →
    ScalesRead x c.op c s s1 bytes →
    let o := c.op
    let w := teamWho x.core x.team s
    let seen := saccSlot x c
    let ds := tileWords w s1 (cfgBits seen 2 0 57) (cfgBits seen 5 0 24) o
    let os := tileWords w s1 (cfgBits seen 3 0 57) (cfgBits seen 5 32 24) o
    let left := (ds.zip os).filter (fun p => 32 * p.1.2.1 + p.1.2.2 ∉ c.early)
    let scaled := fun (p : (Nat × Nat × Nat) × (Nat × Nat × Nat)) =>
      (scaleStep (bytes.getD p.1.2.1 0).toNat (bytes.getD (o.m + p.1.2.2) 0).toNat (wordValue s1 p.2.1) (wordValue s1 p.1.1)).1 % 2 ^ 32
    (left = [] → Completes (.saccWord core k) s (fun t => t = s1)) ∧
    (left ≠ [] → Completes (.saccWord core k) s (fun t => ∃ p ∈ left, WordsPut [(p.2.1, BitVec.ofNat 32 (scaled p))] s1 t ∧
      (∃ y, slotAt t core k.toNat = some y ∧ y.cmds = { c with early := c.early ++ [32 * p.1.2.1 + p.1.2.2] } :: r ∧ y.st = x.st ∧
        y.op = x.op ∧ y.acc = x.acc) ∧
      t = { s1 with smem := t.smem, tags := t.tags, slots := t.slots, free := s1.free + 1 })) ∧
    ((os.map (fun d => d.1)).Nodup → (∀ d ∈ ds, d.1 ∉ os.map (fun d => d.1)) → Completes (.saccComplete core k) s (fun t =>
      (∀ p ∈ left, wordValue t p.2.1 = scaled p) ∧
      (∀ v, tget false t.tags v = if v ∈ ds.map (fun d => d.1) then false else if v ∈ left.map (fun p => p.2.1) then true else tget false s1.tags v) ∧
      (∀ v i, v ∉ left.map (fun p => p.2.1) → i < 4 → tget 0 t.smem (4 * v + i) = tget 0 s1.smem (4 * v + i)) ∧
      (∃ y, slotAt t core k.toNat = some y ∧ y.cmds = r ∧ y.st = x.st ∧ y.op = x.op ∧ y.acc = x.acc) ∧
      t.evq = s1.evq ++ (if cfgBits seen 6 2 1 = 1 then recordWords (arrayEngine core) core x.team k.toNat 1 0 (4 * o.m * o.n) o.obj else []) ∧
      t = { s1 with smem := t.smem, tags := t.tags, slots := t.slots, evq := t.evq })))

/-- The 32 seats that crew.enter reads: the first n words at an address of the scratchpad, the rest empty (R308). -/
def enteredSeats (v : Word) (n : Nat) (s : State) : List Seat :=
  (List.range 32).map (fun i =>
    newSeat s (if i < n then seatWord s (v.toNat % 2 ^ 57 - localBase + 16 * i) else 0) (v + BitVec.ofNat 64 (16 * i)))

/-- n seat words lie at an address (R308): in the team scratchpad, aligned to 16 bytes, allocated. -/
def SeatsAt (v : Word) (n : Nat) (s : State) : Prop :=
  let a : VAddr := v.setWidth 57
  localBase ≤ a.toNat ∧ a.toNat + 16 * n ≤ localBase + 0x180000 ∧ 1 ≤ n ∧ a.toNat % 16 = 0 ∧ allocOk (whoOf s.cur) a (16 * n) s = true

/-- A queue with the home lane that seat words give it, if they claim it (R296). -/
def homed (ws : List (BitVec 128)) (q : Nat) (e : QueueEntry) : QueueEntry := { e with home := if claimed ws q then homeOf ws q else e.home }

/-- A crew has started (R292, R296, R308): the SIMT state is parked, with the address after the `crew.enter` until a `crew.leave`
issues (the model's choice, log 78), the crew predicates are false and the stack empty, the index of strokes is 0, and every claimed
queue has its home lane; nothing else of the group but its pc differs. -/
def CrewStarted (xs : List Seat) (s t : State) : Prop :=
  t.cur.crew = some ⟨xs, [], false, true⟩ ∧
  t.cur.park = some ⟨s.cur.arch.pc + 16, s.cur.arch.em, s.cur.arch.lpart, s.cur.arch.preds, s.cur.arch.stack⟩ ∧
  (∀ q, q < 16 → queueOf t.cur q = homed (xs.map Seat.word) q (queueOf s.cur q)) ∧
  let a := { s.cur.arch with preds := [], stack := [] }
  t.cur = (movedPast 16 a { s with cur := { s.cur with crew := t.cur.crew, park := t.cur.park, pidx := 0, queues := t.cur.queues } }).cur

/-- What leaves a crew (R292, R309): the parked registers are back, but for lanes that are no longer live. -/
def CrewLeft (k : Park) (s t : State) : Prop :=
  let a := { s.cur.arch with em := k.em &&& s.cur.arch.live, lpart := k.lpart, preds := k.preds, stack := k.stack }
  t = movedPast 16 a { s with cur := { s.cur with crew := none, park := none, pidx := 0 } } ∧ SameBytes s t

/-- The state at the start of a stroke (R295, R301): every item in flight is one stroke nearer, and those that land are there. -/
def strokeStart (s : State) : State :=
  updCur landed (updCur (fun g => { g with crew := g.crew.map (fun c => { c with infl := c.infl.map (fun x => { x with lands := x.lands - 1 }) }) }) s)

/-- What the seats of a crew do in a stroke. -/
def strokeSteps (s : State) : State × List SeatStep :=
  let xs := ((strokeStart s).cur.crew.map Crew.seats).getD []
  seatSteps ((List.range xs.length).zip xs) (strokeStart s)

/-- Nothing in a stroke of compute seats can fault: no item is in flight, no flag is enabled, and at no seat does a queue that it pops
have a token at its head while another that it pops has data there (R303). -/
def StrokeSafe (s : State) (c : Crew) : Prop :=
  c.infl = [] ∧ (∀ f, f < 7 → enabledIn s.cur f = 0) ∧
  ∀ x ∈ c.seats, ∀ p ∈ popsOf x.word, ∀ q ∈ popsOf x.word,
    headTok (queueOf s.cur p) = true → (queueOf s.cur q).full = 0 ∨ headTok (queueOf s.cur q) = true

/-- One queue of the group has an entry; the others have theirs, and of the group nothing else but its pc differs. -/
def QueueBecomes (q : Nat) (e : QueueEntry) (s t : State) : Prop :=
  queueOf t.cur q = e ∧ (∀ i, i ≠ q → queueOf t.cur i = queueOf s.cur i) ∧
  t = movedPast 16 s.cur.arch { s with cur := { s.cur with queues := t.cur.queues } } ∧ SameBytes s t

/-- A queue entry with n items popped (R295). -/
def headMoved (n : Nat) (e : QueueEntry) : QueueEntry := { e with full := e.full - n, head := (e.head + n) % max e.depth 1 }

/-- A queue instruction acts on a defined queue with a number within its depth (R312). -/
def QueueReady (q n : Nat) (s : State) : Prop := active s ≠ 0 ∧ (queueOf s.cur q).valid = true ∧ n ≤ (queueOf s.cur q).depth

/-- The j-th slot after the tail of a queue. -/
def slotAfter (j : Nat) (e : QueueEntry) : Nat := if j = 0 then e.tail else (e.tail + j) % max e.depth 1

/-- A queue entry with n slots more published (R312), with its TOK bits. -/
def tailMoved (n : Nat) (tok : BitVec 16) (e : QueueEntry) : QueueEntry :=
  { e with full := e.full + n, tail := slotAfter n e, tok := tok }

/-- R292, R299, R307, R308: crew.enter of n seat words that the rules accept starts the crew; the lowest seat that they refuse raises
"crew config" with the address of its word. Without a binding. The pc that is parked until the `crew.leave` issues is the model's choice (log 78). -/
def CrewEntry : Prop :=
  ∀ s a n, CommandReady s → SeatsAt (getS s a) n.toNat s →
    let xs := enteredSeats (getS s a) n.toNat s
    (badSeat s.cur (xs.map Seat.word) = none → bindingFor s n.toNat = none → Completes (.crewEnter a n) s (fun t =>
      CrewStarted xs s t ∧ t = { s with cur := t.cur } ∧ SameBytes s t)) ∧
    (∀ i, badSeat s.cur (xs.map Seat.word) = some i →
      exec (.crewEnter a n) s = .next (raiseGroup .crewConfig (getS s a + BitVec.ofNat 64 (16 * i)) s))

/-- R379: where a pending BIND of the launch's queue has a stream not taken for a pipeline that names the group, crew.enter takes
its streams of that pipeline: each seat that a stream names gets the stream's base, and a load seat its count. Which of several
packets and pipelines that name the group it takes is the model's choice (log 49). -/
def CrewBinding : Prop :=
  ∀ s a n p, CommandReady s → SeatsAt (getS s a) n.toNat s → launchQueue s < 32 → s.queues.length = 32 →
    let xs := enteredSeats (getS s a) n.toNat s
    let bs := streamsFor s (launchQueue s) p
    badSeat s.cur (xs.map Seat.word) = none → bindingFor s n.toNat = some p →
    ((∀ x ∈ bs, x.seat < 32 ∧ (xs[x.seat]?).any isStream = true) →
      (∀ k ∈ (queueAt s (launchQueue s)).pkts, k.seq = p.1 → ∃ x ∈ k.streams, x.sink = true) → Completes (.crewEnter a n) s (fun t =>
      (∃ ys, ys.length = 32 ∧ CrewStarted ys s t ∧ ∀ i x, xs[i]? = some x → ∃ y, ys[i]? = some y ∧ y.word = x.word ∧ y.k = 0 ∧ y.fin = false ∧
        ((∀ b ∈ bs, b.seat ≠ i) → y = x) ∧
        (∀ b, bs.find? (fun b => b.seat = i) = some b → y.base = b.base.setWidth 64 ∧
          y.count = if seatBits x.word 0 8 = 0x10 then BitVec.ofNat 64 b.count else x.count)) ∧
      (∀ k ∈ (queueAt t (launchQueue s)).pkts, k.seq = p.1 → ∀ x ∈ k.streams, x.pipe = p.2 → x.taken = some s.cur.gid) ∧
      t = { s with cur := t.cur, queues := t.queues } ∧ SameBytes s t)) ∧
    (∀ x ∈ bs, x.seat < 32 → (xs[x.seat]?).any isStream = false → ∃ i, i ≤ x.seat ∧
      exec (.crewEnter a n) s = .next (raiseGroup .crewConfig (getS s a + BitVec.ofNat 64 (16 * i)) s))

/-- R309: crew.leave of a drained crew restores the parked registers and goes on in SIMT mode; of another, it waits, and leaves once
the crew has drained; without a crew it raises "crew state". -/
def CrewExit : Prop :=
  (∀ s c k, s.cur.crew = some c → s.cur.park = some k → active s ≠ 0 →
    (drainedCrew s.cur c = true → Completes .crewLeave s (CrewLeft k s)) ∧
    (drainedCrew s.cur c = false → Completes .crewLeave s (fun t => t.cur.wait = some .drain ∧ t.cur.arch = s.cur.arch ∧
      t.cur.crew = some c ∧ SameBytes s t)) ∧
    (s.cur.placed = true → s.cur.wait = some .drain → drainedCrew s.cur c = true → Completes (.crewDrained s.cur.gid) s (CrewLeft k s))) ∧
  (∀ s, s.cur.crew = none → active s ≠ 0 → exec .crewLeave s = .next (raiseOpen .crewState s))

/-- R310: seat.ld writes a seat that is empty or has finished with the word at its address, if all 32 seats then meet the rules; a
working seat raises "crew config". -/
def SeatLoad : Prop :=
  ∀ s c n a, s.cur.crew = some c → active s ≠ 0 → Quiet s → SeatsAt (getS s a) 1 s →
    let x := newSeat s (seatWord s ((getS s a).toNat % 2 ^ 57 - localBase)) (getS s a)
    ((∀ y, c.seats[n.toNat]? = some y → y.word = 0 ∨ y.fin = true) → badSeat s.cur ((c.seats.set n.toNat x).map Seat.word) = none →
      Completes (.seatLd n a) s (fun t => t.cur.crew = some { c with seats := c.seats.set n.toNat x } ∧
        (∀ q, q < 16 → queueOf t.cur q = homed ((c.seats.set n.toNat x).map Seat.word) q (queueOf s.cur q)) ∧
        t = movedPast 16 s.cur.arch { s with cur := { s.cur with crew := t.cur.crew, queues := t.cur.queues } } ∧ SameBytes s t)) ∧
    (∀ y, c.seats[n.toNat]? = some y → y.word ≠ 0 → y.fin = false → exec (.seatLd n a) s = .next (raiseGroup .crewConfig (getS s a) s))

/-- R294, R311: qdef defines an empty queue over DEP registers, which must lie in the allotment. -/
def QueueDefinition : Prop :=
  ∀ s q b dep, s.cur.crew = none → active s ≠ 0 → b.toNat + dep.toNat ≤ s.cur.allot →
    Completes (.qdef q b dep) s (fun t => queueOf t.cur q.toNat = ⟨true, b.toNat, dep.toNat, 0, 0, 0, 0, 0, 0⟩ ∧
      (∀ i, i < 16 → i ≠ q.toNat → queueOf t.cur i = queueOf s.cur i) ∧
      t = movedPast 16 s.cur.arch { s with cur := { s.cur with queues := t.cur.queues } } ∧ SameBytes s t)

/-- R295, R312: qadv.h pops n items and leaves their registers; qadv.t publishes n slots as data with the contents that their registers
have; qwait goes on once its condition holds. A condition that does not hold waits in crew mode and traps in SIMT mode; an undefined
handle or a number above the depth traps. In crew mode an instruction that issues in stroke 0 acts at the end of that stroke
(R301, R316), unless a seat faults in it. -/
def QueueInstructions : Prop :=
  (∀ s q n, QueueReady q.toNat n.toNat s → (s.cur.crew = none ∨ s.cur.pidx ≠ 0) → n.toNat ≤ (queueOf s.cur q.toNat).full →
    Completes (.qadvH q n) s (QueueBecomes q.toNat (headMoved n.toNat (queueOf s.cur q.toNat)) s)) ∧
  (∀ s q n, QueueReady q.toNat n.toNat s → s.cur.crew = none → n.toNat ≤ queueRoom (queueOf s.cur q.toNat) →
    Completes (.qadvT q n) s (fun t => ∃ tok, QueueBecomes q.toNat (tailMoved n.toNat tok (queueOf s.cur q.toNat)) s t ∧
      ∀ i, i < 16 → tok.getLsbD i = ((queueOf s.cur q.toNat).tok.getLsbD i && !((List.range n.toNat).any (fun j =>
        (slotAfter j (queueOf s.cur q.toNat)) = i))))) ∧
  (∀ s c q n, QueueReady q.toNat n.toNat s → s.cur.crew = some c → s.cur.pidx ≠ 0 → c.infl = [] → n.toNat ≤ queueRoom (queueOf s.cur q.toNat) →
    Completes (.qadvT q n) s (fun t => ∃ tok, queueOf t.cur q.toNat = tailMoved n.toNat tok (queueOf s.cur q.toNat) ∧
      (∀ i, i ≠ q.toNat → queueOf t.cur i = queueOf s.cur i) ∧ t.cur.crew = some c ∧ t.cur.arch.pc = s.cur.arch.pc + 16 ∧
      (∀ r l, getV t r l = getV s r l) ∧ SameBytes s t)) ∧
  (∀ s free q n, QueueReady q.toNat n.toNat s → (s.cur.crew = none ∨ s.cur.pidx ≠ 0) →
    n.toNat ≤ (if free then queueRoom (queueOf s.cur q.toNat) else (queueOf s.cur q.toNat).full) →
      Completes (.qwait free q n) s (Advanced 16 s)) ∧
  (∀ s free q n, QueueReady q.toNat n.toNat s →
    (if free then queueRoom (queueOf s.cur q.toNat) else (queueOf s.cur q.toNat).full) < n.toNat →
      (∀ c, s.cur.crew = some c → s.cur.pidx ≠ 0 → Completes (.qwait free q n) s (fun t => t.cur.wait = some (.queue q.toNat free n.toNat) ∧
        t.cur.arch = s.cur.arch ∧ SameBytes s t)) ∧
      (s.cur.crew = none → exec (.qwait free q n) s = .next (raiseOpen .queueState s))) ∧
  (∀ s q n, active s ≠ 0 → s.cur.crew = none →
    (queueOf s.cur q.toNat).valid = true → n.toNat ≤ (queueOf s.cur q.toNat).depth →
    ((queueOf s.cur q.toNat).full < n.toNat → exec (.qadvH q n) s = .next (raiseOpen .queueState s)) ∧
    (queueRoom (queueOf s.cur q.toNat) < n.toNat → exec (.qadvT q n) s = .next (raiseOpen .queueState s))) ∧
  (∀ s c q n, s.cur.crew = some c → s.cur.pidx ≠ 0 → QueueReady q.toNat n.toNat s →
    ((queueOf s.cur q.toNat).full < n.toNat → Completes (.qadvH q n) s (fun t =>
      t.cur.wait = some (.queue q.toNat false n.toNat) ∧ t.cur.arch = s.cur.arch ∧ t.cur.queues = s.cur.queues ∧ SameBytes s t)) ∧
    (queueRoom (queueOf s.cur q.toNat) < n.toNat → Completes (.qadvT q n) s (fun t =>
      t.cur.wait = some (.queue q.toNat true n.toNat) ∧ t.cur.arch = s.cur.arch ∧ t.cur.queues = s.cur.queues ∧ SameBytes s t))) ∧
  (∀ s c free q n, s.cur.crew = some c → s.cur.pidx = 0 → active s ≠ 0 → let u := stroke s
    ∀ i ∈ ([.qadvH q n, .qadvT q n, .qwait free q n] : List Instr),
      (u.cur.placed = false ∨ u.cur.pend ≠ none ∨ (∃ d, u.cur.crew = some d ∧ d.stopped = true) → exec i s = .next u) ∧
      (u.cur.placed = true → u.cur.pend = none → (∀ d, u.cur.crew = some d → d.stopped = false) → u.cur.pidx ≠ 0 → active u ≠ 0 →
        exec i s = exec i u)) ∧
  (∀ s free q n, active s ≠ 0 → (s.cur.crew = none ∨ s.cur.pidx ≠ 0) →
    (queueOf s.cur q.toNat).valid = false ∨ (queueOf s.cur q.toNat).depth < n.toNat →
    ∀ i ∈ ([.qadvH q n, .qadvT q n, .qwait free q n] : List Instr), exec i s = .next (raiseOpen .queueState s))

/-- R295, R301, R305: a stroke of a running crew lands the items that are due and fires its seats on that state: where no seat faults,
the index of strokes goes up by one, and where all seats compute, nothing but the group differs, which has the firings' queues, flags
and seats: so in particular where nothing is in flight, no flag is enabled, and no seat has tokens at the heads of some of the queues
that it pops and data at others. Where one faults, no seat fires, and the trap names the lowest-numbered of them. A stopped crew, and
one whose first control instruction has not issued (R316; the model's reading, log 78), does nothing. -/
def CrewStrokes : Prop :=
  ∀ s c, s.cur.placed = true → s.cur.crew = some c →
    (c.stopped = true ∨ s.cur.pend ≠ none ∨ s.cur.request = .stopped ∨ c.fresh = true → Completes (.crewStroke s.cur.gid) s (fun t => t = s)) ∧
    (c.stopped = false → s.cur.pend = none → s.cur.request ≠ .stopped → c.fresh = false →
      ((∀ x ∈ c.seats, isStream x = false) → faultsIn (strokeSteps s).2 = [] ∨ StrokeSafe s c → Completes (.crewStroke s.cur.gid) s (fun t =>
        t.cur = { (firingsIn (strokeSteps s).2).foldl (fun g f => fireQueues f g) (strokeStart s).cur with pidx := s.cur.pidx + 1 } ∧
        t = { s with cur := t.cur } ∧ SameBytes s t)) ∧
      (∀ f fs, faultsIn (strokeSteps s).2 = f :: fs → exec (.crewStroke s.cur.gid) s = .next (crewTrap f (f :: fs) (strokeSteps s).1) ∧
        ∀ x ∈ fs, f.seat < x.seat))

/-- R85, R86, R89: of the groups that wait on tags, or on FIFO banks, the one whose wait began first among those whose instruction can
go on performs it; where none can, nothing happens. -/
def WaitsServed : Prop :=
  (∀ l : List Group, (bySince l).Perm l ∧ (bySince l).Pairwise (fun g h => g.since ≤ h.since)) ∧
  (∀ (w : (Group → Bool) × (Instr → State → State) × Instr), w ∈ [(waitsTag, retryTag, Instr.tagWaitServed), (waitsFifo, retryFifo, .fifoWaitServed)] →
    ∀ s, let waits := fun g => (findGroup g.gid (onGroup g.gid (retryWith w.2.1) s)).any (fun h => h.wait.isSome)
      (∀ pre g post, bySince ((allGroups s).filter w.1) = pre ++ g :: post → (∀ h ∈ pre, waits h = true) → waits g = false →
        Completes w.2.2 s (fun t => t = onGroup g.gid (retryWith w.2.1) s)) ∧
      ((∀ g ∈ allGroups s, w.1 g = true → waits g = true) → Completes w.2.2 s (fun t => t = s))) ∧
  (∀ s s1 g n i, s.cur.placed = true → fetch s = (s1, .instr g i n) →
    ((∃ rt keep d b, i = .ldt rt keep d b) ∨ (∃ rt keep d b off, i = .ldtOff rt keep d b off) ∨ (∃ rt d b, i = .stt rt d b) ∨
      (∃ rt d b off, i = .sttOff rt d b off) → exec i (latch g s1) = .next (onGroup s.cur.gid (retryWith retryTag) s)) ∧
    ((∃ rt ty d b, i = .ld rt ty d b ∨ i = .st rt ty d b) ∨ (∃ rt ty d b off, i = .ldOff rt ty d b off ∨ i = .stOff rt ty d b off) →
      exec i (latch g s1) = .next (onGroup s.cur.gid (retryWith retryFifo) s)))

/-- R80: the switch of a bank ends: the bank has its new mode and is a FIFO at its reset values, owned by the team that asked for a
FIFO; a bank that becomes scratchpad has zero bytes and EMPTY words; the group goes on past its bmode, where no line that it has read
past a fence can leave with the bank. -/
def BankSwitchEnds : Prop :=
  ∀ s core bank m, bank < 48 → (Machine.bankOf s core bank).next = some (m, s.cur.gid) → s.cur.placed = true →
    let k := Machine.bankOf s core bank
    Completes (.bankSwitchComplete core bank) s (fun t =>
      (k.mode ≠ m → Machine.bankOf t core bank = ⟨m, none, if m = .fifo then s.cur.slot else 0, resetFifo⟩) ∧
      (k.mode = m → Machine.bankOf t core bank = { k with next := none } ∧ SameBytes s t) ∧
      (k.mode ≠ m → m = .scratch → (∀ i, i < 0x8000 → tget 0 t.smem (core * 0x180000 + 0x8000 * bank + i) = 0) ∧
        ∀ w, w < 0x2000 → tget false t.tags (core * 0x60000 + 0x2000 * bank + w) = false) ∧
      (k.mode ≠ .cache → t.mem = s.mem ∧ t.copies = s.copies) ∧
      ((∀ f, s.cur.fence = some f → k.mode ≠ .cache ∨ f.lines = []) →
        (s.cur.wait = some (.bank bank) → t.cur = (movedPast 16 s.cur.arch s).cur) ∧ (s.cur.wait ≠ some (.bank bank) → t.cur = s.cur)))

/-- R90, R91: the first item, or credit message, on the way to a bank arrives; credits let a producer end forward its head items; the
end whose peer has left breaks its link once all that was on the way has arrived. That a producer whose consumer has left goes on forwarding what its credits allow is
the model's choice (log 74: R91 says only what an end keeps after the break). -/
def FifoTransit : Prop :=
  (∀ s core bank, bank < 48 → let f := (Machine.bankOf s core bank).fifo
    (∀ x r, f.inItems = x :: r → Completes (.fifoItemArrival core bank) s (fun t =>
      Machine.bankOf t core bank = { Machine.bankOf s core bank with fifo := { f with items := f.items ++ [x], inItems := r } } ∧
      (∀ c b, b < 48 → (c, b) ≠ (core, bank) → Machine.bankOf t c b = Machine.bankOf s c b) ∧ t = { s with banks := t.banks })) ∧
    (f.inItems = [] → Completes (.fifoItemArrival core bank) s (fun t => t = s))) ∧
  (∀ s core bank n r, bank < 48 → let k := Machine.bankOf s core bank
    let p := peerOf core k.fifo
    k.fifo.inCred = n :: r → p ≠ (core, bank) → p.2 < 48 →
    (k.mode = .fifo → k.fifo.lnk = true → isConsumer k.fifo = false → Completes (.fifoCreditArrival core bank) s (fun t =>
      let m := min (k.fifo.cred + n) k.fifo.items.length
      Machine.bankOf t core bank = { k with fifo := { k.fifo with items := k.fifo.items.drop m, cred := k.fifo.cred + n - m, inCred := r } } ∧
      ((Machine.bankOf s p.1 p.2).mode = .fifo → (Machine.bankOf s p.1 p.2).fifo.lnk = true →
        (Machine.bankOf t p.1 p.2).fifo.inItems = (Machine.bankOf s p.1 p.2).fifo.inItems ++ k.fifo.items.take m) ∧
      t = { s with banks := t.banks })) ∧
    (k.mode ≠ .fifo ∨ k.fifo.lnk = false ∨ isConsumer k.fifo = true → Completes (.fifoCreditArrival core bank) s (fun t =>
      Machine.bankOf t core bank = { k with fifo := { k.fifo with cred := k.fifo.cred + n, inCred := r } } ∧ t = { s with banks := t.banks }))) ∧
  (∀ s core bank, let f := (Machine.bankOf s core bank).fifo
    (f.left = true → f.inItems = [] → f.inCred = [] → Completes (.fifoLinkBreak core bank) s (fun t =>
      Machine.bankOf t core bank = { Machine.bankOf s core bank with fifo := { f with brk := true, lnk := false, left := false } } ∧
      t = { s with banks := t.banks })) ∧
    (f.left = false ∨ f.inItems ≠ [] ∨ f.inCred ≠ [] → Completes (.fifoLinkBreak core bank) s (fun t => t = s)))

/-- R232, R278: a group becomes the one that issues where its pipe lets it: if it is ready, no other ready group of its pipe goes before
it. A group that has waited ready for 4,096 cycles goes before any that has not; 64 cycles after a yield the group is ready again. -/
def IssueOrder : Prop :=
  (∀ s g, g ∈ s.groups → g.placed = true → s.cur.placed = true → (s.cur :: s.groups).Pairwise (fun x y => x.gid ≠ y.gid) →
    let g' := { g with late := false }
    let s1 := mapGroups (fun h => if h.gid = g.gid then { h with late := false } else h) s
    selectable s1 g' = true → (ready s1 g' = true → ∀ h ∈ allGroups s1, h.gid ≠ g.gid → samePipe g h = true → ready s1 h = true → goesBefore g' h = true) ∧
      Completes (.issueSelect g.gid) s (fun t => t.cur = g' ∧ t.groups = s.cur :: s.groups.filter (fun h => h.gid ≠ g.gid) ∧
        t = { s with cur := t.cur, groups := t.groups } ∧ SameBytes s t)) ∧
  (∀ g h : Group, g.starved = true → h.starved = false → goesBefore g h = true ∧ goesBefore h g = false) ∧
  (∀ s, s.cur.placed = true → (∀ g ∈ s.groups, g.gid ≠ s.cur.gid) → s.cur.starved = false →
    (ready s s.cur = true → Completes (.issueStarvation s.cur.gid) s (fun t =>
      t = { s with cur := { s.cur with starved := true, since := s.tick + 1 }, tick := s.tick + 1 } ∧ SameBytes s t)) ∧
    (ready s s.cur = false → Completes (.issueStarvation s.cur.gid) s (fun t => t = s))) ∧
  (∀ s gid, Completes (.yieldTimeout gid) s (fun t => (∀ g ∈ allGroups t, g.gid = gid → g.yielding = []) ∧
    t = { s with cur := t.cur, groups := t.groups } ∧ (∀ g ∈ allGroups s, g.gid ≠ gid → g ∈ allGroups t) ∧ SameBytes s t))

/-- What a pre-emption request does to a group (R134, R306, R353, R354): nothing outside the gang; held under masked traps; stopped at a
pre-emption point, where a fence's speculation is discarded and the fence is to issue again, and every wait but that at a barrier or in
mwait is left; else pending. -/
def Asked (launch span : Nat) (g g' : Group) : Prop :=
  (inGang launch span g = false ∨ g.request ≠ .none → g' = g) ∧
  (inGang launch span g = true → g.request = .none →
    (masked g = true → g' = { g with request := .held }) ∧
    (masked g = false → canStop g = false → g' = { g with request := .pending }) ∧
    (canStop g = true → g'.request = .stopped ∧ g'.fence = none ∧ g'.wait = keepWait g.wait ∧ g'.posted = g.posted ∧
      (∀ f, g.fence = some f → g'.arch = { f.snap with pc := f.addr } ∧ g'.pend = none) ∧
      (g.fence = none → g.crew = none → g'.arch = g.arch ∧ g'.pend = g.pend)))

/-- R353, R354: a pre-emption request reaches every group of a gang with a save area; a gang without one keeps running. -/
def PreemptionRequests : Prop :=
  (∀ s launch span, savable s launch = true → Completes (.preemptionRequest launch span) s (fun t =>
    Asked launch span s.cur t.cur ∧ t.groups.length = s.groups.length ∧
    (∀ (i : Nat) g, s.groups[i]? = some g → ∃ g', t.groups[i]? = some g' ∧ Asked launch span g g') ∧ t = { s with cur := t.cur, groups := t.groups } ∧
    SameBytes s t)) ∧
  (∀ s launch span, savable s launch = false → Completes (.preemptionRequest launch span) s (fun t => t = s)) ∧
  (∀ s, s.cur.placed = true → (s.cur.request = .held → exec (.graceExpiry s.cur.gid) s = .next (endContext 0x83 0 0 s.cur.asid s.cur.part s)) ∧
    (s.cur.request ≠ .held → exec (.graceExpiry s.cur.gid) s = .next s))

/-- R134, R349, R362: a trap that waited is taken once no fence is incomplete: one of a deferred poison load with the address of the
next instruction; while it must wait, nothing happens. -/
def WaitingTrap : Prop :=
  ∀ s t, s.cur.placed = true → s.cur.pend = some t → s.cur.passes = none →
    (TrapReady s → ¬ (t.cause = .poison ∧ t.sub = 1) → Completes (.trapEntry s.cur.gid) s (TrapTaken t s)) ∧
    (TrapReady s → t.cause = .poison → t.sub = 1 → Completes (.trapEntry s.cur.gid) s (TrapTaken { t with epc := s.cur.arch.pc } s)) ∧
    (s.cur.fence ≠ none → exec (.trapEntry s.cur.gid) s = .next s)

/-- A physical address has its home at a line that nothing holds up (R96, R102, R113). -/
def HomeOpen (pa line : Nat) (s : State) : Prop :=
  ∃ cell, homeCell s.regions pa = some cell ∧ line = cell / 128 ∧ s.commitPend = false ∧ ∀ c ∈ s.hostAcks, c.line ≠ line

/-- A physical address has its home at a line that nothing holds up, and no error waits to be found (R419). -/
def HomeAt (pa line : Nat) (s : State) : Prop := HomeOpen pa line s ∧ NoErrors s

/-- Device memory after an operation on one line: its bytes are these, every other byte is as before. -/
def LineBytes (line : Nat) (f : Nat → Byte) (s t : State) : Prop :=
  ∀ a, tget 0 t.mem a = if a / 128 = line then f (a % 128) else tget 0 s.mem a

/-- Byte k of a line as its home has it. -/
def homeByte (s : State) (line k : Nat) : Byte := tget 0 s.mem (128 * line + k)

/-- A line's bytes with those of a mask written. -/
def storedBytes (m : LineMask) (d : LineData) (line : Nat) (s : State) (k : Nat) : Byte :=
  if m.getLsbD k = true then lineByte d k else homeByte s line k

/-- A line's bytes with the dirty words of a copy written back, in the words of a mask. -/
def cleanedBytes (m : LineMask) (c : Copy) (s : State) (k : Nat) : Byte :=
  if c.dirty.getLsbD (k / 4) = true ∧ (wordsOf m).getLsbD (k / 4) = true then lineByte c.data k else homeByte s c.line k

/-- No copy of a line is dirty. -/
def CleanLine (line : Nat) (s : State) : Prop := ∀ c ∈ s.copies, c.line = line → c.dirty = 0

/-- A load served at the home without a new copy (R102): every copy stands but for dirty bits; a holder's dirty words that the
load reads are written back. -/
def Served (m : LineMask) (line : Nat) (s t : State) : Prop :=
  t.copies.map (fun c => (c.client, c.line, c.kind, c.r, c.w, c.data)) = s.copies.map (fun c => (c.client, c.line, c.kind, c.r, c.w, c.data)) ∧
  (∀ h, holders line s = [h] → LineBytes line (if h.w &&& m = 0 then homeByte s line else cleanedBytes m h s) s t) ∧
  (holders line s = [] → t.mem = s.mem ∧ t.copies = s.copies)

/-- No other client holds a line's bytes against an access (R101, R103). -/
def NoConflict (client line : Nat) (r w : LineMask) (t : State) : Prop :=
  ∀ c ∈ t.copies, c.line = line → c.client ≠ client → c.kind = .held → conflicts r w c = false

/-- A client's copy that covers the bytes of two masks. -/
def Covers (client line : Nat) (r w : LineMask) (t : State) : Prop :=
  ∃ c, copyOf client line t = some c ∧ ∀ k, k < 128 → (r.getLsbD k = true → c.r.getLsbD k = true) ∧ (w.getLsbD k = true → c.w.getLsbD k = true)

/-- A client has a fresh copy of a line, with the home's data, in some way of its L1. -/
def FreshCopy (client line pa : Nat) (kind : CopyKind) (r w : LineMask) (s t : State) : Prop :=
  ∃ way, copyOf client line t = some ⟨client, line, pa / 128 * 128, kind, r, w, 0, memLine s line, 0, false, way⟩

/-- A client that can keep a copy: the host port, or a core with a way (R80, R105). -/
def CanKeep (client : Nat) (s : State) : Prop := client = 384 ∨ l1Ways client s ≠ 0

/-- A group has rolled back to its incomplete fence (R132, R133, R134): the registers and the queue table of the fence, no held
store, `rbk` counted; of the traps that waited only one for poison met by an access before the fence is left. -/
def RolledBack (f : FenceRec) (g g' : Group) : Prop :=
  g' = { g with arch := f.snap, queues := f.qsnap, fence := some { f with held := [], lines := [], rolls := f.rolls + 1, missed := [] },
                rbk := g.rbk + 1, wait := none, since := 0, came := none, mon := g'.mon, pend := g'.pend } ∧
  (∀ x, g'.pend = some x ↔ g.pend = some x ∧ x.cause = .poison ∧ x.sub = 1)

/-- What the loss of a line that it has read past a fence does to a group of its core (R132). -/
def LineLost (core line : Nat) (g g' : Group) : Prop :=
  (g.core ≠ core → g' = g) ∧
  (g.core = core → ((∀ f, g.fence = some f → line ∉ f.lines) → g' = { g with mon := g'.mon }) ∧
    (∀ f, g.fence = some f → line ∈ f.lines → RolledBack f g g'))

/-- What an invalidation or recall of a line does to a group of its core (R132, R179). -/
def Noticed (core line : Nat) (g g' : Group) : Prop :=
  LineLost core line g g' ∧
  (g.core = core → g'.mon = g.mon.map (fun m => if m.line = line then { m with triggered := true } else m))

/-- Every group is changed as a relation says. -/
def EachGroup (P : Group → Group → Prop) (s t : State) : Prop :=
  P s.cur t.cur ∧ t.groups.length = s.groups.length ∧ ∀ (i : Nat) g, s.groups[i]? = some g → ∃ g', t.groups[i]? = some g' ∧ P g g'

/-- A machine-check record on behalf of a partition has been written and announced with interrupt 33, or, with 1,024 records unread,
counted as dropped (R363). The interrupt follows the record (R418): it is raised where nothing holds the record's bytes up, and waits
behind them where something does. -/
def MachineChecked (part : Nat) (s t : State) : Prop :=
  t.mcSeq = s.mcSeq + 1 ∧ t.mcCons = s.mcCons ∧
  (s.mcWptr - s.mcCons ≠ 1024 → t.mcWptr = s.mcWptr + 1 ∧ t.mcDrops = s.mcDrops ∧
    (s.heldWrites = [] → s.commitPend = false → s.hostAcks = [] → (∀ c ∈ s.copies, c.client ≠ 384) → (partOf s part).replay = false →
      t.interrupts = s.interrupts ++ [33]) ∧
    (s.heldWrites ≠ [] ∨ s.commitPend = true → t.interrupts = s.interrupts ∧ HeldWrite.interrupt part 33 ∈ t.heldWrites)) ∧
  (s.mcWptr - s.mcCons = 1024 → t.mcWptr = s.mcWptr ∧ t.mcDrops = min (s.mcDrops + 1) (2 ^ 32 - 1) ∧ t.interrupts = s.interrupts)

/-- An instruction ends with a machine-check record of a kind about an address (R363), after the state u. -/
def Records (i : Instr) (kind pa part : Nat) (s : State) (P : State → Prop) : Prop :=
  ∃ u w0 kv asid, exec i s = .next (machineCheck w0 pa kv part asid u) ∧ w0.toNat % 256 = kind ∧ P u

/-- An instruction ends with a machine-check record of a kind about an address, of something detected at a time (R363, R422), after
the state u. -/
def RecordsAt (i : Instr) (kind pa part : Nat) (s : State) (P : State → Prop) : Prop :=
  ∃ u w0 kv asid time, s.clock ≤ time ∧ exec i s = .next (machineCheckAt time w0 pa kv part asid u) ∧ w0.toNat % 256 = kind ∧ P u

/-- A connection entry, UP or draining (which completes what is in flight, R410), of a partition that is not under replay, and whose wakes are not recorded (R393, R414). -/
def PeerOpen (entry : Nat) (c : Conn) (s : State) : Prop :=
  s.conns[entry]? = some c ∧ (c.state = 2 ∨ c.state = 3) ∧ (partOf s c.part).replay = false ∧ (partOf s c.part).record = false

/-- A physical address lies in a region of a partition (R95). -/
def InPart (pa part : Nat) (s : State) : Prop := ∃ e, regionAt s.regions pa = some e ∧ regionPart e = part

/-- The entries of the reduction unit at a window are flushed onto memory as it stands: one for each address, homed in one line, with no
poison and no byte of another, and no L1 holds a copy. -/
def FlushClear (w : Nat) (s : State) : Prop :=
  s.copies = [] ∧ s.redUnit.Pairwise (fun d e => d.pa ≠ e.pa) ∧
  (∀ e ∈ s.redUnit, windowAt s e.pa = s.windows[w]? → ∃ cell, e.cell = some cell ∧ cell % 128 + tyBits e.ty / 8 ≤ 128 ∧ 0 < tyBits e.ty / 8 ∧
    meetsPoison s e.pa (cell / 128) (maskRange (cell % 128) (tyBits e.ty / 8)) = false) ∧
  ∀ d ∈ s.redUnit, ∀ e ∈ s.redUnit, d.pa ≠ e.pa → ∀ x y, d.cell = some x → e.cell = some y →
    x + tyBits d.ty / 8 ≤ y ∨ y + tyBits e.ty / 8 ≤ x

/-- No group waits for a contribution that the reduction unit holds. -/
def NoMerged (s : State) : Prop := ∀ g ∈ s.cur :: s.groups, ∀ p ∈ g.posted, p.merged = false

/-- R100 to R103: after an `.own` access the client has a copy that covers its bytes and no other client holds a byte that conflicts;
where no copy is recorded, it is a fresh copy of the home's line. -/
def OwnAccessAtHome : Prop :=
  ∀ s client pa r w line, HomeAt pa line s → notKept line s = false → CanKeep client s →
    Completes (.homeOwnAccess client pa r w) s (fun t => Covers client line r w t ∧ NoConflict client line r w t ∧
      (recorded line s = [] → FreshCopy client line pa .held r w s t ∧ ∀ k, k < 128 → homeByte t line k = homeByte s line k))

/-- R97, R102: a `.wt` load with no holder records a shared copy of the whole line, a `.si` load an unrecorded one, or a recorded one
where the client is a sharer already; a `.wt` load with a holder, and any `.unc` load, are served without a copy; a holder's load is
an `.own` access. -/
def LoadsAtHome : Prop :=
  ∀ s client pa r line, HomeAt pa line s → notKept line s = false → CanKeep client s →
    ((∀ c ∈ s.copies, c.client = client → c.line = line → c.kind ≠ .held) →
      (holders line s = [] → Completes (.homeWtLoad client pa r) s (FreshCopy client line pa .shared (BitVec.allOnes 128) 0 s)) ∧
      (holders line s ≠ [] → Completes (.homeWtLoad client pa r) s (Served r line s)) ∧
      (copyOf client line s = none → holders line s = [] → Completes (.homeSiLoad client pa r) s
        (FreshCopy client line pa .unrecorded (BitVec.allOnes 128) 0 s)) ∧
      (∀ c, copyOf client line s = some c → c.kind = .shared →
        (holders line s = [] → Completes (.homeSiLoad client pa r) s (FreshCopy client line pa .shared (BitVec.allOnes 128) 0 s)) ∧
        (holders line s ≠ [] → Completes (.homeSiLoad client pa r) s (Served r line s))) ∧
      Completes (.homeUncLoad client pa r) s (Served r line s)) ∧
    (∀ c, copyOf client line s = some c → c.kind = .held → ∀ i ∈ ([.homeWtLoad client pa r, .homeSiLoad client pa r, .homeUncLoad client pa r] : List Instr),
      exec i s = exec (.homeOwnAccess client pa r 0) s)

/-- R98, R102, R105, R132, R179: a copy that is evicted, recalled or invalidated leaves its client, its dirty words written back; the home
keeps the record of a monitored line; an invalidation triggers the monitors of the line at its core, and each fence there whose
speculation read the line rolls back; an eviction by the client itself leaves the groups as they are (the model's inference, log 72); the host port owes an acknowledgement; a directory
entry's eviction recalls every recorded copy. -/
def CopiesLeave : Prop :=
  (∀ s client pa line c, HomeAt pa line s → copyOf client line s = some c → Completes (.homeEviction client pa) s (fun t =>
    LineBytes line (cleanedBytes (BitVec.allOnes 128) c s) s t ∧ t.cur = s.cur ∧ t.groups = s.groups ∧
    copyOf client line t = (if monitored client line s = true then some (monitorCopy client line c.pa) else none) ∧
    ∀ x ∈ s.copies, x.line ≠ line → x ∈ t.copies)) ∧
  (∀ s client line c, copyOf client line s = some c → Completes (.l1Invalidation client line) s (fun t =>
    LineBytes line (cleanedBytes (BitVec.allOnes 128) c s) s t ∧ copyOf client line t = none ∧ EachGroup (Noticed client line) s t ∧
    t.hostAcks = (if client = 384 then [c] else []) ++ s.hostAcks)) ∧
  (∀ s client line, copyOf client line s = none → Completes (.l1Invalidation client line) s (fun t =>
    EachGroup (Noticed client line) s t ∧ t = { s with cur := t.cur, groups := t.groups } ∧ SameBytes s t)) ∧
  (∀ s pa line, HomeAt pa line s → Completes (.directoryEntryEviction pa) s (fun t =>
    (∀ c ∈ t.copies, c.line = line → c.kind = .unrecorded) ∧ (∀ x ∈ s.copies, x.line ≠ line → x ∈ t.copies) ∧
    (∀ c, recorded line s = [c] → LineBytes line (cleanedBytes (BitVec.allOnes 128) c s) s t)))

/-- R109: a store through an untracked mapping is performed at the slice, and each recorded copy of the line becomes stale; a load
changes no copy and no byte. -/
def UntrackedAccesses : Prop :=
  ∀ s pa data asid line, HomeAt pa line s →
    (∀ w, w ≠ 0 → meetsPoison s pa line w = false → Completes (.untrackedAccess pa w data asid) s (fun t =>
      LineBytes line (storedBytes w data line s) s t ∧
      ∀ c ∈ s.copies, c.line = line → c.kind ≠ .unrecorded → ∃ c' ∈ t.copies, c'.client = c.client ∧ c'.line = line ∧ c'.stale = true)) ∧
    (meetsPoison s pa line 0 = false → Completes (.untrackedAccess pa 0 data asid) s (fun t => t.copies = s.copies ∧ SameBytes s t))

/-- R105, R108: the host's cacheable read is served by a copy of the host that has the bytes, or by one whose recall it has not yet
acknowledged, and else is a `.wt` load at the home; its read for ownership leaves it a copy with its bytes dirty; its non-caching store
and atomic are performed at the home and tell it what they read; its acknowledgement lets the line go on. -/
def HostAccesses : Prop :=
  ∀ s pa line, HomeAt pa line s →
    (∀ r c, hostHolds pa r s = some c → Completes (.hostCacheableRead pa r) s (fun t =>
      t.hostRead = wordsOfLine c.data ∧ t = { s with copies := t.copies, hostRead := t.hostRead } ∧ SameBytes s t)) ∧
    (∀ r, hostHolds pa r s = none → meetsPoison s pa line r = false → ∃ u, exec (.homeWtLoad 384 pa r) s = .next u ∧
      Completes (.hostCacheableRead pa r) s (fun t => t = { u with hostRead := wordsOfLine (hostLine pa line r u) } ∧ SameBytes u t)) ∧
    (∀ r w data, meetsPoison s pa line (r ||| w) = false → notKept line s = false →
      (∀ x ∈ s.copies, x.client = 384 → (x.pa = pa / 128 * 128 ↔ x.line = line) ∧ ∀ y ∈ s.copies, y.client = 384 → y.line = x.line → y = x) →
      Completes (.hostReadForOwnership pa r w data) s (fun t =>
      Covers 384 line 0 w t ∧ (∀ c, copyOf 384 line t = some c → ∀ k, k < 128 → w.getLsbD k = true →
        lineByte c.data k = lineByte data k ∧ c.dirty.getLsbD (k / 4) = true))) ∧
    (∀ m data, meetsPoison s pa line m = false → Completes (.hostNoncachingAccess pa false m data) s (fun t =>
        Served m line s t ∧ t.hostRead = wordsOfLine (memLine t line)) ∧
      (CleanLine line s → Completes (.hostNoncachingAccess pa true m data) s (fun t => LineBytes line (storedBytes m data line s) s t ∧
        ∀ c ∈ t.copies, c.line = line → c.kind = .shared → c.client = 384))) ∧
    (∀ op ty v e, atomOk op ty = true → pa % (tyBits ty / 8) = 0 → CleanLine line s →
      let n := tyBits ty / 8
      let old := leVal (tbytes s.mem (128 * line + pa % 128) n)
      meetsPoison s pa line (maskRange (pa % 128) n) = false → Completes (.hostAtomic pa op ty v e) s (fun t =>
        BytesPut (128 * line + pa % 128) (leBytes n (atomVal op ty old v.toNat e.toNat)) s.mem t.mem ∧ t.hostRead = [BitVec.ofNat 64 old])) ∧
    (∀ c, c.pa = pa / 128 * 128 → (∀ x ∈ s.hostAcks, x.pa ≠ pa / 128 * 128) → CoxAtRest s ∨ s.halted = true ∨ s.boot ≠ .ready →
      ∀ s', s' = { s with hostAcks := c :: s.hostAcks } → Completes (.hostPortAcknowledgement pa) s' (fun t => t = s ∧ SameBytes s' t))

/-- R106, R210, R214, R410, R414: a load, store, atomic or block accumulation from a peer on an UP group, or on one that drains (what is in flight there
completes), to a region of the group's partition, is served at its home, and a load
and an atomic are answered with what they read; to another region, it is answered as in no region, with a record. -/
def PeerAccesses : Prop :=
  ∀ s entry c pa line, PeerOpen entry c s → HomeAt pa line s →
    (InPart pa c.part s →
      (∀ m data, meetsPoison s pa line m = false →
        Completes (.peerRequest entry pa false m data) s (fun t => Served m line s t ∧ t.peerRead = wordsOfLine (memLine t line)) ∧
        (CleanLine line s → Completes (.peerRequest entry pa true m data) s (LineBytes line (storedBytes m data line s) s))) ∧
      (∀ op ty v e, atomOk op ty = true → pa % (tyBits ty / 8) = 0 → CleanLine line s →
        let n := tyBits ty / 8
        let old := leVal (tbytes s.mem (128 * line + pa % 128) n)
        meetsPoison s pa line (maskRange (pa % 128) n) = false → Completes (.peerAtomic entry pa op ty v e) s (fun t =>
          BytesPut (128 * line + pa % 128) (leBytes n (atomVal op ty old v.toNat e.toNat)) s.mem t.mem ∧ t.peerRead = [BitVec.ofNat 64 old])) ∧
      (∀ fd fs act scale elems, recordFmt fd = true → recordFmt fs = true → slotAligned fd (BitVec.ofNat 57 pa) = true → CleanLine line s →
        meetsPoison s pa line (maskRange (pa % 128) (recordBytes fd)) = false → Completes (.peerBacc ⟨entry, pa⟩ fd fs act scale elems) s (fun t =>
          ∃ new, BytesPut (128 * line + pa % 128) new s.mem t.mem ∧
            Accumulated fd fs scale.toNat act ((List.range 32).map (fun i => elems.extractLsb' (8 * i) 8))
              (tbytes s.mem (128 * line + pa % 128) (recordBytes fd)) new))) ∧
    (∀ fd fs act scale elems, recordFmt fd = false ∨ recordFmt fs = false ∨ slotAligned fd (BitVec.ofNat 57 pa) = false →
      Completes (.peerBacc ⟨entry, pa⟩ fd fs act scale elems) s (fun t => t = s)) ∧
    (∀ e wr m data, regionAt s.regions pa = some e → regionPart e ≠ c.part → Completes (.peerRequest entry pa wr m data) s (fun t =>
      MachineChecked c.part s t ∧ (wr = false → t.peerRead = List.replicate 16 (BitVec.allOnes 64))))

/-- R96, R363: an access in no region leaves a machine-check record. -/
def NoRegionAccess : Prop :=
  ∀ s pa part, (homeCell s.regions pa = none → Completes (.noRegionAccess pa part) s (MachineChecked part s)) ∧
    ((homeCell s.regions pa).isSome = true → Completes (.noRegionAccess pa part) s (fun t => t = s))

/-- R360, R361, R419: an uncorrectable error that comes up in a sector waits for a read to find it; a correctable one in a sector of the
L2 is corrected and counted. -/
def ErrorsComeUp : Prop :=
  ∀ s pa cell sector, homeCell s.regions pa = some cell → sector < 4 →
    let line := cell / 128
    (∀ otu, (∀ x ∈ s.latent, x.sector ≠ 4 * line + sector) → Completes (.softError pa sector otu) s (fun t =>
      t = { s with latent := s.latent ++ [⟨4 * line + sector, pa / 128 * 128, otu, !(s.l2.any (fun e => e.line = line && e.valid.getLsbD sector))⟩] } ∧
      SameBytes s t)) ∧
    ((∃ e ∈ s.l2, e.line = line ∧ e.valid.getLsbD sector = true) → Completes (.l2Correctable pa sector) s (fun t =>
      t = { s with corrected := s.corrected + 1 } ∧ SameBytes s t)) ∧
    ((∀ e ∈ s.l2, e.line = line → e.valid.getLsbD sector = false) → Completes (.l2Correctable pa sector) s (fun t => t = s))

/-- R111, R361, R362: an uncorrectable directory error recalls every copy of the line that its partition's cores and the host port have,
marks the line suspect and leaves a record of kind 3. A read that finds an error: in a clean sector of the L2 it leaves a record of kind
2 and the way quarantined; in a sector filled from HBM it leaves the sector poisoned and a record of kind 5; in a dirty sector that no copy
makes good it leaves the sector poisoned, its page retired, the way quarantined, and a record of kind 1. A sector without an error is
not affected. -/
def UncorrectableErrors : Prop :=
  (∀ s pa line, HomeAt pa line s →
    Records (.directoryUncorrectable pa) 3 (pa / 128 * 128) (pagePart s pa) s (fun u =>
      (∀ c ∈ u.copies, c.line = line → c.client ≠ 384 ∧ tget 0 s.coreOwner c.client ≠ pagePart s pa) ∧
      (l2Ways s line ≠ [] → ∃ e ∈ u.l2, e.line = line ∧ e.suspect = true)) ∧
    ∀ sector otu, Completes (.l2DataUncorrectable pa sector otu) s (fun t => t = s)) ∧
  (∀ s pa line sector otu hbm, HomeOpen pa line s → s.found = [] → sector < 4 →
    s.latent = [⟨4 * line + sector, pa / 128 * 128, otu, hbm⟩] →
    (hbm = true → Records (.l2DataUncorrectable pa sector otu) 5 (pa / 128 * 128) (pagePart s (pa / 128 * 128)) s (fun u =>
      4 * line + sector ∈ u.poison ∧ u.latent = [] ∧ u.found = [])) ∧
    (∀ e, hbm = false → s.l2.find? (fun e => e.line = line) = some e → CleanLine line s → (l2Ways s line).filter (fun w => w ≠ e.way) ≠ [] →
      (e.dirty.getLsbD sector = false → RecordsAt (.l2DataUncorrectable pa sector otu) 2 (pa / 128 * 128) (pagePart s (pa / 128 * 128)) s (fun u =>
        16 * (line / 2 ^ 24) + e.way ∈ u.quarantine ∧ (∀ x ∈ u.l2, x.line / 2 ^ 24 ≠ line / 2 ^ 24 ∨ x.way ≠ e.way) ∧ u.mem = s.mem)) ∧
      (e.dirty.getLsbD sector = true → RecordsAt (.l2DataUncorrectable pa sector otu) 1 (pa / 128 * 128) (pagePart s (pa / 128 * 128)) s (fun u =>
        4 * line + sector ∈ u.poison ∧ pa / 65536 ∈ u.retired ∧ 16 * (line / 2 ^ 24) + e.way ∈ u.quarantine))))

/-- R414, R416, R417: the reduction unit merges a peer's contribution into the open entry of its address, or opens one; one that no window
merges is one read-modify-write at its home; one to a region of another partition is not taken and leaves a record. The expiry of the
hold, and a write of a window, perform the operation of memory and accumulator at each entry, and close the entries. -/
def ReductionUnit : Prop :=
  (∀ s entry c pa line op ty v, PeerOpen entry c s → HomeAt pa line s → redOk op ty = true → pa % (tyBits ty / 8) = 0 →
    (InPart pa c.part s → merges s pa op ty = true →
      (∀ e, s.redUnit.find? (fun e => e.pa = pa) = some e → e.count + 1 < 64 → (∀ x ∈ s.redUnit, x.pa = pa → x = e) →
        Completes (.reductionContribution ⟨entry, pa⟩ op ty v) s (fun t =>
          t = { s with redUnit := s.redUnit.map (fun x => if x = e then
            { e with acc := redVal e.op e.ty e.acc v.toNat, count := e.count + 1, peer := true, tracked := true } else x) } ∧
          SameBytes s t)) ∧
      ((∀ e ∈ s.redUnit, e.pa ≠ pa) → s.redUnit.length < 4096 → Completes (.reductionContribution ⟨entry, pa⟩ op ty v) s (fun t =>
        t = { s with redUnit := s.redUnit ++ [⟨pa, homeCell s.regions pa, op, ty, v.toNat, 1, c.part, [], true, s.ver, true⟩] } ∧ SameBytes s t))) ∧
    (∀ e, s.redUnit.length < 4096 → (∀ e ∈ s.redUnit, e.pa ≠ pa) → regionAt s.regions pa = some e → regionPart e ≠ c.part →
      Completes (.reductionContribution ⟨entry, pa⟩ op ty v) s (fun t => MachineChecked c.part s t ∧ t.redUnit = s.redUnit))) ∧
  (∀ s entry c pa op ty v cell, homeCell s.regions pa = some cell → HomeAt pa (cell / 128) s → CleanLine (cell / 128) s → cell % 128 = pa % 128 →
    redOk op ty = true → pa % (tyBits ty / 8) = 0 →
    let n := tyBits ty / 8
    meetsPoison s pa (cell / 128) (maskRange (pa % 128) n) = false →
    (PeerOpen entry c s → InPart pa c.part s → merges s pa op ty = false → Completes (.reductionContribution ⟨entry, pa⟩ op ty v) s (fun t =>
      BytesPut cell (leBytes n (redVal op ty (leVal (tbytes s.mem cell n)) v.toNat)) s.mem t.mem)) ∧
    (∀ acc count part cores peer ver tracked, NoMerged s →
      s.redUnit.filter (fun e => e.pa = pa) = [⟨pa, some cell, op, ty, acc, count, part, cores, peer, ver, tracked⟩] →
      Completes (.reductionHoldExpiry pa) s (fun t =>
      BytesPut cell (leBytes n (redVal op ty (leVal (tbytes s.mem cell n)) acc)) s.mem t.mem ∧ t.redUnit = s.redUnit.filter (fun e => e.pa ≠ pa)))) ∧
  (∀ s w v, w < 16 → NoErrors s → NoMerged s → s.hostAcks = [] → (∀ c ∈ s.copies, c.client ≠ 384) → Completes (.reductionWindowWrite w v) s (fun t =>
    t.windows = s.windows.set w (v &&& 0x3FFFFFFFFFF000FFFFFFFFFFFF1) ∧
    t.redUnit = s.redUnit.filter (fun e => windowAt s e.pa != s.windows[w]?) ∧
    (FlushClear w s →
      (∀ e ∈ s.redUnit, windowAt s e.pa = s.windows[w]? → ∀ cell, e.cell = some cell →
        tbytes t.mem cell (tyBits e.ty / 8) = leBytes (tyBits e.ty / 8) (redVal e.op e.ty (leVal (tbytes s.mem cell (tyBits e.ty / 8))) e.acc)) ∧
      ∀ a, (∀ e ∈ s.redUnit, windowAt s e.pa = s.windows[w]? → ∀ cell, e.cell = some cell → a < cell ∨ cell + tyBits e.ty / 8 ≤ a) →
        tget 0 t.mem a = tget 0 s.mem a)))

/-- A queue's thread can take its next packet: it runs and no refused PART blocks it (R372). -/
def ThreadFree (q : Nat) (s : State) : Prop :=
  let k := queueAt s q
  q < 32 ∧ s.queues.length = 32 ∧ k.en = true ∧ k.state = 1 ∧ k.refused = false

/-- The packet at the head of a queue may be taken (R365, R370): the thread runs, its n units are submitted, they do not pass the end of
the ring, none of them waits to be read, and no check of R370 refuses them. Its bytes are bs, its words ws; reading them leaves s1. -/
def PacketTaken (q n : Nat) (ws : List Word) (bs : List Byte) (s s1 : State) : Prop :=
  let k := queueAt s q
  ThreadFree q s ∧ k.next < k.submit ∧ k.next + n ≤ k.submit ∧ n ≤ 2 ^ k.size ∧ k.next % 2 ^ k.size + n ≤ 2 ^ k.size ∧
  (∃ sh hb, readUnits k 1 k.next s = (sh, some hb) ∧ sh.queues = s.queues ∧ (pword (wordsFrom 1 hb) 0).toNat / 2 ^ 4 % 2 ^ 2 + 1 = n) ∧
  readUnits k n k.next s = (s1, some bs) ∧ ws = wordsFrom (8 * n) bs ∧ badPacket k.admin ws n = false ∧ (∀ p ∈ k.pkts, p.seq ≠ k.next) ∧
  s1.queues = s.queues

/-- INT of a packet (R368). -/
def wantsInt (ws : List Word) : Bool := (pword ws 0).toNat / 2 ^ 6 % 2 = 1

/-- The packet that was at the head of a queue has completed with a status (R371): once its status word is written it is passed with every
packet before it whose status is; the queue's own fields are otherwise f of what they were; INT raises the queue's interrupt, under replay
in its turn (R393). Where earlier writes of the Cox wait, the status word, CPL and the interrupt wait behind them (R371, R418). In a ring in
host memory the status word stands in the packet's last word. u is the state in which the status was given. -/
def PacketEnds (q n code : Nat) (ws : List Word) (f : Queue → Queue) (s u t : State) : Prop :=
  let k := queueAt s q
  let p : Bool → Pkt := fun written => ⟨k.next, n, wantsInt ws, some code, [], written, none⟩
  let r := passDone (k.pkts ++ [p true]) k.cpl
  let now := queueAt t q = { f k with next := k.next + n, pkts := r.1, cpl := r.2 }
  let later := queueAt t q = { f k with next := k.next + n, pkts := k.pkts ++ [p false] } ∧ HeldWrite.status q k.next ∈ t.heldWrites ∧
    (wantsInt ws = true → HeldWrite.interrupt k.part q ∈ t.heldWrites)
  (∀ i, i ≠ q → queueAt t i = queueAt s i) ∧ (now ∨ later) ∧ (u.heldWrites ≠ [] → later ∧ t.interrupts = u.interrupts) ∧
  (k.host = true → u.heldWrites = [] → now ∧
    ((partOf u k.part).replay = false → t.interrupts = u.interrupts ++ (if wantsInt ws then [q] else [])) ∧
    ((partOf u k.part).replay = false → (partOf u k.part).record = false →
      BytesPut (k.base + 64 * (k.next % 2 ^ k.size) + 0x38) (leBytes 8 (code + 2 ^ 16 * k.next)) u.hostMem t.hostMem))

/-- The packet at the head of a queue is taken and stays pending, with streams (R372). -/
def PacketPends (q n : Nat) (ws : List Word) (xs : List Stream) (f : Queue → Queue) (s t : State) : Prop :=
  let k := queueAt s q
  queueAt t q = { f k with next := k.next + n, pkts := k.pkts ++ [⟨k.next, n, wantsInt ws, none, xs, false, none⟩] } ∧ (∀ i, i ≠ q → queueAt t i = queueAt s i)

/-- The fields of a stream entry (R378). -/
def streamFields (e : Word × Word) : Stream :=
  ⟨BitVec.ofNat 57 e.1.toNat, e.2.toNat % 2 ^ 32, e.2.toNat / 2 ^ 32 % 2 ^ 5, e.2.toNat / 2 ^ 37 % 2 ^ 4, decide (e.2.toNat / 2 ^ 41 % 2 = 1), none, none, false, 0⟩

/-- The packet instructions of a queue. -/
def IsPacket (q : Nat) (i : Instr) : Prop :=
  i = .padPkt q ∨ i = .launchPkt q ∨ i = .configPkt q ∨ i = .bindPkt q ∨ i = .waitPkt q ∨ i = .signalPkt q ∨ i = .timedPkt q ∨ i = .partDefine q ∨
  i = .partSet q ∨ i = .partReset q ∨ i = .partDissolve q ∨ i = .partPark q ∨ i = .partResume q ∨ i = .partQreset q

/-- A record was appended to a partition's event log (R389), for a queue, with a kind, a code and data. -/
def Logged (part kind queue code : Nat) (data : Word) (s t : State) : Prop :=
  let p := partOf s part
  s.clock ≤ t.clock ∧ partOf t part = { p with elSeq := p.elSeq + 1 } ∧
  BytesPut (p.elBase + 32 * (p.elSeq % 1024)) (leBytes 8 p.elSeq ++ leBytes 8 t.clock ++
    leBytes 8 (code % 2 ^ 16 * 2 ^ 16 + queue % 32 * 2 ^ 8 + kind) ++ leBytes 8 data.toNat) s.hostMem t.hostMem

/-- Of the machine, only the queues, the clock, the free values, a partition's log position and host memory may differ. -/
def CoxOnly (s t : State) : Prop :=
  t = { s with queues := t.queues, clock := t.clock, free := t.free, parts := t.parts, hostMem := t.hostMem, interrupts := t.interrupts }

/-- A group as a launch starts it (R17, R347), apart from its place. -/
def EntryState (l : Launch) (g : Group) : Prop :=
  g.placed = true ∧ g.launch = l.id ∧ g.arch.pc = l.entry ∧ g.arch.em = allLanes ∧ g.arch.live = allLanes ∧ g.arch.lpart = 5 ∧ g.arch.stack = [] ∧
  tget 0 g.arch.sregs 0 = l.data.setWidth 64 ∧ (∀ r, 1 < r → tget 0 g.arch.sregs r = 0) ∧ g.arch.vregs = [] ∧ g.arch.preds = [] ∧ g.arch.ffl = [] ∧
  g.ften = [] ∧ g.tcause = 0 ∧ g.tvec.toNat = l.tvec.toNat / 4 * 4 ∧ g.fence = none ∧ g.crew = none ∧ g.wait = none ∧ g.role = 0 ∧ g.cls = 0

/-- A gang's engines have no piece or `sacc` under way, and nothing of the machine holds up the writes of its save area (R355). -/
def SaveReady (l : Launch) (x : Span) (s : State) : Prop :=
  (s.cur :: s.groups).Pairwise (fun g h => g.gid ≠ h.gid) ∧ NoErrors s ∧ coxIdle s = true ∧
  (∀ c ∈ s.copies, c.client ≠ 384 ∧ c.dirty = 0) ∧
  ∀ tm ∈ s.teams, tm.launch = l.id → tm.span = x.num →
    (∀ k ∈ s.slots, k.core = tm.core → k.team = tm.slot → ∀ c ∈ k.cmds, c.running = false) ∧
    (∀ c ∈ s.copyOps, c.core = tm.core → c.slot = tm.slot → c.early = [])

/-- A saved span leaves its cores (R355): no group and no team of it is there, and what is kept of it waits. Memory holds the records of its
groups and teams, one after the other from the save address of the launch on, as the writes of the Cox under the launch's ASID put them
there; a span's offset of span number times 2^32 in the area is the model's choice (log 58). u is s with its groups in another order. -/
def SpanSaved (l : Launch) (x : Span) (s t : State) : Prop :=
  (∀ g ∈ allGroups t, ¬ (g.launch = l.id ∧ g.idx.span = x.num)) ∧ (∀ tm ∈ t.teams, ¬ (tm.launch = l.id ∧ tm.span = x.num)) ∧
  ∃ u w, u = { s with groups := u.groups } ∧ u.groups.Perm s.groups ∧
    (let v := savedOf l.id x.num u
     let records := v.teams.flatMap (fun tm => (savedGroups v tm).map groupRecord ++ [teamRecord u v tm])
     putRecords (coxWho l.asid l.part) l.part (l.save.toNat + x.num * 2 ^ 32) records u = (w, true) ∧
     t.mem = w.mem ∧ t.hostMem = w.hostMem ∧ t.copies = w.copies ∧ t.saves = s.saves ++ [v])

/-- R355, R358: once every group of a gang that is one span has stopped with its writes performed, the span is saved, the records of its
groups and teams laid out in the save area; while one has not, nothing is saved. A group record holds the pc, the scalar and the vector
registers at their offsets, and a record written to the host window stands there byte by byte. That the kept copy, and not the save area, is
what a restore puts back, and where a span's records and the parts of a team record stand, is the model's choice (log 58). -/
def GangSaving : Prop :=
  (∀ s l x, s.launches.find? (fun y => y.id = l.id) = some l → l.cor = false → l.spans.filter (fun y => y.st == .placed && y.num = x.num) = [x] →
    (∀ g ∈ s.cur :: s.groups, g.request ≠ .pending) →
    (SaveReady l x s → (allGroups s).filter (inGang l.id x.num) ≠ [] → (∀ g ∈ allGroups s, inGang l.id x.num g = true → g.request = .stopped ∧ g.posted = []) →
      Completes (.gangSave l.id x.num) s (fun t => SpanSaved l x s t ∧
        ∀ y ∈ t.launches, y.id = l.id → ∀ z ∈ y.spans, z.num = x.num → z.st = .saved ∨ z.st = .parked)) ∧
    ((∃ g ∈ allGroups s, inGang l.id x.num g = true ∧ g.request ≠ .stopped) → Completes (.gangSave l.id x.num) s (fun t => t = s))) ∧
  (∀ g : Group, g.shadow.sregs.length = 8 → g.arch.stack.length ≤ 32 → g.queues.length = 16 → g.crew = none →
    let bs := groupRecord g
    bs.length = 0x1000 + 128 * g.allot ∧ leVal ((bs.drop 8).take 8) = g.arch.pc.toNat ∧
    (∀ r, r < 64 → leVal ((bs.drop (0x200 + 8 * r)).take 8) = (tget 0 g.arch.sregs r).toNat) ∧
    (∀ r l, r < g.allot → l < 32 → leVal ((bs.drop (0x1000 + 128 * r + 4 * l)).take 4) = (tget 0 g.arch.vregs (32 * r + l)).toNat)) ∧
  (∀ (w : Who) part bs (a : VAddr) pa s, (∀ i m, i < bs.length →
      translate w .store (a + BitVec.ofNat 57 i) { s with hostMem := m } = ({ s with hostMem := m }, .ok (.host (pa + i)))) →
    ∃ u, putVirt w part a bs s = (u, true) ∧ u = { s with hostMem := u.hostMem } ∧ BytesPut pa bs s.hostMem u.hostMem)

/-- R224: a group without a live lane retires once its stores are performed; a team whose groups have retired and whose engine operations
have completed leaves its core, its FIFO banks switched to cache mode, and the last team of a span makes the span done. -/
def Retirement : Prop :=
  (∀ s, canRetire s.cur = true → s.cur.posted = [] → Completes (.groupRetire s.cur.gid) s (fun t => t.cur = { s.cur with placed := false } ∧
    t.groups = s.groups.filter (fun g => g.gid ≠ s.cur.gid) ∧ t = { s with cur := t.cur, groups := t.groups } ∧ SameBytes s t)) ∧
  (∀ s, s.cur.placed = true → s.cur.arch.live ≠ 0 ∨ (∃ p ∈ s.cur.posted, p.merged = false) ∨ s.cur.fence ≠ none → Completes (.groupRetire s.cur.gid) s (fun t => t = s)) ∧
  (∀ s core slot tm, teamAt s core slot = some tm →
    (teamReady s tm = true → Completes (.teamRetire core slot) s (fun t =>
      t.teams = s.teams.filter (fun x => ¬ (x.core = core ∧ x.slot = slot)) ∧ t.slots = s.slots.filter (fun k => ¬ (k.core = core ∧ k.team = slot)) ∧
      t.copyOps = s.copyOps.filter (fun c => ¬ (c.core = core ∧ c.slot = slot)) ∧
      (∀ b, b < 48 → (Machine.bankOf s core b).mode = .fifo → (Machine.bankOf s core b).owner = slot → (Machine.bankOf t core b).mode = .cache) ∧
      ((∀ x ∈ t.teams, x.launch = tm.launch → x.span ≠ tm.span) → ∀ l ∈ t.launches, l.id = tm.launch → ∀ z ∈ l.spans, z.num = tm.span → z.st = .done))) ∧
    (teamReady s tm = false → Completes (.teamRetire core slot) s (fun t => t = s)))

/-- R364, R366, R370: a doorbell moves SUBMIT where the rules accept its value, is kept while the queue is stopped, and is otherwise logged; a
write of the control register changes its fields while EN is 0, and only ASID while it is 1; EN 1 starts the thread; EN 0 stops it. The model's choices
among its clauses: CODE 0 of the record of a refused doorbell, and EN accepted only when the device is READY (log 54); the thread that EN 1 starts again
goes on waiting in a WAIT that was kept (log 53), and no longer on a refused PART (log 59). -/
def QueueControls : Prop :=
  ∀ s q v, q < 32 → s.queues.length = 32 → s.parts.length = 8 → (queueAt s q).part < 8 →
    let k := queueAt s q
    let n := v.toNat % 2 ^ 48
    (k.state ≠ 3 → k.devenq = false → k.submit ≤ n → n ≤ k.cpl + 2 ^ k.size → Completes (.doorbell q v) s (fun t =>
      queueAt t q = { k with submit := n } ∧ (∀ i, i ≠ q → queueAt t i = queueAt s i) ∧ t = { s with queues := t.queues } ∧ SameBytes s t)) ∧
    (k.state ≠ 3 → k.devenq = true ∨ n < k.submit ∨ k.cpl + 2 ^ k.size < n → Completes (.doorbell q v) s (fun t =>
      Logged k.part 2 q 0 (BitVec.ofNat 64 n) s t ∧ t.queues = s.queues ∧ CoxOnly s t)) ∧
    (k.state = 3 → Completes (.doorbell q v) s (fun t => queueAt t q = { k with kept := k.kept ++ [n] } ∧ t = { s with queues := t.queues } ∧ SameBytes s t)) ∧
    (let asid := BitVec.ofNat 16 (v.toNat / 2 ^ 16)
     let k' := { k with asid := asid, admin := v.getLsbD 15, devenq := v.getLsbD 14, size := v.toNat % 2 ^ 5 }
     (k.en = false → v.getLsbD 13 = false → Completes (.queueEnWrite q v) s (fun t => queueAt t q = k' ∧ t = { s with queues := t.queues })) ∧
     (k.en = false → v.getLsbD 13 = true → 1 ≤ k'.size → k'.size ≤ 16 → s.boot = .ready → k.kept = [] → Completes (.queueEnWrite q v) s (fun t =>
       queueAt t q = { k' with en := true, state := if k.waits.isSome then 2 else 1, refused := false } ∧ t = { s with queues := t.queues })) ∧
     (k.en = false → v.getLsbD 13 = true → k'.size = 0 ∨ 16 < k'.size → Completes (.queueEnWrite q v) s (fun t =>
       queueAt t q = k' ∧ t = { s with queues := t.queues })) ∧
     (k.en = true → v.getLsbD 13 = true → Completes (.queueEnWrite q v) s (fun t => queueAt t q = { k with asid := asid } ∧ t = { s with queues := t.queues })) ∧
     (k.en = true → v.getLsbD 13 = false → Completes (.queueEnWrite q v) s (fun t =>
       queueAt t q = { k with asid := asid, en := false, state := 0 } ∧ t = { s with queues := t.queues })))

/-- R364, R367, R391: the reset of a queue passes everything submitted, stops it with FAULT 5 and leaves it no launch that still reports;
a snapshot gives SUBMIT, CPL, the status word and ELSEQ. That FSEQ is then SUBMIT is the model's choice (log 55). CPL passes no status word that has
still to be written (R371). -/
def QueueResetAndSnapshot : Prop :=
  (∀ s q, q < 32 → s.queues.length = 32 → Completes (.queueRst q) s (fun t =>
    let k := queueAt t q
    k.state = 3 ∧ k.fault = 5 ∧ k.fseq = (queueAt s q).submit ∧ k.submit = (queueAt s q).submit ∧ k.next = k.submit ∧ k.pkts = [] ∧ k.waits = none ∧
    (k.cpl = k.submit ∨ HeldWrite.cpl q k.submit ∈ t.heldWrites) ∧ ((queueAt s q).host = true → s.heldWrites = [] → s.hostAcks = [] → k.cpl = k.submit) ∧
    ∀ l ∈ t.launches, l.queue = q → l.orphan = true)) ∧
  (∀ s q, Completes (.queueSnapshotRead q) s (fun t => t = { s with hostRead := t.hostRead } ∧ SameBytes s t ∧
    let k := queueAt s q
    t.hostRead = [BitVec.ofNat 64 (k.submit % 2 ^ 48), BitVec.ofNat 64 (k.cpl % 2 ^ 48),
      BitVec.ofNat 64 (k.fseq % 2 ^ 48 * 2 ^ 16 + k.fault % 256 * 2 ^ 8 + k.state), BitVec.ofNat 64 ((partOf s k.part).elSeq - 1)]))

/-- R369, R371, R377 to R379: PAD completes with status 1; CONFIG writes its pipeline entry and completes; BIND is pending with its streams,
or completes with status 5 if one names a pipeline without an entry. -/
def PadConfigBind : Prop :=
  ∀ s s1 q n ws bs, PacketTaken q n ws bs s s1 →
    let u := recordWake (queueAt s q).part 1 q bs s1
    let v := (pword ws 3).toNat
    let e : PipeEntry := ⟨(pword ws 1).toNat % 2 ^ 4, (pword ws 2).toNat % 2 ^ 32, v % 2 ^ 2, v / 2 ^ 2 % 2 ^ 7, v / 2 ^ 9 % 2 ^ 4, v / 2 ^ 13 % 2 ^ 5, v / 2 ^ 18 % 2 ^ 6⟩
    let xs := ((bindEntries ws 4).take ((pword ws 1).toNat % 2 ^ 4 + 1)).map streamFields
    (kindOf ws = 0 → Completes (.padPkt q) s (PacketEnds q n 1 ws id s u)) ∧
    (kindOf ws = 3 → Completes (.configPkt q) s
      (PacketEnds q n 1 ws (fun k => { k with pipes := e :: k.pipes.filter (fun x => x.pipe ≠ e.pipe) }) s u)) ∧
    (kindOf ws = 2 → ((∀ x ∈ xs, ∃ e ∈ (queueAt s q).pipes, e.pipe = x.pipe) → Completes (.bindPkt q) s (PacketPends q n ws xs id s)) ∧
      ((∃ x ∈ xs, ∀ e ∈ (queueAt s q).pipes, e.pipe ≠ x.pipe) → Completes (.bindPkt q) s (PacketEnds q n 5 ws id s u)))

/-- R373: a WAIT whose condition holds completes with status 1, one whose target faults with status 8; otherwise the thread blocks on it,
until the condition, read again, holds. The conditions are CPL of the queue or of another, or a comparison with the 8 bytes at an
address. That a re-evaluation ends the block of a refused PART is the model's choice (log 59: R372 does not say what does). -/
def WaitPackets : Prop :=
  (∀ s s1 s2 q n ws bs b, PacketTaken q n ws bs s s1 → kindOf ws = 4 →
    let a := acceptPkt q n bs s1
    let w := (pword ws 1, pword ws 2, (pword ws 3).toNat % 2 ^ 4)
    checkWait q (queueAt s q).next w a = (s2, b) → ∀ x, s2.queues = (setQueue q (fun k => { k with seen := x }) a).queues →
    (b = some true → Completes (.waitPkt q) s (PacketEnds q n 1 ws (fun k => { k with waits := none, seen := x }) s s2)) ∧
    (b = none → Completes (.waitPkt q) s (PacketEnds q n 8 ws (fun k => { k with waits := none, seen := x }) s s2)) ∧
    (b = some false → Completes (.waitPkt q) s (PacketPends q n ws [] (fun k => { k with state := 2, waits := some w, seen := x }) s))) ∧
  (∀ s s2 q w b, q < 32 → s.queues.length = 32 → (queueAt s q).refused = false → (queueAt s q).waits = some w → (queueAt s q).state = 2 →
    checkWait q ((queueAt s q).next - 1) w s = (s2, b) → ∀ x, s2.queues = (setQueue q (fun k => { k with seen := x }) s).queues →
    (b = some false → Completes (.waitReevaluate q) s (fun t => t.queues = s2.queues)) ∧
    (b ≠ some false → Completes (.waitReevaluate q) s (fun t => (queueAt t q).state = 1 ∧ (queueAt t q).waits = none ∧
      (∀ i, i ≠ q → queueAt t i = queueAt s i)))) ∧
  (∀ s q, (queueAt s q).refused = true → Completes (.waitReevaluate q) s (fun t =>
    t = { s with queues := t.queues } ∧ t.queues = (setQueue q (fun k => { k with refused := false }) s).queues)) ∧
  (∀ s q seq a v, checkWait q seq (a, v, 0) s = (s, some (decide (seq ≤ (queueAt s q).cpl))) ∧
    checkWait q seq (a, v, 5) s = (s, some (decide (v.toNat ≤ (queueAt s (a.toNat % 32)).cpl))) ∧
    ∀ cond s2 pa, cond ∈ [1, 2, 3, 4] → coxTarget (queueAt s q) .load a s = (s2, .ok (.host pa)) →
      let x := leVal (tbytes s2.hostMem pa 8)
      checkWait q seq (a, v, cond) s = (setQueue q (fun k => { k with seen := BitVec.ofNat 64 x }) s2, some (decide ((cond = 1 ∧ x = v.toNat) ∨ (cond = 2 ∧ x ≠ v.toNat) ∨ (cond = 3 ∧ v.toNat ≤ x) ∨
        (cond = 4 ∧ x < v.toNat)))))

/-- R374: a SIGNAL to host memory stores its value, adds it, or does neither, and completes with status 1; one whose target faults completes
with status 8. While the host port has acknowledgements outstanding or a write of the Cox waits, its release is not complete (R107), and it acts later.
That OP 2 translates its address as a load, and the others as an atomic, is the model's choice (log 53). -/
def SignalPackets : Prop :=
  ∀ s s1 s2 q n ws bs pa, PacketTaken q n ws bs s s1 → kindOf ws = 5 → s1.redUnit = [] →
    let k := queueAt s q
    let op := (pword ws 3).toNat % 4
    let v := (pword ws 2).toNat
    let x := (op, pword ws 1, v)
    let a := setQueue q (fun k => { k with pkts := k.pkts.map (fun p => if p.seq = (queueAt s q).next then { p with signal := some x } else p) }) (acceptPkt q n bs s1)
    (s1.hostAcks ≠ [] ∨ s1.heldWrites ≠ [] → Completes (.signalPkt q) s (fun t => (∀ i, i ≠ q → queueAt t i = queueAt s i) ∧ t.redUnit = [] ∧
      queueAt t q = { k with next := k.next + n, pkts := k.pkts ++ [⟨k.next, n, wantsInt ws, none, [], false, some x⟩] })) ∧
    (s1.hostAcks = [] → s1.heldWrites = [] → s2.hostAcks = [] → s2.heldWrites = [] → s2.queues = a.queues →
     (∀ f, coxTarget k (if op = 2 then .load else .atomic) (pword ws 1) a = (s2, .fault f) → Completes (.signalPkt q) s (PacketEnds q n 8 ws id s s2)) ∧
     (coxTarget k (if op = 2 then .load else .atomic) (pword ws 1) a = (s2, .ok (.host pa)) → Completes (.signalPkt q) s (fun t =>
      (∃ u, PacketEnds q n 1 ws id s u t ∧ u = { s2 with hostMem := u.hostMem } ∧
        BytesPut pa (if op = 0 then leBytes 8 v else if op = 1 then leBytes 8 (leVal (tbytes s2.hostMem pa 8) + v) else []) s2.hostMem u.hostMem))))

/-- R375, R376, R381: a LAUNCH or TIMED packet whose checks pass becomes a launch, pending, with the fields of its unit; a TIMED one is held in
the stakeboat. One whose checks fail completes with the status of the first that fails: 2 for the ASID, 4 for its shape, addresses or
kernel header, and 3 for a co-resident launch that its partition's cores cannot hold at once (an inference, log 71). One whose reads wait is not taken
yet. -/
def LaunchPackets : Prop :=
  ∀ s s1 s2 q n ws bs r, PacketTaken q n ws bs s s1 →
    let a := acceptPkt q n bs s1
    let part := (queueAt s q).part
    ∀ timed, (timed = false ∧ kindOf ws = 1) ∨ (timed = true ∧ kindOf ws = 6 ∧ inStakeboat s < 64) →
    let i : Instr := if timed then .timedPkt q else .launchPkt q
    let us := if timed then ws.drop 8 else ws
    let l := launchOf q (queueAt s q).next part s1.gids (if timed then some ((pword ws 1).toNat, (pword ws 2).toNat) else none) us
    (checkLaunch l a = (s2, none) → Completes i s (fun t => t = s)) ∧
    (checkLaunch l a = (s2, some r) → s2.queues = a.queues →
    (r = none → Completes i s (fun t => PacketPends q n ws [] id s t ∧ t = { s2 with launches := s2.launches ++ [l], gids := s2.gids + 1 } ∧
      l.held = timed ∧ l.started = !timed ∧ l.entry.toNat = (pword us 1).toNat % 2 ^ 57 ∧ l.data.toNat = (pword us 2).toNat % 2 ^ 57 ∧
      l.groups = (pword us 3).toNat % 2 ^ 5 + 1)) ∧
    (∀ code, r = some code → Completes i s (PacketEnds q n code ws id s s2)) ∧
    ((asidEntry l.asid part a).2 = some false → r = some 2) ∧
    ((asidEntry l.asid part a).2 = some true → shapeOk l = false ∨ l.entry.toNat % 64 ≠ 0 ∨ l.data.toNat % 4096 ≠ 0 → r = some 4) ∧
    (∀ h, (asidEntry l.asid part a).2 = some true → shapeOk l = true → diesOk (asidEntry l.asid part a).1 l = true → l.entry.toNat % 64 = 0 →
      l.data.toNat % 4096 = 0 → (readHeader true l.asid part l.entry (asidEntry l.asid part a).1).2 = some (some h) → headerFits l h = true →
      l.cor = true → spansFit s2 l = false → r = some 3))

/-- R370: a packet of more units than the ring has stops the queue with fault 2; one whose units pass the ring's end, with fault 1; a bad packet,
with fault 3; FSEQ is its sequence. A thread that does not run, or whose packet is not all submitted or waits to be read, takes nothing. That the fault 2 of an
oversize packet comes before all its units lie below SUBMIT is the model's choice (log 54: they can never). -/
def QueueFaults : Prop :=
  ∀ s q i, IsPacket q i → q < 32 → s.queues.length = 32 →
    let k := queueAt s q
    (k.en = false ∨ k.state ≠ 1 ∨ k.submit ≤ k.next ∨ k.refused = true ∨ (k.host = false ∧ coxWaits s (k.base + 64 * (k.next % 2 ^ k.size)) = true) → Completes i s (fun t => t = s)) ∧
    (∀ sh hb n, ThreadFree q s → k.next < k.submit → readUnits k 1 k.next s = (sh, some hb) → sh.queues = s.queues →
      n = (pword (wordsFrom 1 hb) 0).toNat / 2 ^ 4 % 2 ^ 2 + 1 →
      (2 ^ k.size < n → Completes i s (fun t => queueAt t q = { k with state := 3, fault := 2, fseq := k.next })) ∧
      (n ≤ 2 ^ k.size → k.submit < k.next + n → Completes i s (fun t => t = s)) ∧
      (n ≤ 2 ^ k.size → k.next + n ≤ k.submit → 2 ^ k.size < k.next % 2 ^ k.size + n →
        Completes i s (fun t => queueAt t q = { k with state := 3, fault := 1, fseq := k.next })) ∧
      (∀ sr bs, n ≤ 2 ^ k.size → k.next + n ≤ k.submit → k.next % 2 ^ k.size + n ≤ 2 ^ k.size → readUnits k n k.next s = (sr, some bs) → sr.queues = s.queues →
        badPacket k.admin (wordsFrom (8 * n) bs) n = true → Completes i s (fun t => queueAt t q = { k with state := 3, fault := 3, fseq := k.next })))

/-- R17, R223, R383 to R386: in a round with one candidate, a span that fits is placed: each core of it could take a team and has one, at its place in its
cluster, every new group stands in the entry state; a span that fits nowhere ages. A round without a candidate changes nothing but that no round is due
on its die; that none begins while the Cox may not read is the model's choice (log 69). -/
def PlacementRounds : Prop :=
  (∀ s die, coxIdle s = false → Completes (.placementRound die) s (fun t => t = s)) ∧
  (∀ s die, coxIdle s = true → candidates s die = [] → Completes (.placementRound die) s (fun t => SameBytes s t ∧
    t = { s with roundDue := s.roundDue.filter (fun d => d ≠ die), known := s.known.filter (fun k => k.1 ≠ die) })) ∧
  (∀ s die c l x, coxIdle s = true → NoErrors s → s.launches.Pairwise (fun y z => y.id ≠ z.id) → candidates s die = [c] → s.launches.find? (fun y => y.id = c.launch) = some l → l.spans.filter (fun y => c.spans.contains y.num) = [x] →
    x.st = .waiting → l.timed = none →
    (∀ cs, packSpan s l x = some cs → Completes (.placementRound die) s (fun t =>
      (∀ d ∈ cs.flatten, canTake s l d = true) ∧ (∀ i j cl core, cs[i]? = some cl → cl[j]? = some core →
        ∃ tm ∈ t.teams, tm.core = core ∧ tm.launch = l.id ∧ tm.span = x.num ∧ tm.cluster = i ∧ tm.pos = j ∧ tm.asid = l.asid) ∧
      (∀ g ∈ t.groups, (∃ h ∈ s.groups, h.gid = g.gid) ∨ EntryState l g) ∧
      (∀ tm ∈ t.teams, tm ∈ s.teams ∨ (tm.launch = l.id ∧ tm.span = x.num ∧ tm.core ∈ cs.flatten)) ∧
      (∀ y ∈ t.launches, y.id = l.id → ∀ z ∈ y.spans, z.num = x.num → z.st = .placed))) ∧
    (packSpan s l x = none → Completes (.placementRound die) s (fun t => t = { s with launches := t.launches, roundDue := t.roundDue, known := t.known } ∧ SameBytes s t ∧
      ∀ y ∈ t.launches, y.id = l.id → ∀ z ∈ y.spans, z.num = x.num → z.age = min (x.age + 1) 255)))

/-- R382: a TIMED launch leaves the stakeboat for the marshals when the clock has reached T - LEAD, and its groups may issue when it has reached
T. That the event moves the clock there, where it has not come so far, is the model's choice (log 23). -/
def TimedLaunches : Prop :=
  (∀ s id l t0 lead, s.launches.find? (fun x => x.id = id && x.held) = some l → l.timed = some (t0, lead) → (partOf s l.part).record = false →
    Completes (.stakeboatRelease id) s (fun t =>
      t = { s with clock := max s.clock (t0 - lead), launches := s.launches.filter (fun x => x.id ≠ id) ++ [{ l with held := false }] } ∧ SameBytes s t)) ∧
  (∀ s id l t0 lead, s.launches.find? (fun x => x.id = id && !x.started && !x.held) = some l → l.timed = some (t0, lead) →
    Completes (.timedStart id) s (fun t => t = { s with clock := max s.clock t0,
                                                        launches := s.launches.map (fun x => if x.id = id then { x with started := true } else x) } ∧ SameBytes s t))

/-- A PART packet of an operation is taken: its target partition is p; a is the state after it is taken (R388). -/
def PartTaken (q op p n : Nat) (ws : List Word) (s a : State) : Prop :=
  ∃ s1 bs, PacketTaken q n ws bs s s1 ∧ a = acceptPkt q n bs s1 ∧ kindOf ws = 7 ∧ (pword ws 1).toNat % 2 ^ 3 = op ∧ p = (pword ws 1).toNat / 2 ^ 4 % 2 ^ 3 ∧
    s1.parts.length = 8

/-- Bit b of a bit map that begins at a packet's word i. -/
def mapBit (ws : List Word) (i b : Nat) : Bool := (pword ws (i + b / 64)).getLsbD (b % 64)

/-- A queue stands as the reset of rung 2 leaves it (R391); CPL passes no status word that has still to be written (R371). -/
def QueueReset (q : Nat) (t : State) : Prop :=
  let k := queueAt t q
  k.state = 3 ∧ k.fault = 5 ∧ (k.cpl = k.submit ∨ HeldWrite.cpl q k.submit ∈ t.heldWrites) ∧ k.next = k.submit ∧ k.pkts = [] ∧ ∀ l ∈ t.launches, l.queue = q → l.orphan = true

/-- An entry of the connection table changed, with the table the device then keeps of unreachable peers (R413). -/
def ConnBecomes (i : Nat) (c : Conn) (s t : State) : Prop :=
  connAt t i = c ∧ (∀ j, j ≠ i → connAt t j = connAt s j)

/-- An entry changes and nothing is announced. -/
def ConnQuiet (i : Nat) (c : Conn) (s t : State) : Prop :=
  ConnBecomes i c s t ∧ t = { s with conns := t.conns, noRoute := t.noRoute } ∧ SameBytes s t

/-- An entry changes and a bandwidth-change event follows (R412): a record of kind 6 and interrupt 32, under replay in its turn (R393). -/
def ConnAnnounced (i : Nat) (c : Conn) (s t : State) : Prop :=
  ConnBecomes i c s t ∧ ((partOf s c.part).replay = false → t.interrupts = s.interrupts ++ [32]) ∧ (c.part < 8 → s.parts.length = 8 → (partOf t c.part).elSeq = (partOf s c.part).elSeq + 1) ∧
  (c.part < 8 → s.parts.length = 8 → (partOf s c.part).record = false → (partOf s c.part).replay = false →
    Logged c.part 6 0 c.lanes (BitVec.ofNat 64 (i + 2 ^ 8 * c.peer + 2 ^ 16 * litTo t c.peer)) s t)

/-- What a device reset leaves (R79, R364, R387, R391, R406 to R409, R415, R426): nothing resident, every register at its reset value; memory,
the clock and what is outside the device stay. A die at 110 degrees stops it at once where the boot begins (R425). -/
def DeviceReset (b : Boot) (s t : State) : Prop :=
  t.boot = b ∧ (t.halted = true ↔ b = .boot ∧ ∃ x ∈ s.temps, 1100 ≤ x) ∧ t.coxSram = [] ∧ t.cur.placed = false ∧ t.groups = [] ∧ t.teams = [] ∧ t.launches = [] ∧ t.saves = [] ∧ t.copies = [] ∧ t.copyOps = [] ∧ t.slots = [] ∧
  (∀ q, queueAt t q = newQueue) ∧ (∀ c k, Machine.bankOf t c k = resetBank) ∧ (∀ p, partOf t p = newPart) ∧ (∀ i, connAt t i = newConn) ∧
  (∀ c, tget 0 t.coreOwner c = 0) ∧ t.regions = List.replicate 16 0 ∧ t.windows = List.replicate 16 0 ∧ t.asidBase = 0 ∧ t.ver = 0 ∧ t.mcSeq = 0 ∧
  t.mem = s.mem ∧ t.hostMem = s.hostMem ∧ t.peerMem = s.peerMem ∧ t.clock = s.clock ∧ t.interrupts = s.interrupts

/-- A rung of the ladder that the whole device takes has been logged in every partition, once the boot has been (R391); of a device that a fatal error
has stopped too, which is the model's choice (log 60). -/
def RungLogged (s u : State) : Prop :=
  u = { s with parts := u.parts, clock := u.clock, free := u.free, hostMem := u.hostMem } ∧
  (s.boot = .ready ∨ s.boot = .dumped → s.parts.length = 8 → ∀ p, p < 8 → (partOf u p).elSeq = (partOf s p).elSeq + 1) ∧
  (s.boot ≠ .ready → s.boot ≠ .dumped → u = s)

/-- R387, R388: DEFINE gives idle resources to its partition, with its bases, and completes with status 1; DISSOLVE gives an idle partition's
resources back to partition 0; where a resource is busy, each completes with status 8, changes no owner and blocks its thread (R372). SET writes the controls, and raises what interrupts
the end of a replay lets through (R393). That DEFINE and DISSOLVE make one test of what is idle, and DISSOLVE of partition 0 none, is the model's choice (log 59);
so is the DATA 0 of the rungs' records (log 60). -/
def PartitionControl : Prop :=
  ∀ s a q p n ws,
    (PartTaken q 0 p n ws s a →
      let queues := (List.range 32).filter (fun b => mapBit ws 14 (32 + b))
      let idle := allIdle a p ((List.range 384).filter (mapBit ws 8)) ((List.range 256).filter (mapBit ws 16)) ((List.range 32).filter (mapBit ws 14)) queues
      (idle = true → Completes (.partDefine q) s (fun t =>
        (∀ c, tget 0 t.coreOwner c = if c < 384 ∧ mapBit ws 8 c = true then p else tget 0 a.coreOwner c) ∧
        (∀ c, tget 0 t.sliceOwner c = if c < 256 ∧ mapBit ws 16 c = true then p else tget 0 a.sliceOwner c) ∧
        (∀ c, tget 0 t.engineOwner c = if c < 32 ∧ mapBit ws 14 c = true then p else tget 0 a.engineOwner c) ∧
        (∀ i, i < 32 → (queueAt t i).part = if i ∈ queues then p else (queueAt a i).part) ∧
        (partOf t p).elBase = (pword ws 2).toNat ∧ (partOf t p).rpBase = (pword ws 3).toNat ∧ (partOf t p).recBase = (pword ws 4).toNat ∧
        (partOf t p).recSize = (pword ws 5).toNat ∧
        ∃ u, PacketEnds q n 1 ws id (giveTo p ((List.range 384).filter (mapBit ws 8)) ((List.range 256).filter (mapBit ws 16))
          ((List.range 32).filter (mapBit ws 14)) queues s) u t ∧ u = { a with parts := u.parts, queues := u.queues, coreOwner := u.coreOwner, sliceOwner := u.sliceOwner, engineOwner := u.engineOwner })) ∧
      (idle = false → Completes (.partDefine q) s (fun t => PacketEnds q n 8 ws (fun k => { k with refused := true }) s a t ∧ t.coreOwner = a.coreOwner ∧ t.sliceOwner = a.sliceOwner ∧
        t.engineOwner = a.engineOwner))) ∧
    (PartTaken q 1 p n ws s a → Completes (.partSet q) s (fun t =>
      (∃ u, u = { a with parts := u.parts, interrupts := u.interrupts, clock := u.clock, free := u.free, hostMem := u.hostMem } ∧
        ((partOf a p).heldInts = [] → u = { a with parts := u.parts }) ∧ PacketEnds q n 1 ws id s u t) ∧
      (partOf t p).grace = (pword ws 2).toNat ∧ (partOf t p).agemax = (pword ws 3).toNat % 2 ^ 8 ∧ (partOf t p).uexp = (pword ws 3).toNat / 2 ^ 8 % 2 ^ 5 ∧
      (partOf t p).record = (pword ws 3).getLsbD 13 ∧ (partOf t p).replay = (pword ws 3).getLsbD 14 ∧ (partOf t p).watchdog = (pword ws 4).toNat)) ∧
    (PartTaken q 3 p n ws s a →
      let cores := (List.range 384).filter (fun c => tget 0 a.coreOwner c = p)
      let slices := (List.range 256).filter (fun c => tget 0 a.sliceOwner c = p)
      let engines := (List.range 32).filter (fun c => tget 0 a.engineOwner c = p)
      let queues := (List.range 32).filter (fun k => (queueAt a k).part = p)
      let idle := p = 0 ∨ allIdle a 0 cores slices engines queues = true
      (idle → Completes (.partDissolve q) s (fun t => (∀ c, c < 384 → tget 0 t.coreOwner c = if tget 0 a.coreOwner c = p then 0 else tget 0 a.coreOwner c) ∧
        (∀ c, c < 256 → tget 0 t.sliceOwner c = if tget 0 a.sliceOwner c = p then 0 else tget 0 a.sliceOwner c) ∧
        (∀ c, c < 32 → tget 0 t.engineOwner c = if tget 0 a.engineOwner c = p then 0 else tget 0 a.engineOwner c) ∧
        (∀ i, i < 32 → (queueAt t i).part = if (queueAt a i).part = p then 0 else (queueAt a i).part) ∧
        ∃ u, PacketEnds q n 1 ws id (giveTo 0 cores slices engines queues s) u t ∧
          u = { a with queues := u.queues, coreOwner := u.coreOwner, sliceOwner := u.sliceOwner, engineOwner := u.engineOwner })) ∧
      (¬ idle → Completes (.partDissolve q) s (fun t => PacketEnds q n 8 ws (fun k => { k with refused := true }) s a t ∧ t.coreOwner = a.coreOwner ∧
        t.sliceOwner = a.sliceOwner ∧ t.engineOwner = a.engineOwner)))

/-- R388, R391: RESET (rung 3) ends every launch of its partition, resets its queues and banks and its grace time; PARK (rung 1) marks the placed
gangs of a queue that have a save area; RESUME makes its parked gangs candidates again; QRESET (rung 2) resets a queue. That rung 3 puts only GRACE back
among the partition's controls is the model's choice (log 60). -/
def RecoveryLadder : Prop :=
  ∀ s a q p n ws, q < 32 → NoErrors a →
    (PartTaken q 2 p n ws s a → Completes (.partReset q) s (fun t => (∀ l ∈ t.launches, l.part ≠ p) ∧
      (∀ i, i < 32 → (queueAt s i).part = p → QueueReset i t) ∧ (partOf t p).grace = 100000 ∧
      (∀ c b, c < 384 → tget 0 a.coreOwner c = p → b < 48 → (Machine.bankOf t c b).mode = .cache))) ∧
    (PartTaken q 4 p n ws s a → (a.launches.Pairwise (fun x y => x.id ≠ y.id)) → Completes (.partPark q) s (fun t =>
      (∃ u, PacketEnds q n 1 ws id s u t) ∧ ∀ y ∈ t.launches, y.queue = (pword ws 2).toNat % 2 ^ 5 → y.save ≠ 0 → ∀ z ∈ y.spans, z.st = .placed → z.toPark = true)) ∧
    (PartTaken q 5 p n ws s a → Completes (.partResume q) s (fun t => PacketEnds q n 1 ws id s a t ∧
      t.launches = a.launches.map (fun l => if l.queue = (pword ws 2).toNat % 2 ^ 5 then { l with spans := l.spans.map resumeSpan } else l))) ∧
    (PartTaken q 6 p n ws s a → Completes (.partQreset q) s (fun t => QueueReset ((pword ws 2).toNat % 2 ^ 5) t ∧
      ((pword ws 2).toNat % 2 ^ 5 ≠ q → ∃ s' u, (∀ i, i ≠ (pword ws 2).toNat % 2 ^ 5 → queueAt s' i = queueAt s i) ∧ PacketEnds q n 1 ws id s' u t)))

/-- R391, R393: a group whose watchdog time has passed parks its gang, if it has a save area, with a record; a replay presents the next record of
the ring: a packet is submitted once its ring has room, any other record is passed over; an interrupt whose cause comes under replay is raised when it is the next that the
ring records, waits while another is, and is raised at once where the ring records none. The model's choices: no record of a watchdog without a save area (log 60); SUBMIT
as the place of a replayed packet, and what becomes of an interrupt that the ring does not hold (log 62). -/
def WatchdogAndReplay : Prop :=
  (∀ s l, s.cur.placed = true → s.launches.find? (fun y => y.id = s.cur.launch) = some l → (s.launches.Pairwise (fun x y => x.id ≠ y.id)) →
    s.parts.length = 8 →
    ((partOf s s.cur.part.toNat).watchdog ≠ 0 → l.save ≠ 0 → Completes (.groupWatchdog s.cur.gid) s (fun t => SameBytes s { t with hostMem := s.hostMem } ∧
      (partOf t s.cur.part.toNat).elSeq = (partOf s s.cur.part.toNat).elSeq + 1 ∧
      ∀ y ∈ t.launches, y.id = l.id → ∀ z ∈ y.spans, z.st = .placed → z.num = s.cur.idx.span → z.toPark = true)) ∧
    ((partOf s s.cur.part.toNat).watchdog = 0 ∨ l.save = 0 → Completes (.groupWatchdog s.cur.gid) s (fun t => t = s))) ∧
  (∀ s p, p < 8 → s.parts.length = 8 →
    let c := partOf s p
    let h := leVal (ringRead s c c.replayPos 8)
    let n := h / 2 ^ 16 % 2 ^ 16
    let body := ringRead s c (c.replayPos + 16) n
    let moved := { c with replayPos := (c.replayPos + 16 + (n + 15) / 16 * 16) % c.recSize }
    (c.replay = false ∨ c.recSize = 0 ∨ h % 2 ^ 8 = 0 → Completes (.replayPresent p) s (fun t => t = s)) ∧
    (c.replay = true → c.recSize ≠ 0 →
      (h % 2 ^ 8 ∉ [0, 1] ∨ (h % 2 ^ 8 = 1 ∧ 32 ≤ h / 2 ^ 8 % 2 ^ 8) → Completes (.replayPresent p) s (fun t => partOf t p = moved ∧ t = { s with parts := t.parts } ∧ SameBytes s t)) ∧
      (h % 2 ^ 8 = 1 → h / 2 ^ 8 % 2 ^ 8 < 32 → s.queues.length = 32 →
        let q := h / 2 ^ 8 % 2 ^ 8
        let k := queueAt s q
        (k.en = false ∨ k.cpl + 2 ^ k.size < k.submit + n / 64 → Completes (.replayPresent p) s (fun t => t = s)) ∧
        (k.en = true → k.host = true → s.heldWrites = [] → k.submit + n / 64 ≤ k.cpl + 2 ^ k.size → Completes (.replayPresent p) s (fun t =>
          queueAt t q = { k with submit := k.submit + n / 64 } ∧ partOf t p = moved ∧
          t = { s with queues := t.queues, parts := t.parts, hostMem := t.hostMem } ∧
          (n = 64 → BytesPut (k.base + 64 * (k.submit % 2 ^ k.size)) body s.hostMem t.hostMem)))))) ∧
  (∀ s p v, p < 8 → s.parts.length = 8 → v < 2 ^ 64 → (partOf s p).record = false → (partOf s p).heldInts = [] →
    let c := partOf s p
    let t := interrupt p v s
    let next := nextOf s c 4 (c.recSize / 16) c.replayInt
    t = { s with interrupts := t.interrupts, parts := t.parts } ∧
    (c.replay = false ∨ c.recSize = 0 ∨ next = none → t.interrupts = s.interrupts ++ [v] ∧ partOf t p = c) ∧
    (c.replay = true → c.recSize ≠ 0 → ∀ x body at_, next = some (x, body, at_) →
      (leVal body = v → t.interrupts = s.interrupts ++ [v] ∧ partOf t p = { c with replayInt := at_ }) ∧
      (leVal body ≠ v → t.interrupts = s.interrupts ∧ partOf t p = { c with heldInts := [v] })))

/-- R390, R401: the umpire of a partition with waiters that have not changed for its time, and that it has not reported, writes a report of up to 30 entries at the next
place of its ring and logs it; where it has reported them all, it does nothing. Which of them are still for the umpire's time is free (log 6); that sets are told apart by what
their waiters wait for with what counts, and that WAITED is at least the umpire's time, are the model's choices (log 61). A barrier's entry counts the participants that have arrived, a tag's tells the awaited state. -/
def UmpireReports : Prop :=
  (∀ s p, (∀ w ∈ stillWaiters s p, digest w ∈ (partOf s p).reported) → Completes (.umpireReport p) s (fun t => t = s)) ∧
  (∀ s p, p < 8 → s.parts.length = 8 → (∃ w ∈ stillWaiters s p, digest w ∉ (partOf s p).reported) → (partOf s p).rpSeq < 2 ^ 64 →
    (partOf s p).uexp < 32 →
    let c := partOf s p
    let ws := stillWaiters s p
    (∀ w ∈ ws, w ∈ waitersOf s p) ∧
    Completes (.umpireReport p) s (fun t => (partOf t p).rpSeq = c.rpSeq + 1 ∧ (partOf t p).reported = ws.map digest ∧ ∃ u bs, bs.length = 1024 ∧
      BytesPut (c.rpBase + 1024 * (c.rpSeq % 64)) bs s.hostMem u.hostMem ∧
      Logged p 4 0 0 (BitVec.ofNat 64 (c.rpBase + 1024 * (c.rpSeq % 64))) u t ∧ leVal (bs.take 8) = c.rpSeq ∧
      leVal ((bs.drop 18).take 1) = min 30 ws.length ∧ ∀ (i : Nat) w, i < 30 → ws[i]? = some w → leVal ((bs.drop (64 + 32 * i)).take 1) = w.kind % 256 ∧
        2 ^ (c.uexp - 12) ≤ leVal ((bs.drop (88 + 32 * i)).take 4))) ∧
  (∀ s (g : Group) l, g.crew = none → g.wait = some (.bar l) → ∃ w, groupWaiters s g = [w] ∧ w.kind = 5 ∧
    w.have_ = ((allGroups s).filter (fun h => sameInstance l g h && (h.wait == some (.bar l)))).length ∧
    w.want = ((allGroups s).filter (sameInstance l g)).length) ∧
  (∀ s (g : Group) want k ks, g.crew = none → g.wait = some (.tag want (k :: ks)) → ∃ w, groupWaiters s g = [w] ∧ w.kind = 1 ∧ w.want = want.toNat)

/-- R409 to R412: the states of a connection group: REQ 1 leads from DOWN to SETUP, or to FAULT for a port that does not exist; the far entry leads from SETUP to
UP with eight lanes, or to FAULT, and from UP to DRAIN; errors, counted here or at the far entry, feather the lanes or fault the group; DRAIN ends in DOWN; REQ 0 leads from SETUP and
FAULT to DOWN, from UP to DRAIN. ERRCNT counts replays, and is cleared by a read, a feather and each window; that it counts in DRAIN too, and that a feather of the far
entry leaves it, is the model's choice (log 63). -/
def ConnectionGroups : Prop :=
  ∀ s i, i < 96 → s.conns.length = 96 →
    let c := connAt s i
    (c.state = 0 → c.pport ≤ 11 → Completes (.connReqUp i) s (ConnQuiet i { c with req := true, state := 1, lanes := 0 } s)) ∧
    (c.state = 0 → 11 < c.pport → Completes (.connReqUp i) s (ConnAnnounced i { c with req := true, state := 4, lanes := 0 } s)) ∧
    (c.state ≠ 0 → Completes (.connReqUp i) s (ConnQuiet i { c with req := true } s)) ∧
    (c.state = 1 ∨ c.state = 4 → Completes (.connReqDown i) s (ConnQuiet i { c with req := false, state := 0, lanes := 0 } s)) ∧
    (c.state = 2 → Completes (.connReqDown i) s (ConnQuiet i { c with req := false, state := 3 } s)) ∧
    (c.state = 0 ∨ c.state = 3 → Completes (.connReqDown i) s (ConnQuiet i { c with req := false } s)) ∧
    (c.state = 1 → ∀ f ∈ [FarState.setupMatch, .upMatch], Completes (.connFarEntry i f) s (ConnAnnounced i { c with state := 2, lanes := 8 } s)) ∧
    (c.state = 1 → Completes (.connFarEntry i .setupOther) s (ConnAnnounced i { c with state := 4, lanes := 0 } s)) ∧
    (c.state = 2 → Completes (.connFarEntry i .leftUp) s (ConnQuiet i { c with state := 3 } s)) ∧
    (c.state = 2 → c.errth ≠ 0 → c.errth ≤ c.errcnt →
      (1 < c.lanes → Completes (.connFeather i) s (ConnAnnounced i { c with lanes := c.lanes / 2, errcnt := 0 } s)) ∧
      (c.lanes ≤ 1 → Completes (.connFeather i) s (ConnAnnounced i { c with state := 4, lanes := 0 } s))) ∧
    (c.state = 2 → 1 < c.lanes → Completes (.connFarFeather i) s (ConnAnnounced i { c with lanes := c.lanes / 2 } s)) ∧
    (c.state ≠ 2 ∨ c.lanes ≤ 1 → Completes (.connFarFeather i) s (fun t => t = s)) ∧
    (c.state = 3 → Completes (.connDrainComplete i) s (ConnAnnounced i { c with state := 0, lanes := 0 } s)) ∧
    Completes (.connErrcntRead i) s (fun t => ConnBecomes i { c with errcnt := 0 } s t ∧ t.hostRead = [connWord c] ∧
      t = { s with conns := t.conns, hostRead := t.hostRead } ∧ SameBytes s t) ∧
    Completes (.errcntWindowExpiry i) s (ConnQuiet i { c with errcnt := 0 } s) ∧
    (c.state = 2 ∨ c.state = 3 → Completes (.replayedTransfer i) s (ConnQuiet i { c with errcnt := min (c.errcnt + 1) 255 } s))

/-- R282, R285, R363, R364, R406, R409: the registers of the package window as the driver writes them, and the clock's step and lock. A write of REQ
before the boot is done has no effect, which is the model's choice (log 64). -/
def PackageWindow : Prop :=
  ∀ s v,
    Completes (.registerWrite 0x008 v) s (fun t => t = { s with asidBase := v &&& 0x000FFFFFFFF00000 } ∧ SameBytes s t) ∧
    (∀ j (h : Bool), j < 16 → s.shadowRegions.length = 16 → Completes (.registerWrite (0x1100 + 16 * j + 8 * h.toNat) v) s (fun t =>
      t = { s with shadowRegions := t.shadowRegions } ∧ (∀ i, i ≠ j → t.shadowRegions[i]? = s.shadowRegions[i]?) ∧
      ∀ e, s.shadowRegions[j]? = some e → ∃ e', t.shadowRegions[j]? = some e' ∧
        e'.extractLsb' (64 * h.toNat) 64 = v &&& (if h then 0x00001FFFFFFFFFFF else 0x000FFFFFFFF00000) ∧
        e'.extractLsb' (64 * (!h).toNat) 64 =
          e.extractLsb' (64 * (!h).toNat) 64 &&& (if h then 0x000FFFFFFFF00000 else 0x00001FFFFFFFFFFF))) ∧
    (∀ j (h : Bool), j < 16 → exec (.registerWrite (0x800 + 16 * j + 8 * h.toNat) v) s =
      exec (.reductionWindowWrite j (putHalf (s.windows.getD j 0) h v)) s) ∧
    (v.getLsbD 0 = true → s.boot = .ready → exec (.registerWrite 0x048 v) s = exec .tableCommitGo s) ∧
    exec (.registerWrite 0x068 v) s = exec (.mcconsWrite v) s ∧
    (∀ q, q < 32 → s.boot = .ready → exec (.registerWrite (0x10000 + 64 * q + 0x10) v) s = exec (.doorbell q v) s ∧
      (v.getLsbD 12 = false → exec (.registerWrite (0x10000 + 64 * q + 8) v) s = exec (.queueEnWrite q v) s)) ∧
    (∀ i, i < 96 → s.conns.length = 96 → s.boot ≠ .ready → let c := connAt s i
      Completes (.registerWrite (0x100 + 8 * i) v) s (ConnQuiet i (if c.state = 0 then { c with errth := v.toNat / 2 ^ 32 % 2 ^ 8, peer := v.toNat / 2 ^ 56 % 2 ^ 8, pport := v.toNat / 2 ^ 52 % 2 ^ 4, part := v.toNat / 2 ^ 45 % 2 ^ 3 }
        else { c with errth := v.toNat / 2 ^ 32 % 2 ^ 8 }) s)) ∧
    (∀ off, off % 8 ≠ 0 → Completes (.registerWrite off v) s (fun t => t = s)) ∧
    (s.mcCons ≤ v.toNat → v.toNat ≤ s.mcWptr → Completes (.mcconsWrite v) s (fun t => t = { s with mcCons := v.toNat } ∧ SameBytes s t)) ∧
    (v.toNat < s.mcCons ∨ s.mcWptr < v.toNat → Completes (.mcconsWrite v) s (fun t => t = s)) ∧
    (Completes (.clockStep v) s (fun t => t = { s with clock := v.toNat, stepped := t.stepped } ∧
      (∀ l ∈ s.launches, (∃ x ∈ l.spans, x.st = .placed ∨ x.st = .saved ∨ x.st = .parked) → l.asid.toNat + 65536 * l.part ∈ t.stepped) ∧ (∀ k ∈ s.stepped, k ∈ t.stepped) ∧ SameBytes s t)) ∧
    (∀ lock, Completes (.grandmasterLockChange lock) s (fun t => t = { s with clockLock := lock } ∧ SameBytes s t))

/-- R73, R95, R364, R406 to R409, R415, R418: what the driver's read of the package window returns: the fixed registers, the connection entries, whose
ERRCNT it clears, the three tables, the queue registers, and zero at a reserved offset. -/
def WindowReads : Prop :=
  ∀ s,
    let reads := fun off (v : Word) => Completes (.windowRead off) s (fun t => t = { s with hostRead := [v] } ∧ SameBytes s t)
    reads 0x000 (BitVec.ofNat 64 s.devno) ∧ reads 0x008 s.asidBase ∧ (∀ d, d < 4 → reads (0x010 + 8 * d) (BitVec.ofNat 64 (s.ratios.getD d 0))) ∧
    (∃ v, reads 0x040 v ∧ v.toNat % 2 ^ 3 = s.ver.toNat ∧ (v.getLsbD 3 = s.commitPend)) ∧
    reads 0x048 (if s.commitGo = 0 then 0 else 1) ∧ reads 0x050 (BitVec.ofNat 64 s.mcBase) ∧ reads 0x058 (BitVec.ofNat 64 s.mcDrops) ∧
    reads 0x060 (BitVec.ofNat 64 s.mcWptr) ∧ reads 0x068 (BitVec.ofNat 64 s.mcCons) ∧
    (∀ i, i < 96 → exec (.windowRead (0x100 + 8 * i)) s = exec (.connErrcntRead i) s) ∧
    (∀ (h : Bool) w, w < 16 →
      reads (0x800 + 16 * w + 8 * h.toNat) ((s.windows.getD w 0).extractLsb' (64 * h.toNat) 64) ∧
      reads (0x1000 + 16 * w + 8 * h.toNat) ((s.regions.getD w 0).extractLsb' (64 * h.toNat) 64) ∧
      reads (0x1100 + 16 * w + 8 * h.toNat) ((s.shadowRegions.getD w 0).extractLsb' (64 * h.toNat) 64)) ∧
    (∀ q i, q < 32 → i < 8 → reads (0x10000 + 64 * q + 8 * i) ((queueBlock s q).getD i 0)) ∧
    (∀ off, (0x030 ≤ off ∧ off < 0x040) ∨ (0x070 ≤ off ∧ off < 0x100) ∨ (0x400 ≤ off ∧ off < 0x800) ∨ (0x900 ≤ off ∧ off < 0x1000) ∨
      (0x1200 ≤ off ∧ off < 0x10000) ∨ 0x10800 ≤ off → reads off 0)

/-- R73: the Cox reads the fault records of a die, in their order; that they are pending no longer is the model's choice (log 82). -/
def FaultBufferReads : Prop :=
  ∀ s die, Completes (.faultBufferRead die) s (fun t => t = { s with faultsRead := t.faultsRead, faults := t.faults } ∧
    t.faultsRead = s.faults.filter (fun r => r.die = die) ∧ (∀ r, r ∈ t.faults ↔ r ∈ s.faults ∧ r.die ≠ die))

/-- R391, R424 to R427: a device reset and a power cycle leave the reset state of the device, its memory standing, after the record of their rung in every
partition's log; power comes back to boot step 1; with the firmware written, an accepted blob makes the device READY with cleared memory and the blob's
fields, and a die that is too hot by then stops it; one that is not accepted makes it BADBLOB; a loss of input power is logged with its time. The model's choices: a
blob is taken in BADBLOB too, it needs the firmware, and a die at 100 degrees has its effect at READY (log 64); the rungs' records stand in every partition's log (log 60). -/
def BootSteps : Prop :=
  (∀ s, (s.boot ≠ .off → Completes .deviceReset s (fun t => ∃ u, RungLogged s u ∧ DeviceReset .boot u t)) ∧
    (s.boot = .off → Completes .deviceReset s (fun t => t = s)) ∧
    Completes .modulePowerCycle s (fun t => ∃ u, RungLogged s u ∧ DeviceReset .off u t) ∧
    (s.boot = .off → Completes .powerUp s (DeviceReset .boot s)) ∧ (s.boot ≠ .off → Completes .powerUp s (fun t => t = s)) ∧
    (s.boot ≠ .off → Completes .inputVoltageFault s (fun t => t.boot = .off ∧ t.groups = [] ∧ s.clock ≤ t.clock ∧ t.bmcLog = s.bmcLog ++ [t.clock])) ∧
    (s.boot = .off → Completes .inputVoltageFault s (fun t => t = s))) ∧
  (∀ s (b : Blob), (s.boot = .boot ∨ s.boot = .badblob) ∧ s.halted = false →
    (blobOk b = true → s.coxSram ≠ [] →
      ((∀ x ∈ s.temps, x < 1100) → Completes (.blobGo b) s (fun t => t.boot = .ready ∧ t.halted = false ∧ t.devno = b.devno.toNat ∧ t.ratios = b.ratios ∧
        t.retired = b.retired ∧ t.dumpBase = b.dumpBase ∧ t.dumpSize = b.dumpSize ∧ (∀ a, tget 0 t.mem a = 0) ∧ t.queues = s.queues ∧
        ((∀ x ∈ s.temps, x < 1000) → t.hostMem = s.hostMem) ∧
        (s.parts.length = 8 → ∀ p, p < 8 → (partOf t p).elSeq = (partOf s p).elSeq + (s.temps.filter (fun x => 1000 ≤ x)).length))) ∧
      ((∃ x ∈ s.temps, 1100 ≤ x) → Completes (.blobGo b) s (fun t => t.halted = true))) ∧
    (blobOk b = true → s.coxSram = [] → Completes (.blobGo b) s (fun t => t = s)) ∧
    (blobOk b = false → Completes (.blobGo b) s (fun t => t = { s with boot := .badblob } ∧ SameBytes s t)) ∧
    (∀ off v, Completes (.firmwareWrite off v) s (fun t => t = { s with coxSram := t.coxSram } ∧ SameBytes s t ∧
      ∀ a, tget 0 t.coxSram a = if a = off then v else tget 0 s.coxSram a))) ∧
  (∀ s, s.boot = .ready ∨ s.boot = .dumped ∨ s.boot = .off ∨ s.halted = true →
    (∀ (b : Blob), Completes (.blobGo b) s (fun t => t = s)) ∧ ∀ off v, Completes (.firmwareWrite off v) s (fun t => t = s))

/-- R425, R428, R429: the first fatal error after the boot stops the device and begins the dump, with its signature and its cause, VALID still 0, at the dump
region; a further one counts in the dump while it is written; VALID comes last, and the device is DUMPED. In the boot an error stops the device without a
dump. A die at 110 degrees is one, a die at 100 degrees is logged in every partition (the model's choice, log 64). That the dump begins in the step of the error, is
complete with an event of its own, and ends with its region is the model's choice (log 64). A stopped device takes no step of its own. -/
def FatalErrors : Prop :=
  (∀ s c, s.boot = .ready → s.halted = false → ∃ u bs, u.boot = .ready ∧ u.halted = true ∧ u.fatals = 0 ∧ u.mem = s.mem ∧ u.dumpBase = s.dumpBase ∧
    u.dumpSize = s.dumpSize ∧ bs.length = 0x13000 ∧ leVal (bs.take 8) = 0x46444D50 ∧
    leVal ((bs.drop 8).take 8) = (match c with | .firmware => 1 | .watchdog => 2 | .routingDie => 3 | .thermal => 4) ∧
    exec (.fatalError c) s = .next (putDump 0 bs u)) ∧
  (∀ s, exec .coxWatchdogExpiry s = exec (.fatalError .watchdog) s) ∧
  (∀ s c, s.boot = .ready → s.halted = true → exec (.fatalError c) s =
    .next (putDump 9 [BitVec.ofNat 8 (min (s.fatals + 1) 255)] { s with fatals := min (s.fatals + 1) 255 })) ∧
  (∀ s c, s.boot = .boot ∨ s.boot = .badblob → Completes (.fatalError c) s (fun t => t = { s with halted := true } ∧ SameBytes s t)) ∧
  (∀ s c, s.boot = .dumped → s.halted = true → Completes (.fatalError c) s (fun t => t = s)) ∧
  (∀ s c, s.boot = .off → Completes (.fatalError c) s (fun t => t = s)) ∧
  (∀ s, s.halted = true → s.boot = .ready → Completes .dumpComplete s (fun t => t.boot = .dumped ∧ t.halted = true ∧
    ∀ cell, 5 ≤ s.dumpSize → homeCell s.regions (s.dumpBase + 4) = some cell → s.copies = [] → NoErrors s → tget 0 t.mem cell = 1)) ∧
  (∀ s, s.halted = false ∨ s.boot ≠ .ready → Completes .dumpComplete s (fun t => t = s)) ∧
  (∀ s die x, die < 4 → s.temps.length = 4 →
    let s' := { s with temps := s.temps.set die x }
    (x < 1000 ∨ (1000 ≤ s.temps.getD die 0 ∧ x < 1100) ∨ 1100 ≤ s.temps.getD die 0 → Completes (.junctionTemperature die x) s (fun t => t = s' ∧ SameBytes s t)) ∧
    (1000 ≤ x → x < 1100 → s.temps.getD die 0 < 1000 → s.boot = .ready → s.halted = false → s.parts.length = 8 →
      Completes (.junctionTemperature die x) s (fun t => t.temps = s'.temps ∧ ∀ p, p < 8 → (partOf t p).elSeq = (partOf s p).elSeq + 1)) ∧
    (1100 ≤ x → s.temps.getD die 0 < 1100 → exec (.junctionTemperature die x) s = exec (.fatalError .thermal) s')) ∧
  (∀ s, s.halted = true → s.sched = [] → step s = .fault .issueStopped)

/-- The values that the rules state for the machine right after reset (R79, R88, R95, R364, R387, R388, R407 to R409, R415, R426): boot in progress, nothing
resident, all banks in cache mode, every queue disabled with SIZE 4, every resource partition 0's, every group DOWN, no valid region or window, the
grace time 100 microseconds, AGEMAX 8 and the umpire's exponent 20. -/
def ResetValues : Prop :=
  let s := State.reset
  s.boot = .boot ∧ s.halted = false ∧ s.coxSram = [] ∧ s.groups = [] ∧ s.cur.placed = false ∧ s.teams = [] ∧ s.launches = [] ∧ (∀ c b, (Machine.bankOf s c b).mode = .cache ∧
    (Machine.bankOf s c b).fifo.items = [] ∧ (Machine.bankOf s c b).fifo.cfg = 4) ∧
  (∀ q, q < 32 → (queueAt s q).en = false ∧ (queueAt s q).state = 0 ∧ (queueAt s q).size = 4 ∧ (queueAt s q).submit = 0 ∧ (queueAt s q).cpl = 0 ∧
    (queueAt s q).part = 0) ∧
  (∀ c, tget 0 s.coreOwner c = 0 ∧ tget 0 s.sliceOwner c = 0 ∧ tget 0 s.engineOwner c = 0) ∧ (∀ i, i < 96 → (connAt s i).state = 0 ∧ (connAt s i).req = false) ∧
  (∀ a, regionAt s.regions a = none) ∧ (∀ a, windowAt s a = none) ∧
  (∀ p, p < 8 → (partOf s p).grace = 100000 ∧ (partOf s p).agemax = 8 ∧ (partOf s p).uexp = 20 ∧ (partOf s p).record = false ∧ (partOf s p).replay = false) ∧
  s.ver = 0 ∧ s.commitPend = false ∧ s.tablesOk = true ∧ s.sizesOk = true

/-- Every step keeps the memories, the tags and the banks in their canonical form, in which equal contents are equal data. -/
def StepKeepsTables : Prop := ∀ s t, s.tablesOk = true → step s = .next t → t.tablesOk = true

/-- Every step keeps the numbers of registers that the rules fix (R95, R364, R387, R409, R415). -/
def StepKeepsSizes : Prop := ∀ s t, s.sizesOk = true → step s = .next t → t.sizesOk = true

/-- Decoding an encoded well-formed instruction gives it back with its guard and its length (R21, R26 to R53). -/
def EncodingRoundTrip : Prop :=
  ∀ g i w, encode g i = some w → i.wf = true → guardOk g i = true → decode w = .ok g i (instrBytes i)

/-- A word that decodes is the encoding of what it decodes to: every bit of the instruction is a field's or is as its entry requires, and the instruction
is well-formed (R26 to R54). -/
def DecodingIsExact : Prop :=
  ∀ w g i n, decode w = .ok g i n → i.wf = true ∧ guardOk g i = true ∧ n = instrBytes i ∧ encode g i = some (BitVec.ofNat 128 (w.toNat % 2 ^ (8 * n)))

/-- A step runs the decoded instruction (R21 to R25): where nothing else is due and the issuing group may issue, the step is the meaning of the instruction
that the fetch at its pc gives, under its guard, or the entry of the fetch's trap; a fetch whose line or walk waits holds the group. The fetch of a device
address gives what the bytes there decode to, or, where the length code crosses a 32-byte block, an illegal instruction of sub-cause 2. An event that is due
and reaches the device is what the step runs instead, and before both a placement round that is due, unless a further cause of one shares its cycle (log 6), and what the
device itself must do first. What a step is, is the model's choice (log 1). -/
def StepRunsDecoded : Prop :=
  (∀ s t, duty s = some t → step s = .next t) ∧
  (∀ s d, duty s = none → dueRound s = some d → (s.sched = [] → step s = .next (placementRound d s)) ∧
    ∀ i rest, s.sched = i :: rest → step s = .next (placementRound d (nextFree s)) ∨ (causesRound i = true ∧
      step s = if reaches { nextFree s with sched := rest } i then exec i { nextFree s with sched := rest } else .next { nextFree s with sched := rest })) ∧
  (∀ s i rest, duty s = none → dueRound s = none → s.sched = i :: rest →
    (reaches { s with sched := rest } i = true → step s = exec i { s with sched := rest }) ∧
    (reaches { s with sched := rest } i = false → step s = .next { s with sched := rest })) ∧
  (∀ s s1 r, duty s = none → dueRound s = none → s.sched = [] → s.halted = false → s.cur.placed = true → mayIssue s = true → fetch (beforeFetch s) = (s1, r) →
    (∀ g i n, r = .instr g i n → step s = exec i { s1 with cur := { s1.cur with guard := g, crew := s1.cur.crew.map (fun c => { c with fresh := false }) } }) ∧
    (∀ x, r = .trap x → step s = .next (raise x s1)) ∧
    (r = .wait → step s = .next (if s1.cur.placed = false ∨ s1.cur.wait ≠ none then s1 else block .posted s1))) ∧
  (∀ s s1 s2 pa tr cell, translateP (whoOf s.cur) .fetch s.cur.arch.pc s = (s1, .ok (.dev pa tr)) → homeCell s1.regions pa = some cell →
    lineBusy s1 (cell / 128) = false → s2 = checkSectors (cell / 128) (sectorsOf (maskRange (cell % 128) 1)) s1 → s2.cur.placed = true →
    s1.cur.arch.pc = s.cur.arch.pc → s2.cur.arch.pc = s.cur.arch.pc → cellPoisoned s2 cell 1 = false → jumpsAstray (memWord s2 pa) s2 = false →
    (∀ i, i < 4 → cachedWord s1 (s.cur.arch.pc.toNat + 4 * i) = none ∧ cachedWord s2 (s.cur.arch.pc.toNat + 4 * i) = none) →
    let n := lenBytes (lenCode (BitVec.ofNat 128 (leVal (peekBytes s2 pa 4))))
    (s.cur.arch.pc.toNat % 32 + n ≤ 32 → ∀ g i k, decode (BitVec.ofNat 128 (leVal (peekBytes s2 pa n))) = .ok g i k → (fetch s).2 = .instr g i k) ∧
    (32 < s.cur.arch.pc.toNat % 32 + n → ∃ addr, (fetch s).2 = .trap ⟨.illegal, 2, groupMask s2, addr, s.cur.arch.pc⟩))

/-- Words written out from the encodings decode to their instructions: four of the worked example, then one of each format and family (R26 to R53). -/
def DecodedWords : Prop :=
  decodeTableWord 32 0x10619C0C = some (.saddImm 6 6 4) ∧
  decodeTableWord 32 0xFFFE84C4 = some (.bra 0x3fffa) ∧
  decodeTableWord 64 0x0000D00141011D11 = some (.fadd .f32 .rn 4 4 5) ∧
  decodeTableWord 128 0x00000014000000000020B0400001C943 = some (.stOff .wt .b32 7 ⟨0, none⟩ 0x14) ∧
  decodeTableWord 32 0x1C615C08 = some (.sadd 5 6 7) ∧
  decodeTableWord 32 0xF86ADCA4 = some (.scmpI64Imm .ge 3 6 62) ∧
  decodeTableWord 32 0x80115CB4 = some (.smovImm 5 0x801) ∧
  decodeTableWord 96 0x000000230000004001815CC2 = some (.saddLit 5 6 35) ∧
  decodeTableWord 32 0x00039CC8 = some (.call 14) ∧
  decodeTableWord 64 0x0030340D1980DD01 = some (.icmp .i32 .le 3 102 52) ∧
  decodeTableWord 128 0x00000000000000090000358D19B21D03 = some (.imad .i32 200 102 52 9) ∧
  decodeTableWord 64 0x0060D24D1980DD11 = some (.fcmp .f32 .un 3 102 52) ∧
  decodeTableWord 64 0x0001700D19B21D21 = some (.tadd .tap32 200 102 52) ∧
  decodeTableWord 64 0x00D2E0001A321D29 = some (.cvt .rz false .f16 .f32 200 104) ∧
  decodeTableWord 64 0x00D0B0C019B21D31 = some (.scan true .xor .b32 200 102) ∧
  decodeTableWord 128 0x0000123400002D000000B00019B21D3B = some (.rhash 200 102 45 0x1234) ∧
  decodeTableWord 128 0xFFFFFFFC000000000110B081C0321D43 = some (.ldtOff .own true 200 ⟨7, none⟩ 0xfffffffc) ∧
  decodeTableWord 128 0x000000100000000A00C03001C8721D63 = some (.aadd .device .i32 200 ⟨7, some 33⟩ 16 10) ∧
  decodeTableWord 128 0x0000002000042D0900B14001C8401D6B = some (.bacc .span .e4m3 .e2m1 ⟨7, some 33⟩ 32 9 45) ∧
  decodeTableWord 64 0x0110000000001D71 = some (.fence .rel .device) ∧
  decodeTableWord 128 0x0000000000002D0000000041C1815D83 = some (.copyArm false 5 6 7 45) ∧
  decodeTableWord 128 0x0000000000006D00001100C1C1815D8B = some (.mma true .e4m3 1 5 6 7 45) ∧
  decodeTableWord 128 0x0000001000000000000000C00D02DD93 = some (.qdef 11 52 16) ∧
  decodeTableWord 128 0x00000023000000000000014000015DC3 = some (.srRd 5 0x023)

end Sys2Proof.Claims

open Sys2Proof Sys2Proof.Machine

/-- R239, R240: sadd, ssub, smul, smulh, sand, sor, sxor, smin and smax in every form write their result once for the group, move past their bytes and change nothing else. R240: the scalar shifts in every form; the count is taken modulo 64. R242: scmp in every form writes its result in all 32 lanes of a predicate (p7 stays true), where a lane is active. R243: smov in every form, sclz, sctz, spopc and sbrev. -/
def Obligations.ScalarInstructions : Prop := Sys2Proof.Claims.ScalarArithmetic ∧ Sys2Proof.Claims.ScalarShifts ∧ Sys2Proof.Claims.ScalarCompare ∧ Sys2Proof.Claims.ScalarMovesAndCounts

/-- R241: sdiv and srem in every form, with the results by zero and their flags. -/
def Obligations.ScalarDivisionAndRemainder : Prop := Sys2Proof.Claims.ScalarDivision

/-- R243, R245: what the counts of zeros and ones and the reversal are, bit by bit. R245, R246, R248: what the integer operations compute, on patterns of the type's width: with .sat the exact result clamped and IOV where that changed it; the least value by -1 and the negation of the least value wrap with IOV; a right shift rounds down, with the sign of the type. -/
def Obligations.IntegerValues : Prop := Sys2Proof.Claims.BitCountsAndReversal ∧ Sys2Proof.Claims.IntegerResults

/-- R235, R245, R246: the two-source integer instructions, register and literal forms. R245, R247, R248: the other integer instructions. R247: icmp in both forms. -/
def Obligations.VectorInteger : Prop := Sys2Proof.Claims.IntegerTwoSources ∧ Sys2Proof.Claims.IntegerOneOrThreeSources ∧ Sys2Proof.Claims.IntegerCompare

/-- R250 to R256: the floating-point instructions that write a vector register. The values of fexp2, flog2, frcp, frsq, fsin and fcos rest on the free value of log 20 within the bounds of R254. R253, R257: fcmp and tcmp in both forms. -/
def Obligations.VectorFloatingPoint : Prop := Sys2Proof.Claims.FloatingPoint ∧ Sys2Proof.Claims.FloatAndTaperedCompare

/-- R257 to R260: the tapered arithmetic and the conversions. -/
def Obligations.TaperedAndConversionInstructions : Prop := Sys2Proof.Claims.TaperedAndConversions

/-- R261 to R265, R267: the cross-lane instructions and rhash. R266: lpart with an accepted set size sets LOG; any other size traps. -/
def Obligations.CrossLaneInstructions : Prop := Sys2Proof.Claims.CrossLane ∧ Sys2Proof.Claims.LanePartition

/-- R14, R239, R268: an instruction of these families without an active lane only advances. -/
def Obligations.NoActiveLaneAdvances : Prop := Sys2Proof.Claims.NoActiveLane

/-- R270, R271: bra and call, and jmp and calli to an aligned address. R22, R271: jmp and calli to an address that is not a multiple of 4 raise "illegal instruction", sub-cause 1, whatever the guard; the taddr of that trap is free (log 21). -/
def Obligations.BranchesAndJumps : Prop := Sys2Proof.Claims.BranchInstructions ∧ Sys2Proof.Claims.MisalignedJumpTraps

/-- R226, R273, R274: join, emrd, emwr, emand and emandn. Every write to `em` is ANDed with the live lanes (R225). R226, R276: nop only advances; halt takes the active lanes out of the live ones and continues at the highest PATH, or with none of the group's lanes, `em` as it was (R225). R226: arrival at a JOIN. Where the highest JOIN names the pc: if it is on top, it is popped and `em` becomes its mask; if a PATH is on top, the PATH is popped and the group continues there. Where it does not, nothing happens. -/
def Obligations.MasksAndReconvergence : Prop := Sys2Proof.Claims.MaskOperations ∧ Sys2Proof.Claims.NopAndHalt ∧ Sys2Proof.Claims.ArrivalAtJoin

/-- R347, R349: trap entry where the handler runs. R279: trap and bkpt take their trap: the software trap saves the address after it, the breakpoint its own. -/
def Obligations.TrapEntryState : Prop := Sys2Proof.Claims.TrapEntry ∧ Sys2Proof.Claims.TrapAndBreakpoint

/-- R280, R351: tret while traps are masked restores `em` (within the live lanes), LOG, s56 to s63 and the depth of the reconvergence stack from the shadow, clears MASK and continues at tepc; a crew runs again; a pre-emption request that was held stops the group there. With traps not masked it raises "trap state". -/
def Obligations.TrapReturnRestores : Prop := Sys2Proof.Claims.TrapReturn

/-- R237: where an active lane raises an enabled flag, an integer, floating-point or tapered instruction of two registers takes the arithmetic trap: the flags accrue, no destination is written, tlm names the trapping lanes. R231: a vector instruction that names a register outside the allotment raises "register range" whatever its guard, with the lowest such register in taddr. R154: the stages of a memory instruction: a lane that faults in translation traps with the kind of the lowest failing lane, tlm the failing lanes and taddr its address. R352: a trap with traps masked, or without a handler address, ends the context with the code 0x82 or 0x81. -/
def Obligations.TrapsRaised : Prop := Sys2Proof.Claims.ArithmeticTrap ∧ Sys2Proof.Claims.RegisterRangeTrap ∧ Sys2Proof.Claims.TranslationFaultTraps ∧ Sys2Proof.Claims.UnhandledTrapEndsContext

/-- R281, R282: sr.rd of every special register that can be read writes its value; the clock status read clears STEP; the table-control register is read by a privileged group only. R281, R282, R347, R350: sr.wr of tvec, tepc (while traps are masked), ffl and ften writes the register and nothing else; tepc with traps not masked raises "special register". -/
def Obligations.SpecialRegisters : Prop := Sys2Proof.Claims.SpecialRegisterReads ∧ Sys2Proof.Claims.SpecialRegisterWrites

/-- R88, R90: a write of a FIFO configuration register, and of the credit-return register, as sr.wr and as the row of its own; with LEN = 1 the link becomes active once each end names the other. A configuration that is not legal, and a return that is not, raise "FIFO configuration". The model's choices: the peer's partition is checked where LEN = 1 alone (log 41), and a bank counts as unlinked until its link is active (log 74). R285: ptp.rd writes the device clock, which never goes back. R286, R287: once the dirty words of its core are written back, enq with a legal target and room puts the packet of eight scalar registers into its die's buffer and writes 0 to the predicate in all lanes; without room it writes 1. The buffer's oldest packet is then written to the target ring's next unit, little-endian, and SUBMIT advances: in host memory, or in device memory at the homes of the unit's bytes where nothing holds the write up. That the release of enq writes dirty words back at once is the model's reading (log 76). -/
def Obligations.FifoRegistersClockAndEnqueue : Prop := Sys2Proof.Claims.FifoRegisterWrites ∧ Sys2Proof.Claims.ClockRead ∧ Sys2Proof.Claims.Enqueue

/-- R229, R277: role n enters a declared role with an empty reconvergence stack: its allotment, class and entry; a vector register that becomes reachable reads zero, and every other keeps its value. Otherwise "role state" is raised. R278: yield moves on and gives up the pipe to the groups of it that are ready. -/
def Obligations.RolesAndYield : Prop := Sys2Proof.Claims.RoleChange ∧ Sys2Proof.Claims.Yield

/-- R68, R69, R283: gen.bump by a privileged group, or of the own ASID, advances the current generation at once and waits; once the cores have written back what they hold dirty and every access of the ASID that issued before it is performed it moves on, with a lap flush for generation 0. The same for a bump that the Cox makes for the driver. Of another ASID by an unprivileged group gen.bump raises "privilege". R113, R284, R406: fence.table and GO make the shadow region table active under the next version and a commit pending; the commit completes once nothing issued under another version is in flight, and then the fence moves on, and a GO that was written meanwhile makes the next commit. -/
def Obligations.GenerationsAndTableCommit : Prop := Sys2Proof.Claims.GenerationBump ∧ Sys2Proof.Claims.TableCommit

/-- R154, R157, R158: ld in both forms, where its lanes translate and lead to memory: the lanes of its destination receive what the reads give (R154: the group runs on after them); the reads themselves are those of the statements on what lanes read. R137, R158: what the lanes of a load read. An aligned lane's value is that of the n bytes of one read at its location, a misaligned one's that of its bytes, each read by itself, and all ones where one of them meets poison (R362); and over plain memory every lane of an instruction has the value of the bytes that stand at its locations. R97, R137, R157, R158: what a read at a location gives, and that it leaves the registers: scratchpad bytes, host memory, device memory through an untracked mapping or where no copy of any line exists, and the core's own copy where it serves the load. -/
def Obligations.Loads : Prop := Sys2Proof.Claims.Load ∧ Sys2Proof.Claims.LanesRead ∧ Sys2Proof.Claims.ReadAtLocation

/-- R156, R157, R158: st in both forms, where its lanes translate and lead to memory, hands over its posted writes and moves on: no byte changes yet. R137, R139, R156: the posted writes of a store whose lanes are aligned and do not overlap: one for each lane, of its value at its location. R84, R98, R102, R156: a posted write performed at its target puts its bytes there and changes no other byte: a scratchpad (whose words become FULL, R84), host memory, and a home of device memory through an untracked mapping or without a copy. R139, R156: a posted write of an aligned lane some of whose bytes a higher lane writes puts the others there, and changes no other byte: at a scratchpad and in host memory. -/
def Obligations.Stores : Prop := Sys2Proof.Claims.Store ∧ Sys2Proof.Claims.StorePostsItsLanes ∧ Sys2Proof.Claims.HomeWrite ∧ Sys2Proof.Claims.PartWrite

/-- R89: ld and st of words at one FIFO bank of the team: the lanes take its data items in lane order, or append theirs. R84, R85, R160: ldt reads words that are FULL and leaves them EMPTY, or FULL with keep; stt writes words that are EMPTY and leaves them FULL. Nothing else changes. R162: tset and tclr of scratchpad words set and clear their tags; ttest reads them into a predicate. -/
def Obligations.FifoAndTaggedAccesses : Prop := Sys2Proof.Claims.FifoLoadAndStore ∧ Sys2Proof.Claims.TaggedLoadAndStore ∧ Sys2Proof.Claims.TagOperations

/-- R163: pf moves on; it writes no register. R164: cwb, cinv and cflush move on; after cinv and cflush the core holds no copy with bytes of the lanes' lines, after cwb no dirty word of them; each dirty word of these lines stands at its home, and every other byte there is as before. -/
def Obligations.CacheMaintenance : Prop := Sys2Proof.Claims.PrefetchAndMaintenance

/-- R80, R165: bmode to another mode begins the switch and the group waits for it, behind a switch in progress or one that another group asked for before; at the end of the switch the bank has the mode, and the group moves on. A bank with a live extent, or another team's FIFO, raises "bank in use". R80 (its last paragraph), R165: bmode to the present mode of a bank that is not in use and that no switch waits for completes at once and only advances: the bank keeps its contents. R82, R166: salloc with room gives the lowest free multiple of 256 at which the extent has room; its bytes are zero and its words EMPTY, and no other byte or tag changes; without room, for 0 bytes, for too many, or with extents 1 to 3 taken, it writes 0. R167: sfree of an extent that nothing still uses removes it, a team at rest in particular; of no extent's base, it raises "allocation"; of one in use, it waits. -/
def Obligations.BanksAndExtents : Prop := Sys2Proof.Claims.BankModeSwitch ∧ Sys2Proof.Claims.BankModeKept ∧ Sys2Proof.Claims.ScratchpadAllocation ∧ Sys2Proof.Claims.ExtentFree

/-- R168 to R172: the atomics, for one active lane at any location. R99, R171: one read-modify-write at a scratchpad, in host memory, or at a home through an untracked mapping or without a copy: it gives the old bytes, puts the new ones, and changes no other byte. -/
def Obligations.AtomicInstructions : Prop := Sys2Proof.Claims.Atomics ∧ Sys2Proof.Claims.ReadModifyWrite

/-- R170: a repechage pass performs the lowest of the lanes that are left at one scratchpad address and leaves the others for the next pass; the last pass ends the atomic. R173: red hands over one posted reduction for each address, of the tree over the lanes there in increasing order, and moves on. -/
def Obligations.RepechageAndReductions : Prop := Sys2Proof.Claims.RepechagePass ∧ Sys2Proof.Claims.Reduction

/-- R210 to R219: bacc with a register or a memory source hands over its accumulation; bld loads a record's scale and elements; bcvt converts a block. R213, R214: a posted block accumulation performed at its home is one read-modify-write of the record, of the value that the steps of R214 give, under the version with which it was homed (R113). -/
def Obligations.BlockAtomics : Prop := Sys2Proof.Claims.BlockInstructions ∧ Sys2Proof.Claims.BlockAccumulationAtHome

/-- R130, R131, R174: a fence at scope `group` advances, and from then on the group's operations to one target keep their order: one posted before it and one posted after it to the same target are performed in that order, and a load after it from that target waits for the first. That it does no more than count an epoch is the model's reading (log 31). Any other fence lets the group go on past it, with the registers to which a rollback returns; at a full one, the groups of the instance that have missed a write of the group roll back (the model's choice, log 72). It completes once its accesses are performed: the stores held after it leave in order. -/
def Obligations.FenceOrdering : Prop := Sys2Proof.Claims.Fences

/-- R119, R175: a group that comes to a barrier with its stores performed arrives and waits, and groups that have missed a write of it past their own full fence roll back (the model's choice, log 72); a grid barrier outside a co-resident launch raises "illegal scope". R176: once every participant that has not retired has arrived, the barrier completes and each moves past it; before, nothing happens. R135, R177, R178: bobj.init, bobj.exp, bobj.arr and bobj.wait on an object in a scratchpad extent; a value of 2^40 or more raises "object value". -/
def Obligations.BarriersAndObjects : Prop := Sys2Proof.Claims.BarrierArrival ∧ Sys2Proof.Claims.BarrierCompletion ∧ Sys2Proof.Claims.BarrierObjects

/-- R179, R180: mon records its address, its line and the 8 bytes there; mwait without a monitor, or with a triggered one, moves on, and otherwise waits; a wait that ends clears the monitor. A copy of the line that a stale notice has marked is given up, so that a read after mwait does not return a value older than the write that triggered it. -/
def Obligations.MonitorsAndWaits : Prop := Sys2Proof.Claims.Monitors

/-- R185, R186: copy.t and copy.arm read the descriptor, check it and its operands, and queue (or arm) the copy under an identifier that is not 0 and that no outstanding copy of the core holds, for a copy engine of the die that the partition owns; rI receives the identifier. R188: evpop takes the oldest word of the team out of the core's event queue, and writes true; without one, 0 and false. -/
def Obligations.CopyCommandsAndEvents : Prop := Sys2Proof.Claims.CopyCommands ∧ Sys2Proof.Claims.EventPop

/-- R187: copy.cancel removes a copy of the team that has written no byte, with a record of STAT 8 where EV asks for one, and writes true; where there is none, it writes false. -/
def Obligations.CopyCancelRemoves : Prop := Sys2Proof.Claims.CopyCancel

/-- R135, R137, R138, R184: an access of a copy whose bytes lie in scratchpads puts the bytes read at its destination, its words FULL; a copy that runs, or that the scoreboard lets start, makes one of the accesses that are left of one of the blocks that are left, or all of those of the block: then it counts the block's bytes into the object. R185, R189: a copy all of whose blocks are written completes with STAT 0 and a record where EV asks for one. One that meets a fault finishes and counts the blocks in flight first, waiting where one can neither be finished yet nor faults; then it completes with the fault's kind and the bytes that it has written in a record, and the fault is recorded at its die; a retired page ends its context. (That the bytes of a block which the fault itself cuts stand in BYTES and are not counted into the object is the model's reading, log 34.) -/
def Obligations.CopyProgress : Prop := Sys2Proof.Claims.CopyPieces ∧ Sys2Proof.Claims.CopyEnds

/-- R321, R334: mxcfg loads the 64 bytes at its address into a slot that is not armed, claims a FREE slot for the team, and leaves it SET; a slot that is armed or another team's raises "matrix state". R321, R335, R336: mma on a slot that is not armed, with a shape and regions that the checks accept, loads the operation. R321, R325, R337: mxarm arms a slot with an operation whose regions lie beside those of every other armed slot of the core as R337 allows; on an armed slot it does nothing. mxdisarm leaves an armed slot LOADED, waits for a firing to end, and after that wait is done, whatever the slot has come to. That FIRING and SUSPENDED slots count as armed for mxarm, and the addresses that its checks report, are the model's choice (logs 37 and 21). R320, R321, R335 to R341: a matrix instruction on another team's slot, and mma, mxarm, mxdisarm, sacc and mxspill on a FREE slot, raise "matrix state"; the taddr of that trap is free (log 21). -/
def Obligations.MatrixCommands : Prop := Sys2Proof.Claims.MatrixConfiguration ∧ Sys2Proof.Claims.MatrixOperation ∧ Sys2Proof.Claims.MatrixArming ∧ Sys2Proof.Claims.MatrixStateErrors

/-- R338, R339, R341: sacc appends a command to its slot, with the slot's configuration and operation of that moment (that it keeps them is the model's choice, log 77); mxflg reads the status word and clears the flag tile; mxspill writes the accumulator image, with full words. -/
def Obligations.MatrixScalingFlagsAndSpill : Prop := Sys2Proof.Claims.MatrixScalingAndFlags

/-- R324, R326, R329: the array takes one K-block of a candidate that none precedes: a slot whose conditions hold starts its firing with the starting accumulators; each accumulator takes the step of R326 on its row of A and of B; the other firings with blocks left are suspended. R138, R321, R326, R327: the results of a firing all of whose blocks have entered are written to D, whose words become FULL: one word after the other in any order, and then all that are left; the slot is armed again, or LOADED where a disarm waits; a record follows where EV asks for one and the operation is no `mma.mx`. (Of operations that count into no object.) R186, R325: once every armed reader of an operand region has consumed it, its words (of A and of B, where both lie there) become EMPTY, the readers may fire on it again, and the copies armed on it are queued; before, nothing happens. R138, R338: the oldest sacc of a slot starts when D is full and the scoreboard lets it; performed, each word of OUT is x of R338 with full tags, one word after the other in any order and then all that are left, D becomes EMPTY, and the command is done (the last of commands that count into no object). That the command keeps the configuration and operation of its issue, and is a reader from its start to its end, is the model's choice (logs 77 and 37). -/
def Obligations.MatrixFirings : Prop := Sys2Proof.Claims.ArraySelection ∧ Sys2Proof.Claims.FiringResults ∧ Sys2Proof.Claims.ConsumedEvents ∧ Sys2Proof.Claims.Scaling

/-- R292, R299, R307, R308: crew.enter of n seat words that the rules accept starts the crew; the lowest seat that they refuse raises "crew config" with the address of its word. Without a binding. The pc that is parked until the `crew.leave` issues is the model's choice (log 78). R379: where a pending BIND of the launch's queue has a stream not taken for a pipeline that names the group, crew.enter takes its streams of that pipeline: each seat that a stream names gets the stream's base, and a load seat its count. Which of several packets and pipelines that name the group it takes is the model's choice (log 49). R309: crew.leave of a drained crew restores the parked registers and goes on in SIMT mode; of another, it waits, and leaves once the crew has drained; without a crew it raises "crew state". R310: seat.ld writes a seat that is empty or has finished with the word at its address, if all 32 seats then meet the rules; a working seat raises "crew config". -/
def Obligations.CrewLifecycle : Prop := Sys2Proof.Claims.CrewEntry ∧ Sys2Proof.Claims.CrewBinding ∧ Sys2Proof.Claims.CrewExit ∧ Sys2Proof.Claims.SeatLoad

/-- R294, R311: qdef defines an empty queue over DEP registers, which must lie in the allotment. R295, R312: qadv.h pops n items and leaves their registers; qadv.t publishes n slots as data with the contents that their registers have; qwait goes on once its condition holds. A condition that does not hold waits in crew mode and traps in SIMT mode; an undefined handle or a number above the depth traps. In crew mode an instruction that issues in stroke 0 acts at the end of that stroke (R301, R316), unless a seat faults in it. -/
def Obligations.TokenQueues : Prop := Sys2Proof.Claims.QueueDefinition ∧ Sys2Proof.Claims.QueueInstructions

/-- R295, R301, R305: a stroke of a running crew lands the items that are due and fires its seats on that state: where no seat faults, the index of strokes goes up by one, and where all seats compute, nothing but the group differs, which has the firings' queues, flags and seats: so in particular where nothing is in flight, no flag is enabled, and no seat has tokens at the heads of some of the queues that it pops and data at others. Where one faults, no seat fires, and the trap names the lowest-numbered of them. A stopped crew, and one whose first control instruction has not issued (R316; the model's reading, log 78), does nothing. -/
def Obligations.CrewStroke : Prop := Sys2Proof.Claims.CrewStrokes

/-- R85, R86, R89: of the groups that wait on tags, or on FIFO banks, the one whose wait began first among those whose instruction can go on performs it; where none can, nothing happens. R80: the switch of a bank ends: the bank has its new mode and is a FIFO at its reset values, owned by the team that asked for a FIFO; a bank that becomes scratchpad has zero bytes and EMPTY words; the group goes on past its bmode, where no line that it has read past a fence can leave with the bank. R90, R91: the first item, or credit message, on the way to a bank arrives; credits let a producer end forward its head items; the end whose peer has left breaks its link once all that was on the way has arrived. That a producer whose consumer has left goes on forwarding what its credits allow is the model's choice (log 74: R91 says only what an end keeps after the break). -/
def Obligations.BankEvents : Prop := Sys2Proof.Claims.WaitsServed ∧ Sys2Proof.Claims.BankSwitchEnds ∧ Sys2Proof.Claims.FifoTransit

/-- R232, R278: a group becomes the one that issues where its pipe lets it: if it is ready, no other ready group of its pipe goes before it. A group that has waited ready for 4,096 cycles goes before any that has not; 64 cycles after a yield the group is ready again. R353, R354: a pre-emption request reaches every group of a gang with a save area; a gang without one keeps running. R134, R349, R362: a trap that waited is taken once no fence is incomplete: one of a deferred poison load with the address of the next instruction; while it must wait, nothing happens. -/
def Obligations.IssueAndPreemption : Prop := Sys2Proof.Claims.IssueOrder ∧ Sys2Proof.Claims.PreemptionRequests ∧ Sys2Proof.Claims.WaitingTrap

/-- R100 to R103: after an `.own` access the client has a copy that covers its bytes and no other client holds a byte that conflicts; where no copy is recorded, it is a fresh copy of the home's line. R97, R102: a `.wt` load with no holder records a shared copy of the whole line, a `.si` load an unrecorded one, or a recorded one where the client is a sharer already; a `.wt` load with a holder, and any `.unc` load, are served without a copy; a holder's load is an `.own` access. -/
def Obligations.CoherentAccesses : Prop := Sys2Proof.Claims.OwnAccessAtHome ∧ Sys2Proof.Claims.LoadsAtHome

/-- R98, R102, R105, R132, R179: a copy that is evicted, recalled or invalidated leaves its client, its dirty words written back; the home keeps the record of a monitored line; an invalidation triggers the monitors of the line at its core, and each fence there whose speculation read the line rolls back; an eviction by the client itself leaves the groups as they are (the model's inference, log 72); the host port owes an acknowledgement; a directory entry's eviction recalls every recorded copy. R109: a store through an untracked mapping is performed at the slice, and each recorded copy of the line becomes stale; a load changes no copy and no byte. R96, R363: an access in no region leaves a machine-check record. R360, R361, R419: an uncorrectable error that comes up in a sector waits for a read to find it; a correctable one in a sector of the L2 is corrected and counted. R111, R361, R362: an uncorrectable directory error recalls every copy of the line that its partition's cores and the host port have, marks the line suspect and leaves a record of kind 3. A read that finds an error: in a clean sector of the L2 it leaves a record of kind 2 and the way quarantined; in a sector filled from HBM it leaves the sector poisoned and a record of kind 5; in a dirty sector that no copy makes good it leaves the sector poisoned, its page retired, the way quarantined, and a record of kind 1. A sector without an error is not affected. -/
def Obligations.CopiesAndErrors : Prop := Sys2Proof.Claims.CopiesLeave ∧ Sys2Proof.Claims.UntrackedAccesses ∧ Sys2Proof.Claims.NoRegionAccess ∧ Sys2Proof.Claims.ErrorsComeUp ∧ Sys2Proof.Claims.UncorrectableErrors

/-- R105, R108: the host's cacheable read is served by a copy of the host that has the bytes, or by one whose recall it has not yet acknowledged, and else is a `.wt` load at the home; its read for ownership leaves it a copy with its bytes dirty; its non-caching store and atomic are performed at the home and tell it what they read; its acknowledgement lets the line go on. R106, R210, R214, R410, R414: a load, store, atomic or block accumulation from a peer on an UP group, or on one that drains (what is in flight there completes), to a region of the group's partition, is served at its home, and a load and an atomic are answered with what they read; to another region, it is answered as in no region, with a record. -/
def Obligations.HostAndPeerAccesses : Prop := Sys2Proof.Claims.HostAccesses ∧ Sys2Proof.Claims.PeerAccesses

/-- R414, R416, R417: the reduction unit merges a peer's contribution into the open entry of its address, or opens one; one that no window merges is one read-modify-write at its home; one to a region of another partition is not taken and leaves a record. The expiry of the hold, and a write of a window, perform the operation of memory and accumulator at each entry, and close the entries. -/
def Obligations.ReductionUnitMerges : Prop := Sys2Proof.Claims.ReductionUnit

/-- R355, R358: once every group of a gang that is one span has stopped with its writes performed, the span is saved, the records of its groups and teams laid out in the save area; while one has not, nothing is saved. A group record holds the pc, the scalar and the vector registers at their offsets, and a record written to the host window stands there byte by byte. That the kept copy, and not the save area, is what a restore puts back, and where a span's records and the parts of a team record stand, is the model's choice (log 58). -/
def Obligations.GangSaveRecords : Prop := Sys2Proof.Claims.GangSaving

/-- R224: a group without a live lane retires once its stores are performed; a team whose groups have retired and whose engine operations have completed leaves its core, its FIFO banks switched to cache mode, and the last team of a span makes the span done. -/
def Obligations.GroupsAndTeamsRetire : Prop := Sys2Proof.Claims.Retirement

/-- R364, R366, R370: a doorbell moves SUBMIT where the rules accept its value, is kept while the queue is stopped, and is otherwise logged; a write of the control register changes its fields while EN is 0, and only ASID while it is 1; EN 1 starts the thread; EN 0 stops it. The model's choices among its clauses: CODE 0 of the record of a refused doorbell, and EN accepted only when the device is READY (log 54); the thread that EN 1 starts again goes on waiting in a WAIT that was kept (log 53), and no longer on a refused PART (log 59). R364, R367, R391: the reset of a queue passes everything submitted, stops it with FAULT 5 and leaves it no launch that still reports; a snapshot gives SUBMIT, CPL, the status word and ELSEQ. That FSEQ is then SUBMIT is the model's choice (log 55). CPL passes no status word that has still to be written (R371). -/
def Obligations.QueueRegisters : Prop := Sys2Proof.Claims.QueueControls ∧ Sys2Proof.Claims.QueueResetAndSnapshot

/-- R369, R371, R377 to R379: PAD completes with status 1; CONFIG writes its pipeline entry and completes; BIND is pending with its streams, or completes with status 5 if one names a pipeline without an entry. R373: a WAIT whose condition holds completes with status 1, one whose target faults with status 8; otherwise the thread blocks on it, until the condition, read again, holds. The conditions are CPL of the queue or of another, or a comparison with the 8 bytes at an address. That a re-evaluation ends the block of a refused PART is the model's choice (log 59: R372 does not say what does). R374: a SIGNAL to host memory stores its value, adds it, or does neither, and completes with status 1; one whose target faults completes with status 8. While the host port has acknowledgements outstanding or a write of the Cox waits, its release is not complete (R107), and it acts later. That OP 2 translates its address as a load, and the others as an atomic, is the model's choice (log 53). -/
def Obligations.PadConfigBindWaitSignal : Prop := Sys2Proof.Claims.PadConfigBind ∧ Sys2Proof.Claims.WaitPackets ∧ Sys2Proof.Claims.SignalPackets

/-- R375, R376, R381: a LAUNCH or TIMED packet whose checks pass becomes a launch, pending, with the fields of its unit; a TIMED one is held in the stakeboat. One whose checks fail completes with the status of the first that fails: 2 for the ASID, 4 for its shape, addresses or kernel header, and 3 for a co-resident launch that its partition's cores cannot hold at once (an inference, log 71). One whose reads wait is not taken yet. R370: a packet of more units than the ring has stops the queue with fault 2; one whose units pass the ring's end, with fault 1; a bad packet, with fault 3; FSEQ is its sequence. A thread that does not run, or whose packet is not all submitted or waits to be read, takes nothing. That the fault 2 of an oversize packet comes before all its units lie below SUBMIT is the model's choice (log 54: they can never). -/
def Obligations.LaunchesAndFaults : Prop := Sys2Proof.Claims.LaunchPackets ∧ Sys2Proof.Claims.QueueFaults

/-- R17, R223, R383 to R386: in a round with one candidate, a span that fits is placed: each core of it could take a team and has one, at its place in its cluster, every new group stands in the entry state; a span that fits nowhere ages. A round without a candidate changes nothing but that no round is due on its die; that none begins while the Cox may not read is the model's choice (log 69). R382: a TIMED launch leaves the stakeboat for the marshals when the clock has reached T - LEAD, and its groups may issue when it has reached T. That the event moves the clock there, where it has not come so far, is the model's choice (log 23). -/
def Obligations.PlacementAndStart : Prop := Sys2Proof.Claims.PlacementRounds ∧ Sys2Proof.Claims.TimedLaunches

/-- R387, R388: DEFINE gives idle resources to its partition, with its bases, and completes with status 1; DISSOLVE gives an idle partition's resources back to partition 0; where a resource is busy, each completes with status 8, changes no owner and blocks its thread (R372). SET writes the controls, and raises what interrupts the end of a replay lets through (R393). That DEFINE and DISSOLVE make one test of what is idle, and DISSOLVE of partition 0 none, is the model's choice (log 59); so is the DATA 0 of the rungs' records (log 60). R388, R391: RESET (rung 3) ends every launch of its partition, resets its queues and banks and its grace time; PARK (rung 1) marks the placed gangs of a queue that have a save area; RESUME makes its parked gangs candidates again; QRESET (rung 2) resets a queue. That rung 3 puts only GRACE back among the partition's controls is the model's choice (log 60). -/
def Obligations.Partitions : Prop := Sys2Proof.Claims.PartitionControl ∧ Sys2Proof.Claims.RecoveryLadder

/-- R391, R393: a group whose watchdog time has passed parks its gang, if it has a save area, with a record; a replay presents the next record of the ring: a packet is submitted once its ring has room, any other record is passed over; an interrupt whose cause comes under replay is raised when it is the next that the ring records, waits while another is, and is raised at once where the ring records none. The model's choices: no record of a watchdog without a save area (log 60); SUBMIT as the place of a replayed packet, and what becomes of an interrupt that the ring does not hold (log 62). R390, R401: the umpire of a partition with waiters that have not changed for its time, and that it has not reported, writes a report of up to 30 entries at the next place of its ring and logs it; where it has reported them all, it does nothing. Which of them are still for the umpire's time is free (log 6); that sets are told apart by what their waiters wait for with what counts, and that WAITED is at least the umpire's time, are the model's choices (log 61). A barrier's entry counts the participants that have arrived, a tag's tells the awaited state. -/
def Obligations.WatchdogReplayAndUmpire : Prop := Sys2Proof.Claims.WatchdogAndReplay ∧ Sys2Proof.Claims.UmpireReports

/-- R409 to R412: the states of a connection group: REQ 1 leads from DOWN to SETUP, or to FAULT for a port that does not exist; the far entry leads from SETUP to UP with eight lanes, or to FAULT, and from UP to DRAIN; errors, counted here or at the far entry, feather the lanes or fault the group; DRAIN ends in DOWN; REQ 0 leads from SETUP and FAULT to DOWN, from UP to DRAIN. ERRCNT counts replays, and is cleared by a read, a feather and each window; that it counts in DRAIN too, and that a feather of the far entry leaves it, is the model's choice (log 63). R282, R285, R363, R364, R406, R409: the registers of the package window as the driver writes them, and the clock's step and lock. A write of REQ before the boot is done has no effect, which is the model's choice (log 64). R73, R95, R364, R406 to R409, R415, R418: what the driver's read of the package window returns: the fixed registers, the connection entries, whose ERRCNT it clears, the three tables, the queue registers, and zero at a reserved offset. R73: the Cox reads the fault records of a die, in their order; that they are pending no longer is the model's choice (log 82). -/
def Obligations.ConnectionsAndWindow : Prop := Sys2Proof.Claims.ConnectionGroups ∧ Sys2Proof.Claims.PackageWindow ∧ Sys2Proof.Claims.WindowReads ∧ Sys2Proof.Claims.FaultBufferReads

/-- R391, R424 to R427: a device reset and a power cycle leave the reset state of the device, its memory standing, after the record of their rung in every partition's log; power comes back to boot step 1; with the firmware written, an accepted blob makes the device READY with cleared memory and the blob's fields, and a die that is too hot by then stops it; one that is not accepted makes it BADBLOB; a loss of input power is logged with its time. The model's choices: a blob is taken in BADBLOB too, it needs the firmware, and a die at 100 degrees has its effect at READY (log 64); the rungs' records stand in every partition's log (log 60). R425, R428, R429: the first fatal error after the boot stops the device and begins the dump, with its signature and its cause, VALID still 0, at the dump region; a further one counts in the dump while it is written; VALID comes last, and the device is DUMPED. In the boot an error stops the device without a dump. A die at 110 degrees is one, a die at 100 degrees is logged in every partition (the model's choice, log 64). That the dump begins in the step of the error, is complete with an event of its own, and ends with its region is the model's choice (log 64). A stopped device takes no step of its own. -/
def Obligations.BootAndFatalErrors : Prop := Sys2Proof.Claims.BootSteps ∧ Sys2Proof.Claims.FatalErrors

/-- The values that the rules state for the machine right after reset (R79, R88, R95, R364, R387, R388, R407 to R409, R415, R426): boot in progress, nothing resident, all banks in cache mode, every queue disabled with SIZE 4, every resource partition 0's, every group DOWN, no valid region or window, the grace time 100 microseconds, AGEMAX 8 and the umpire's exponent 20. -/
def Obligations.ResetState : Prop := Sys2Proof.Claims.ResetValues

/-- Every step keeps the memories, the tags and the banks in their canonical form, in which equal contents are equal data. -/
def Obligations.StepKeepsTablesCanonical : Prop := Sys2Proof.Claims.StepKeepsTables

/-- Every step keeps the numbers of registers that the rules fix (R95, R364, R387, R409, R415). -/
def Obligations.StepKeepsRegisterCounts : Prop := Sys2Proof.Claims.StepKeepsSizes

/-- Decoding an encoded well-formed instruction gives it back with its guard and its length (R21, R26 to R53). -/
def Obligations.DecodeInvertsEncode : Prop := Sys2Proof.Claims.EncodingRoundTrip

/-- A word that decodes is the encoding of what it decodes to: every bit of the instruction is a field's or is as its entry requires, and the instruction is well-formed (R26 to R54). -/
def Obligations.EncodeInvertsDecode : Prop := Sys2Proof.Claims.DecodingIsExact

/-- A step runs the decoded instruction (R21 to R25): where nothing else is due and the issuing group may issue, the step is the meaning of the instruction that the fetch at its pc gives, under its guard, or the entry of the fetch's trap; a fetch whose line or walk waits holds the group. The fetch of a device address gives what the bytes there decode to, or, where the length code crosses a 32-byte block, an illegal instruction of sub-cause 2. An event that is due and reaches the device is what the step runs instead, and before both a placement round that is due, unless a further cause of one shares its cycle (log 6), and what the device itself must do first. What a step is, is the model's choice (log 1). -/
def Obligations.StepRunsDecodedInstruction : Prop := Sys2Proof.Claims.StepRunsDecoded

/-- Words written out from the encodings decode to their instructions: four of the worked example, then one of each format and family (R26 to R53). -/
def Obligations.WordsDecode : Prop := Sys2Proof.Claims.DecodedWords
end

