-- ==== Sys2Proof/Laws/Encoding.lean ====
section
/-! SUPPORT. Unpacking the fields of a packed word gives them back, for each of the formats (R21, R22): a decoded word loses no field. -/
namespace Sys2Proof
open Sys2Proof.Machine

/-- A slice of the low part, of the high part and of the whole of two joined vectors. -/
theorem ext_lo {n m : Nat} (x : BitVec n) (y : BitVec m) (s k : Nat) (h : s + k ≤ m) : (x ++ y).extractLsb' s k = y.extractLsb' s k := by
  ext i hi; simp [BitVec.getLsbD_append]; intro h; omega
theorem ext_hi {n m : Nat} (x : BitVec n) (y : BitVec m) (s k : Nat) (h : m ≤ s) : (x ++ y).extractLsb' s k = x.extractLsb' (s - m) k := by
  ext i hi; simp [BitVec.getLsbD_append]; rw [if_neg (by omega)]; congr 1; omega
theorem ext_full {n : Nat} (x : BitVec n) : x.extractLsb' 0 n = x := by ext i hi; simp [BitVec.getLsbD_eq_getElem, hi]
theorem ext_width {n : Nat} (w : Nat) (x : BitVec n) (s k : Nat) (h : s + k ≤ w) : (x.setWidth w).extractLsb' s k = x.extractLsb' s k := by
  ext i hi; simp; intro; omega
theorem bit_ext {n : Nat} (x : BitVec n) (s : Nat) : x.getLsbD s = (x.extractLsb' s 1).getLsbD 0 := by simp
theorem bit_bool (b : Bool) : (BitVec.ofBool b).getLsbD 0 = b := by cases b <;> rfl

/-- A 4-byte word. -/
theorem fields_pack32 (r : Raw32) : unpack32 (pack32 r) = r ∧ lenCode (pack32 r) = 0 ∧ majorOf (pack32 r) = r.major := by
  obtain ⟨a, b, c, d, e, f⟩ := r
  simp only [unpack32, pack32, lenCode, majorOf]
  rw [bit_ext _ 13]
  simp (disch := decide) only [ext_width, ext_lo, ext_hi, ext_full, bit_bool, Nat.sub_self, Nat.reduceSub]
  exact ⟨trivial, rfl, trivial⟩

/-- The fields that a length code has no room for are 0. -/
def Raw.sane (r : Raw) : Prop :=
  (r.len = 1 ∧ r.vc = 0 ∧ r.sc = 0 ∧ r.ext = 0 ∧ r.lit = 0) ∨ (r.len = 2 ∧ r.vc = 0 ∧ r.sc = 0 ∧ r.ext = 0) ∨ r.len = 3


theorem low_fields (len : BitVec 2) (major : BitVec 8) (gp : BitVec 3) (gneg : Bool) (vd va vb : BitVec 8) (minor : BitVec 6)
    (ty : BitVec 5) (rnd : BitVec 3) (md : BitVec 12) :
    let X := md ++ rnd ++ ty ++ minor ++ vb ++ va ++ vd ++ BitVec.ofBool gneg ++ gp ++ major ++ len
    X.extractLsb' 0 2 = len ∧ X.extractLsb' 2 8 = major ∧ X.extractLsb' 10 3 = gp ∧ X.getLsbD 13 = gneg ∧ X.extractLsb' 14 8 = vd ∧ X.extractLsb' 22 8 = va ∧ X.extractLsb' 30 8 = vb ∧ X.extractLsb' 38 6 = minor ∧ X.extractLsb' 44 5 = ty ∧ X.extractLsb' 49 3 = rnd ∧ X.extractLsb' 52 12 = md := by
  intro X
  rw [bit_ext X 13]
  simp (disch := decide) only [X, ext_lo, ext_hi, ext_full, bit_bool, Nat.sub_self, Nat.reduceSub]
  exact ⟨trivial, trivial, trivial, trivial, trivial, trivial, trivial, trivial, trivial, trivial, trivial⟩

theorem packLow_fields (r : Raw) :
    let X := packLow r
    X.extractLsb' 0 2 = r.len ∧ X.extractLsb' 2 8 = r.major ∧ X.extractLsb' 10 3 = r.gp ∧ X.getLsbD 13 = r.gneg ∧ X.extractLsb' 14 8 = r.vd ∧ X.extractLsb' 22 8 = r.va ∧ X.extractLsb' 30 8 = r.vb ∧ X.extractLsb' 38 6 = r.minor ∧ X.extractLsb' 44 5 = r.ty ∧ X.extractLsb' 49 3 = r.rnd ∧ X.extractLsb' 52 12 = r.md := low_fields ..

theorem bit_lo {n m : Nat} (x : BitVec n) (y : BitVec m) (s : Nat) (h : s < m) : (x ++ y).getLsbD s = y.getLsbD s := by
  simp [BitVec.getLsbD_append, h]

/-- A word of 8, 12 or 16 bytes. -/
theorem fields_pack (r : Raw) (h : r.sane) : unpack (pack r) = r ∧ lenCode (pack r) = r.len ∧ majorOf (pack r) = r.major := by
  obtain ⟨h0, h1, h2, h3, h4, h5, h6, h7, h8, h9, h10⟩ := packLow_fields r
  have key : ∀ hi : BitVec 64, (hi ++ packLow r).extractLsb' 0 2 = r.len := fun hi => by
    rw [ext_lo _ _ _ _ (by decide), h0]
  have hraw : ∀ hi : BitVec 64, pack r = hi ++ packLow r →
      (unpack (pack r) = (⟨r.len, r.major, r.gp, r.gneg, r.vd, r.va, r.vb, r.minor, r.ty, r.rnd, r.md, (if r.len = 3#2 then hi.extractLsb' 0 8 else 0), (if r.len = 3#2 then hi.extractLsb' 8 6 else 0),
         (if r.len = 3#2 then hi.extractLsb' 14 18 else 0),
         (if r.len = 3#2 then hi.extractLsb' 32 32 else if r.len = 2#2 then hi.extractLsb' 0 32 else 0)⟩ : Raw)) ∧
      lenCode (pack r) = r.len ∧ majorOf (pack r) = r.major := by
    intro hi hp
    rw [hp]
    simp (disch := decide) only [unpack, lenCode, majorOf, ext_lo, ext_hi, bit_lo, h0, h1, h2, h3, h4, h5, h6, h7, h8, h9, h10,
      Nat.sub_self, Nat.reduceSub]
    exact ⟨trivial, trivial, trivial⟩
  rcases h with ⟨l1, a, b, c, d⟩ | ⟨l1, a, b, c⟩ | l1
  · obtain ⟨e, f⟩ := hraw 0#64 (by unfold pack; rw [if_neg (by rw [l1]; decide), if_neg (by rw [l1]; decide)])
    refine ⟨?_, f⟩
    rw [e]; cases r; simp_all
  · obtain ⟨e, f⟩ := hraw (0#32 ++ r.lit) (by unfold pack; rw [if_neg (by rw [l1]; decide), show r.len = 2#2 from l1]; rfl)
    refine ⟨?_, f⟩
    rw [e]; simp (disch := decide) only [ext_lo, ext_full]; cases r; simp_all
  · obtain ⟨e, f⟩ := hraw (r.lit ++ r.ext ++ r.sc ++ r.vc) (by
      unfold pack; rw [if_pos (show r.len = 3#2 from l1)])
    refine ⟨?_, f⟩
    rw [e]
    simp (disch := decide) only [ext_lo, ext_hi, ext_full, Nat.sub_self, Nat.reduceSub, l1]
    cases r; simp_all
end Sys2Proof
end

