-- ==== Sys2Proof/Laws/Table.lean ====
section
/-! SUPPORT. What reading a table after writing it gives, and that writing keeps the canonical form. -/
namespace Sys2Proof.Machine
variable {α : Type} (d : α)

@[simp] theorem tget_terase_same (t : List (Nat × α)) (n : Nat) : tget d (terase t n) n = d := by
  induction t with
  | nil => rfl
  | cons e t ih => obtain ⟨k, v⟩ := e; by_cases h : k = n <;> simp [terase, tget, h, ih]

theorem tget_terase_other (t : List (Nat × α)) {n m : Nat} (h : n ≠ m) : tget d (terase t n) m = tget d t m := by
  induction t with
  | nil => rfl
  | cons e t ih =>
    obtain ⟨k, v⟩ := e
    by_cases hk : k = n
    · subst hk; simp [terase, tget, h, ih]
    · by_cases hm : k = m
      · subst hm; simp [terase, tget, hk]
      · simp [terase, tget, hk, hm, ih]

theorem tget_tinsert_same (t : List (Nat × α)) (n : Nat) (x : α) (h : ∀ e ∈ t, e.1 ≠ n) :
    tget d (tinsert t n x) n = x := by
  induction t with
  | nil => simp [tinsert, tget]
  | cons e t ih =>
    obtain ⟨k, v⟩ := e
    have hk : k ≠ n := h (k, v) (by simp)
    by_cases hl : n < k
    · simp [tinsert, tget, hl]
    · simp [tinsert, tget, hl, hk, ih (fun e he => h e (by simp [he]))]

theorem tget_tinsert_other (t : List (Nat × α)) {n m : Nat} (x : α) (h : n ≠ m) :
    tget d (tinsert t n x) m = tget d t m := by
  induction t with
  | nil => simp [tinsert, tget, h]
  | cons e t ih =>
    obtain ⟨k, v⟩ := e
    by_cases hm : k = m
    · subst hm; by_cases hl : n < k <;> simp [tinsert, tget, hl, h]
    · by_cases hl : n < k <;> simp [tinsert, tget, hl, hm, h, ih]

theorem terase_keys (t : List (Nat × α)) (n : Nat) : ∀ e ∈ terase t n, e.1 ≠ n := by
  induction t with
  | nil => simp [terase]
  | cons e t ih =>
    obtain ⟨k, v⟩ := e
    by_cases hk : k = n
    · simpa [terase, hk] using ih
    · simp [terase, hk]; exact fun a b hab => ih (a, b) hab

/-- Reading what was written. -/
@[simp] theorem tget_tset_same [DecidableEq α] (t : List (Nat × α)) (n : Nat) (x : α) : tget d (tset d t n x) n = x := by
  unfold tset
  split
  · next h => simp [h]
  · exact tget_tinsert_same d _ _ _ (terase_keys t n)

/-- Reading elsewhere. -/
theorem tget_tset_other [DecidableEq α] (t : List (Nat × α)) {n m : Nat} (x : α) (h : n ≠ m) : tget d (tset d t n x) m = tget d t m := by
  unfold tset
  split
  · exact tget_terase_other d t h
  · rw [tget_tinsert_other d _ x h, tget_terase_other d t h]

theorem tget_tset [DecidableEq α] (t : List (Nat × α)) (n m : Nat) (x : α) :
    tget d (tset d t n x) m = if n = m then x else tget d t m := by
  by_cases h : n = m
  · subst h; simp
  · simp [h, tget_tset_other d t x h]

theorem tabove_mono {b c : Nat} (h : c ≤ b) (t : List (Nat × α)) (ht : tabove b t = true) : tabove c t = true := by
  induction t with
  | nil => rfl
  | cons e t ih =>
    simp [tabove] at *
    exact ⟨by omega, ih ht.2⟩

theorem tabove_terase (b n : Nat) (t : List (Nat × α)) (ht : tabove b t = true) : tabove b (terase t n) = true := by
  induction t with
  | nil => rfl
  | cons e t ih =>
    obtain ⟨k, v⟩ := e
    simp [tabove] at ht
    by_cases hk : k = n <;> simp [terase, hk, tabove, ih ht.2, ht.1]

theorem tabove_tinsert {b n : Nat} (x : α) (t : List (Nat × α)) (hb : b < n) (ht : tabove b t = true) :
    tabove b (tinsert t n x) = true := by
  induction t with
  | nil => simp [tinsert, tabove, hb]
  | cons e t ih =>
    obtain ⟨k, v⟩ := e
    simp [tabove] at ht
    by_cases hl : n < k <;> simp [tinsert, hl, tabove, hb, ht, ih]

theorem twf_terase [DecidableEq α] (t : List (Nat × α)) (n : Nat) (ht : twf d t = true) : twf d (terase t n) = true := by
  induction t with
  | nil => rfl
  | cons e t ih =>
    obtain ⟨k, v⟩ := e
    simp [twf] at ht
    by_cases hk : k = n <;> simp [terase, hk, twf, ih ht.2]
    exact ⟨ht.1.1, tabove_terase k n t ht.1.2⟩

theorem twf_tinsert [DecidableEq α] (t : List (Nat × α)) (n : Nat) (x : α) (hx : x ≠ d) (hn : ∀ e ∈ t, e.1 ≠ n) (ht : twf d t = true) :
    twf d (tinsert t n x) = true := by
  induction t with
  | nil => simp [tinsert, twf, tabove, hx]
  | cons e t ih =>
    obtain ⟨k, v⟩ := e
    have hk : k ≠ n := hn (k, v) (by simp)
    simp [twf] at ht
    by_cases hl : n < k
    · simp [tinsert, hl, twf, tabove, hx, ht]
      exact tabove_mono (Nat.le_of_lt hl) t ht.1.2
    · simp [tinsert, hl, twf, ht, ih (fun e he => hn e (by simp [he])) ht.2]
      exact tabove_tinsert x t (by omega) ht.1.2

/-- A write keeps the canonical form. -/
theorem twf_tset [DecidableEq α] (t : List (Nat × α)) (n : Nat) (x : α) (ht : twf d t = true) : twf d (tset d t n x) = true := by
  unfold tset
  split
  · exact twf_terase d t n ht
  · next h => exact twf_tinsert d _ n x h (terase_keys t n) (twf_terase d t n ht)

theorem twf_tsetList [DecidableEq α] (xs : List α) : ∀ (t : List (Nat × α)) (n : Nat), twf d t = true → twf d (tsetList d t n xs) = true := by
  induction xs with
  | nil => intro t n h; exact h
  | cons x xs ih => intro t n h; exact ih _ _ (twf_tset d t n x h)

theorem tabove_filter (p : Nat × α → Bool) (b : Nat) (t : List (Nat × α)) (h : tabove b t = true) : tabove b (t.filter p) = true := by
  induction t with
  | nil => rfl
  | cons e t ih =>
    simp [tabove] at h
    by_cases hp : p e <;> simp [hp, tabove, ih h.2]
    exact h.1

theorem twf_filter [DecidableEq α] (p : Nat × α → Bool) (t : List (Nat × α)) (h : twf d t = true) : twf d (t.filter p) = true := by
  induction t with
  | nil => rfl
  | cons e t ih =>
    simp [twf] at h
    by_cases hp : p e <;> simp [hp, twf, ih h.2]
    exact ⟨h.1.1, tabove_filter p _ t h.1.2⟩

/-- Clearing a range keeps the canonical form. -/
theorem twf_tclear [DecidableEq α] (t : List (Nat × α)) (lo hi : Nat) (h : twf d t = true) : twf d (tclear t lo hi) = true :=
  twf_filter d _ t h

end Sys2Proof.Machine
end

