-- ==== Sys2Proof/Laws/Memory.lean ====
section
/-! SUPPORT. Every operation that writes a memory, the tags or the banks keeps their canonical form, and the reset state has
it. Every later operation changes the memories, the tags and the banks through these alone. -/
namespace Sys2Proof.Machine

/-- Reset has the canonical form. -/
theorem tablesOk_reset : State.reset.tablesOk = true := by decide

/-- What the canonical form says, as a conjunction. -/
theorem tablesOk_iff (s : State) : s.tablesOk = true ↔ Memory.wf s.mem = true ∧ Memory.wf s.hostMem = true ∧ Memory.wf s.peerMem = true ∧
    Memory.wf s.smem = true ∧ twf false s.tags = true ∧ twf resetBank s.banks = true := by
  simp [State.tablesOk, and_assoc]

/-- Only the six tables count. -/
theorem tablesOk_of_eq {s t : State} (h : s.tablesOk = true) (h1 : t.mem = s.mem) (h2 : t.hostMem = s.hostMem) (h3 : t.peerMem = s.peerMem)
    (h4 : t.smem = s.smem) (h5 : t.tags = s.tags) (h6 : t.banks = s.banks) : t.tablesOk = true := by
  simpa [State.tablesOk, h1, h2, h3, h4, h5, h6] using h

/-- A fold of an operation that keeps the form keeps it. -/
theorem tablesOk_foldl {α : Type} (f : State → α → State) (hf : ∀ s x, s.tablesOk = true → (f s x).tablesOk = true) (xs : List α) :
    ∀ s : State, s.tablesOk = true → (xs.foldl f s).tablesOk = true := by
  induction xs with
  | nil => exact fun s h => h
  | cons x xs ih => exact fun s h => ih _ (hf s x h)

/-- A fold of insertions keeps a table's form. -/
theorem twf_foldl {α β : Type} [DecidableEq α] (d : α) (f : List (Nat × α) → β → List (Nat × α)) (hf : ∀ t x, twf d t = true → twf d (f t x) = true)
    (xs : List β) : ∀ t, twf d t = true → twf d (xs.foldl f t) = true := by
  induction xs with
  | nil => exact fun t h => h
  | cons x xs ih => exact fun t h => ih _ (hf t x h)

theorem twf_putEntries {α : Type} [DecidableEq α] (d : α) (es t : List (Nat × α)) (h : twf d t = true) : twf d (putEntries d es t) = true :=
  twf_foldl d _ (fun _ _ h => twf_tset d _ _ _ h) es t h

variable {s : State}

theorem tablesOk_setMem {m : List (Nat × Byte)} (h : s.tablesOk = true) (hm : Memory.wf m = true) : ({ s with mem := m } : State).tablesOk = true := by
  simp only [tablesOk_iff] at *; exact ⟨hm, h.2⟩
theorem tablesOk_setHostMem {m : List (Nat × Byte)} (h : s.tablesOk = true) (hm : Memory.wf m = true) :
    ({ s with hostMem := m } : State).tablesOk = true := by
  simp only [tablesOk_iff] at *; exact ⟨h.1, hm, h.2.2⟩
theorem tablesOk_setPeerMem {m : List (Nat × Byte)} (h : s.tablesOk = true) (hm : Memory.wf m = true) :
    ({ s with peerMem := m } : State).tablesOk = true := by
  simp only [tablesOk_iff] at *; exact ⟨h.1, h.2.1, hm, h.2.2.2⟩
theorem tablesOk_setSmem {m : List (Nat × Byte)} (h : s.tablesOk = true) (hm : Memory.wf m = true) :
    ({ s with smem := m } : State).tablesOk = true := by
  simp only [tablesOk_iff] at *; exact ⟨h.1, h.2.1, h.2.2.1, hm, h.2.2.2.2⟩
theorem tablesOk_setTagTable {m : List (Nat × Bool)} (h : s.tablesOk = true) (hm : twf false m = true) :
    ({ s with tags := m } : State).tablesOk = true := by
  simp only [tablesOk_iff] at *; exact ⟨h.1, h.2.1, h.2.2.1, h.2.2.2.1, hm, h.2.2.2.2.2⟩
theorem tablesOk_setBankTable {m : List (Nat × Bank)} (h : s.tablesOk = true) (hm : twf resetBank m = true) :
    ({ s with banks := m } : State).tablesOk = true := by
  simp only [tablesOk_iff] at *; exact ⟨h.1, h.2.1, h.2.2.1, h.2.2.2.1, h.2.2.2.2.1, hm⟩

/-- Bytes written to a scratchpad, and the tags of words (R84). -/
theorem tablesOk_tagWords (c o n : Nat) (b : Bool) (h : s.tablesOk = true) : (tagWords c o n b s).tablesOk = true :=
  tablesOk_setTagTable h (twf_tsetList false _ _ _ ((tablesOk_iff s).1 h).2.2.2.2.1)
theorem tablesOk_setTags (ws : List Nat) (b : Bool) (h : s.tablesOk = true) : (setTags ws b s).tablesOk = true :=
  tablesOk_setTagTable h (twf_foldl false _ (fun _ _ h => twf_tset false _ _ _ h) ws _ ((tablesOk_iff s).1 h).2.2.2.2.1)
theorem tablesOk_putSmem (c o : Nat) (bs : List Byte) (h : s.tablesOk = true) : (putSmem c o bs s).tablesOk = true :=
  tablesOk_tagWords c o _ true (tablesOk_setSmem h (twf_tsetList 0 _ _ _ ((tablesOk_iff s).1 h).2.2.2.1))
theorem tablesOk_putWord (w : Nat) (v : LaneWord) (h : s.tablesOk = true) : (putWord w v s).tablesOk = true :=
  have k := (tablesOk_iff s).1 h
  (tablesOk_iff _).2 ⟨k.1, k.2.1, k.2.2.1, twf_tsetList 0 _ _ _ k.2.2.2.1, twf_tset false s.tags w true k.2.2.2.2.1, k.2.2.2.2.2⟩
theorem tablesOk_writeObj (k : Nat) (o : BarObj) (h : s.tablesOk = true) : (writeObj k o s).tablesOk = true :=
  tablesOk_setSmem h (twf_tsetList 0 _ _ _ ((tablesOk_iff s).1 h).2.2.2.1)
theorem tablesOk_clearScratch (c b n : Nat) (h : s.tablesOk = true) : (clearScratch c b n s).tablesOk = true :=
  have k := (tablesOk_iff s).1 h
  (tablesOk_iff _).2 ⟨k.1, k.2.1, k.2.2.1, twf_tclear 0 _ _ _ k.2.2.2.1, twf_tclear false _ _ _ k.2.2.2.2.1, k.2.2.2.2.2⟩

/-- A bank changed (R79). -/
theorem tablesOk_setBank (c b : Nat) (f : Bank → Bank) (h : s.tablesOk = true) : (setBank c b f s).tablesOk = true :=
  tablesOk_setBankTable h (twf_tset resetBank _ _ _ ((tablesOk_iff s).1 h).2.2.2.2.2)
theorem tablesOk_setFifo (c b : Nat) (f : Fifo → Fifo) (h : s.tablesOk = true) : (setFifo c b f s).tablesOk = true := tablesOk_setBank c b _ h

/-- Host memory written; a partition's record; the clock (R389, R392). -/
theorem tablesOk_putHost (a : Nat) (bs : List Byte) (h : s.tablesOk = true) : (putHost a bs s).tablesOk = true :=
  tablesOk_setHostMem h (twf_tsetList 0 _ _ _ ((tablesOk_iff s).1 h).2.1)
theorem tablesOk_setPart (p : Nat) (f : Part → Part) (h : s.tablesOk = true) : (setPart p f s).tablesOk = true := h
theorem tablesOk_tickClock (h : s.tablesOk = true) : (tickClock s).tablesOk = true := h
theorem tablesOk_setQueue (q : Nat) (f : Queue → Queue) (h : s.tablesOk = true) : (setQueue q f s).tablesOk = true := h
theorem tablesOk_setConn (i : Nat) (f : Conn → Conn) (h : s.tablesOk = true) : (setConn i f s).tablesOk = true := h
theorem tablesOk_mapGroups (f : Group → Group) (h : s.tablesOk = true) : (mapGroups f s).tablesOk = true := h
theorem tablesOk_logEvent (p k q c : Nat) (d : Word) (h : s.tablesOk = true) : (logEvent p k q c d s).tablesOk = true :=
  tablesOk_putHost _ _ (tablesOk_setPart _ _ (tablesOk_tickClock h))
theorem tablesOk_ringBytes (b n : Nat) (bs : List Byte) : ∀ (i : Nat) {s : State}, s.tablesOk = true → (ringBytes b n i bs s).tablesOk = true := by
  induction bs with
  | nil => exact fun _ _ h => h
  | cons x xs ih => exact fun i _ h => ih (i + 1) (tablesOk_putHost _ _ h)
theorem tablesOk_recordWake (p k q : Nat) (bs : List Byte) (h : s.tablesOk = true) : (recordWake p k q bs s).tablesOk = true := by
  unfold recordWake
  simp only
  split
  · exact tablesOk_ringBytes _ _ _ _ h
  · exact h
theorem tablesOk_raiseInt (p v : Nat) (h : s.tablesOk = true) : (raiseInt p v s).tablesOk = true :=
  tablesOk_recordWake p 4 _ _ h
theorem tablesOk_raiseTurn (p n : Nat) : ∀ {s : State}, s.tablesOk = true → (raiseTurn p n s).tablesOk = true := by
  induction n with
  | zero => exact fun h => h
  | succ n ih =>
    intro s h
    unfold raiseTurn
    dsimp only
    split
    · exact h
    · split
      · exact ih (tablesOk_raiseInt _ _ (tablesOk_setPart _ _ h))
      · split
        · exact ih (tablesOk_raiseInt _ _ (tablesOk_setPart _ _ h))
        · exact h
theorem tablesOk_interrupt (p v : Nat) (h : s.tablesOk = true) : (interrupt p v s).tablesOk = true := by
  unfold interrupt
  dsimp only
  split
  · exact tablesOk_raiseTurn _ _ (tablesOk_setPart _ _ h)
  · exact tablesOk_raiseInt _ _ h
theorem tablesOk_putHostRing (a : Nat) (bs : List Byte) (h : s.tablesOk = true) : (putHostRing a bs s).tablesOk = true := by
  unfold putHostRing
  split
  · exact tablesOk_putHost _ _ h
  · exact h

/-- The home's operations (R97 to R109, R419): a line written, its errors found, an L2 line touched, copies recalled, invalidated,
filled and served. -/
theorem tablesOk_putLine (m : LineMask) (d : LineData) (l : Nat) (h : s.tablesOk = true) : (putLine m d l s).tablesOk = true :=
  tablesOk_setMem h (twf_foldl 0 _ (fun t k ht => by split; exact twf_tset 0 _ _ _ ht; exact ht) _ _ ((tablesOk_iff s).1 h).1)
theorem tablesOk_readSectors (l : Nat) (sec : BitVec 4) (h : s.tablesOk = true) : (readSectors l sec s).tablesOk = true := h
theorem tablesOk_writeSectors (l : Nat) (m : LineMask) (h : s.tablesOk = true) : (writeSectors l m s).tablesOk = true := h
theorem tablesOk_leaveL2 (e : L2Line) (h : s.tablesOk = true) : (leaveL2 e s).tablesOk = true := h
theorem tablesOk_l2Touch (l : Nat) (sec : BitVec 4) (o : Option (BitVec 18)) (h : s.tablesOk = true) : (l2Touch l sec o s).tablesOk = true := by
  unfold l2Touch
  simp only
  split
  · exact h
  · split
    · exact h
    · split
      · exact h
      · exact tablesOk_of_eq (tablesOk_foldl _ (fun _ e h => tablesOk_leaveL2 e h) _ _ h) rfl rfl rfl rfl rfl rfl
theorem tablesOk_notice (c l : Nat) (h : s.tablesOk = true) : (notice c l s).tablesOk = true := h
theorem tablesOk_storeSeen (c l : Nat) (h : s.tablesOk = true) : (storeSeen c l s).tablesOk = true := h
theorem tablesOk_setCopy (c l : Nat) (f : Copy → Copy) (h : s.tablesOk = true) : (setCopy c l f s).tablesOk = true := h
theorem tablesOk_removeCopy (c l : Nat) (h : s.tablesOk = true) : (removeCopy c l s).tablesOk = true := h
theorem tablesOk_writeBack (m : LineMask) (c : Copy) (h : s.tablesOk = true) : (writeBack m c s).tablesOk = true := by
  unfold writeBack
  simp only
  split
  · exact h
  · exact tablesOk_l2Touch _ _ _ (tablesOk_putLine _ _ _ (tablesOk_writeSectors _ _ h))
theorem tablesOk_takeBack (c : Copy) (h : s.tablesOk = true) : (takeBack c s).tablesOk = true := by
  have h1 := tablesOk_writeBack (BitVec.allOnes 128) c h
  unfold takeBack
  simp only
  split <;> exact tablesOk_of_eq h1 rfl rfl rfl rfl rfl rfl
theorem tablesOk_recallAll (cs : List Copy) : ∀ {s : State}, s.tablesOk = true → (recallAll cs s).tablesOk = true := by
  induction cs with
  | nil => exact fun h => h
  | cons c cs ih => exact fun h => ih (tablesOk_takeBack c h)
theorem tablesOk_evict (c : Copy) (h : s.tablesOk = true) : (evict c s).tablesOk = true := by
  have h1 := tablesOk_writeBack (BitVec.allOnes 128) c h
  unfold evict
  simp only
  split <;> exact tablesOk_of_eq h1 rfl rfl rfl rfl rfl rfl
theorem tablesOk_dropWords (m : LineMask) (c : Copy) (h : s.tablesOk = true) : (dropWords m c s).tablesOk = true := by
  have hw := tablesOk_writeBack (bytesOf (wordsOf m)) c h
  unfold dropWords
  simp only
  split
  · exact h
  · split <;> split <;> exact tablesOk_of_eq hw rfl rfl rfl rfl rfl rfl
theorem tablesOk_dropWordsAll (m : LineMask) (cs : List Copy) : ∀ {s : State}, s.tablesOk = true → (dropWordsAll m cs s).tablesOk = true := by
  induction cs with
  | nil => exact fun h => h
  | cons c cs ih => exact fun h => ih (tablesOk_dropWords m c h)
theorem tablesOk_cleanFor (m : LineMask) (cs : List Copy) : ∀ {s : State}, s.tablesOk = true → (cleanFor m cs s).tablesOk = true := by
  induction cs with
  | nil => exact fun h => h
  | cons c cs ih =>
    intro s h
    refine ih ?_
    split
    · exact h
    · exact tablesOk_setCopy _ _ _ (tablesOk_writeBack m c h)
theorem tablesOk_l1Place (c pa : Nat) (h : s.tablesOk = true) : (l1Place c pa s).1.tablesOk = true := by
  unfold l1Place
  split
  · exact h
  · split
    · exact h
    · split
      · exact tablesOk_evict _ h
      · exact h
theorem tablesOk_fill (c l pa : Nat) (k : CopyKind) (r w : LineMask) (h : s.tablesOk = true) : (fill c l pa k r w s).tablesOk = true :=
  tablesOk_of_eq (tablesOk_l1Place c pa (tablesOk_l2Touch l 0xF none (tablesOk_readSectors l 0xF (tablesOk_removeCopy c l h))))
    rfl rfl rfl rfl rfl rfl
theorem tablesOk_extend (c : Copy) (r w : LineMask) (h : s.tablesOk = true) : (extend c r w s).tablesOk = true := h
theorem tablesOk_useCopy (c l : Nat) (h : s.tablesOk = true) : (useCopy c l s).tablesOk = true := by
  unfold useCopy
  split <;> exact h
theorem tablesOk_ownAccess (c l pa : Nat) (r w : LineMask) (h : s.tablesOk = true) : (ownAccess c l pa r w s).tablesOk = true := by
  unfold ownAccess
  simp only
  split
  · split
    · exact tablesOk_fill _ _ _ _ _ _ (tablesOk_recallAll _ h)
    · exact tablesOk_useCopy _ _ (tablesOk_extend _ _ _ h)
  · split
    · exact tablesOk_fill _ _ _ _ _ _ (tablesOk_recallAll _ h)
    · split
      · exact tablesOk_fill _ _ _ _ _ _ (tablesOk_recallAll _ h)
      · exact tablesOk_fill _ _ _ _ _ _ h
theorem tablesOk_homeServe (l : Nat) (m : LineMask) (h : s.tablesOk = true) : (homeServe l m s).tablesOk = true :=
  tablesOk_l2Touch _ _ _ (tablesOk_readSectors _ _ (tablesOk_cleanFor _ _ h))
theorem tablesOk_homeLoad (c l pa : Nat) (rt : ReqTy) (m : LineMask) (h : s.tablesOk = true) : (homeLoad c l pa rt m s).tablesOk = true := by
  have serve := tablesOk_homeServe l m h
  have own := tablesOk_ownAccess c l pa m 0 h
  have sh := tablesOk_fill c l pa .shared (BitVec.allOnes 128) 0 h
  have un := tablesOk_fill c l pa .unrecorded (BitVec.allOnes 128) 0 serve
  unfold homeLoad
  simp only
  split
  · exact serve
  · cases rt <;> simp only
    case own => exact own
    all_goals
      split
      · exact own
      all_goals first
        | exact serve
        | (split
           · first | exact sh | (split; exact sh; exact serve)
           · first | exact serve | exact un)
theorem tablesOk_homePrepare (c l : Nat) (m : LineMask) (h : s.tablesOk = true) : (homePrepare c l m s).tablesOk = true :=
  tablesOk_dropWordsAll _ _ (tablesOk_recallAll _ h)
theorem tablesOk_homeStore (c l : Nat) (m : LineMask) (d : LineData) (o : BitVec 18) (h : s.tablesOk = true) : (homeStore c l m d o s).tablesOk = true := by
  unfold homeStore
  simp only
  apply tablesOk_storeSeen
  apply tablesOk_l2Touch
  apply tablesOk_putLine
  apply tablesOk_writeSectors
  apply tablesOk_setCopy
  exact tablesOk_homePrepare c l m h
theorem tablesOk_l1Store (c l : Nat) (m : LineMask) (d : LineData) (o : BitVec 18) (h : s.tablesOk = true) : (l1Store c l m d o s).tablesOk = true := h
theorem tablesOk_coreStore (c l pa : Nat) (rt : ReqTy) (m : LineMask) (d : LineData) (o : BitVec 18) (h : s.tablesOk = true) :
    (coreStore c l pa rt m d o s).tablesOk = true := by
  have h1 := tablesOk_useCopy c l (tablesOk_ownAccess c l pa 0 m h)
  unfold coreStore
  simp only
  split
  · exact tablesOk_l1Store _ _ _ _ _ (tablesOk_useCopy c l h)
  · split
    · split
      · exact tablesOk_l1Store _ _ _ _ _ h1
      · exact tablesOk_homeStore _ _ _ _ _ h1
    · exact tablesOk_homeStore _ _ _ _ _ h
theorem tablesOk_coreLoad (c l pa : Nat) (rt : ReqTy) (m : LineMask) (h : s.tablesOk = true) : (coreLoad c l pa rt m s).1.tablesOk = true := by
  have h1 := tablesOk_homeLoad c l pa rt m h
  unfold coreLoad
  simp only
  split
  · exact tablesOk_useCopy c l h
  · split
    · exact tablesOk_useCopy c l h1
    · exact h1
theorem tablesOk_untrackedStore (c l : Nat) (m : LineMask) (d : LineData) (o : BitVec 18) (h : s.tablesOk = true) :
    (untrackedStore c l m d o s).tablesOk = true := by
  have h1 := tablesOk_storeSeen c l (tablesOk_l2Touch l (sectorsOf m) (some o) (tablesOk_putLine m d l (tablesOk_writeSectors l m h)))
  unfold untrackedStore
  refine tablesOk_foldl _ (fun t x ht => ?_) _ _ h1
  exact tablesOk_notice x.client l (tablesOk_setCopy x.client l _ ht)
theorem tablesOk_acquireDrop (c : Nat) (dev : Bool) (h : s.tablesOk = true) : (acquireDrop c dev s).tablesOk = true := tablesOk_recallAll _ h
theorem tablesOk_cleanCore (c : Nat) (h : s.tablesOk = true) : (cleanCore c s).tablesOk = true := by
  unfold cleanCore
  refine tablesOk_foldl _ (fun t x ht => ?_) _ _ h
  exact tablesOk_setCopy x.client x.line _ (tablesOk_writeBack _ x ht)

/-- Bytes written to device memory by the Cox or a peer, and the machine-check records (R106, R363). -/
theorem tablesOk_putByte (o : BitVec 18) (a : Nat) (b : Byte) (h : s.tablesOk = true) : (putByte o a b s).tablesOk = true := by
  unfold putByte
  split
  · exact h
  · exact tablesOk_homeStore _ _ _ _ _ h
theorem tablesOk_putPhys (o : BitVec 18) (bs : List Byte) : ∀ (a : Nat) {s : State}, s.tablesOk = true → (putPhys o a bs s).tablesOk = true := by
  induction bs with
  | nil => exact fun _ _ h => h
  | cons b bs ih =>
    intro a s h
    refine ih _ ?_
    split
    · exact h
    · exact tablesOk_putByte _ _ _ h
theorem tablesOk_doHeld (x : HeldWrite) (h : s.tablesOk = true) : (doHeld x s).tablesOk = true := by
  cases x <;> dsimp only [doHeld]
  case byte => exact tablesOk_putPhys _ _ _ h
  case host => exact tablesOk_putHostRing _ _ h
  case release => split <;> exact h
  case status =>
    split
    · exact tablesOk_setQueue _ _ h
    · exact h
  case cpl =>
    split
    · exact tablesOk_setQueue _ _ h
    · exact h
  case interrupt =>
    split
    · exact tablesOk_interrupt _ _ h
    · exact h
theorem tablesOk_machineCheckAt (tm : Nat) (w0 : Word) (pa : Nat) (kv : Bool) (p : Nat) (a : BitVec 16) (h : s.tablesOk = true) :
    (machineCheckAt tm w0 pa kv p a s).tablesOk = true := by
  unfold machineCheckAt
  simp only
  split
  · exact tablesOk_logEvent _ _ _ _ _ h
  · exact tablesOk_doHeld _ (tablesOk_logEvent _ _ _ _ _ (tablesOk_putPhys _ _ _ h))
theorem tablesOk_machineCheck (w0 : Word) (pa : Nat) (kv : Bool) (p : Nat) (a : BitVec 16) (h : s.tablesOk = true) :
    (machineCheck w0 pa kv p a s).tablesOk = true :=
  tablesOk_machineCheckAt (tickClock s).clock w0 pa kv p a (tablesOk_tickClock h)
theorem tablesOk_noRegionCheck (pa p : Nat) (h : s.tablesOk = true) : (noRegionCheck pa p s).tablesOk = true := tablesOk_machineCheck _ _ _ _ _ h

/-- The banks' changes of mode (R80, R91), and the end of a team's place (R224). -/
theorem tablesOk_leaveFifo (c b : Nat) (h : s.tablesOk = true) : (leaveFifo c b s).tablesOk = true := by
  unfold leaveFifo
  simp only
  split
  · exact tablesOk_setFifo _ _ _ (tablesOk_setFifo _ _ _ h)
  · exact tablesOk_setFifo _ _ _ h
theorem tablesOk_leaveCache (c b : Nat) (h : s.tablesOk = true) : (leaveCache c b s).tablesOk = true :=
  tablesOk_foldl _ (fun _ x h => tablesOk_evict x h) _ _ h
theorem tablesOk_switchBank (c b : Nat) (m : BankMode) (slot : Nat) (h : s.tablesOk = true) : (switchBank c b m slot s).tablesOk = true := by
  have h1 : (if ((bankOf s c b).mode == .fifo) = true then leaveFifo c b s
      else if ((bankOf s c b).mode == .cache) = true then leaveCache c b s else s).tablesOk = true := by
    split
    · exact tablesOk_leaveFifo _ _ h
    · split
      · exact tablesOk_leaveCache _ _ h
      · exact h
  unfold switchBank
  simp only
  split
  · exact tablesOk_setBank _ _ _ h
  · split
    · exact tablesOk_clearScratch _ _ _ (tablesOk_setBank _ _ _ h1)
    · exact tablesOk_setBank _ _ _ h1
theorem tablesOk_freeTeam (c t : Nat) (h : s.tablesOk = true) : (freeTeam c t s).tablesOk = true :=
  tablesOk_of_eq (tablesOk_foldl _ (fun _ b h => tablesOk_switchBank c b .cache 0 h)
    ((List.range 48).filter (fun b => (bankOf s c b).mode == .fifo && (bankOf s c b).owner = t)) s h) rfl rfl rfl rfl rfl rfl

/-- Rings, status words and the end of a launch (R365, R371). -/
theorem tablesOk_coxCheck (pa p : Nat) (h : s.tablesOk = true) : (coxCheck pa p s).tablesOk = true := by
  unfold coxCheck
  split
  · exact tablesOk_noRegionCheck _ _ h
  · exact h
theorem tablesOk_writeRing (k : Queue) (a : Nat) (bs : List Byte) (h : s.tablesOk = true) : (writeRing k a bs s).tablesOk = true := by
  unfold writeRing
  split
  · exact tablesOk_putHostRing _ _ h
  · exact tablesOk_putPhys _ _ _ (tablesOk_coxCheck _ _ h)
theorem tablesOk_finishPkt (q n c : Nat) (h : s.tablesOk = true) : (finishPkt q n c s).tablesOk = true := by
  unfold finishPkt
  simp only
  split
  · exact h
  · split
    · exact tablesOk_doHeld _ (tablesOk_doHeld _ (tablesOk_setQueue _ _ (tablesOk_writeRing _ _ _ h)))
    · exact tablesOk_doHeld _ (tablesOk_setQueue _ _ (tablesOk_writeRing _ _ _ h))
theorem tablesOk_finishWork (q n c : Nat) (h : s.tablesOk = true) : (finishWork q n c s).tablesOk = true := by
  unfold finishWork
  split
  · exact tablesOk_finishPkt _ _ _ h
  · split <;> exact h
theorem tablesOk_queueFault (q f n : Nat) (h : s.tablesOk = true) : (queueFault q f n s).tablesOk = true := tablesOk_logEvent _ _ _ _ _ h
theorem tablesOk_finishLaunch (l : Launch) (c : Nat) (h : s.tablesOk = true) : (finishLaunch l c s).tablesOk = true := by
  have h1 : ({ s with launches := s.launches.filter (fun x => !(x.id = l.id)) } : State).tablesOk = true := h
  unfold finishLaunch
  simp only
  split
  · exact h1
  · exact tablesOk_finishWork _ _ _ h1

/-- A context ends (R352). -/
theorem tablesOk_endRecord (code : Nat) (c : BitVec 8) (sub asid : BitVec 16) (p : Nat) (h : s.tablesOk = true) :
    (endRecord code c sub asid p s).tablesOk = true := tablesOk_logEvent _ _ _ _ _ h
theorem tablesOk_endBinds (code : Nat) (asid : BitVec 16) (p : Nat) (h : s.tablesOk = true) : (endBinds code asid p s).tablesOk = true :=
  tablesOk_foldl _ (fun _ _ h => tablesOk_foldl _ (fun _ _ h => tablesOk_finishWork _ _ _ h) _ _ h) _ _ h
theorem tablesOk_endContext (code : Nat) (c : BitVec 8) (sub asid : BitVec 16) (part : BitVec 3) (h : s.tablesOk = true) :
    (endContext code c sub asid part s).tablesOk = true := by
  unfold endContext
  simp only
  refine tablesOk_foldl _ (fun t q ht => ?_) _ _ ?_
  · split
    · exact tablesOk_queueFault _ _ _ ht
    · exact ht
  refine tablesOk_foldl _ (fun t l ht => tablesOk_finishLaunch _ _ ht) _ _ (tablesOk_endBinds _ _ _ (tablesOk_endRecord _ _ _ _ _ ?_))
  exact tablesOk_foldl _ (fun t x ht => tablesOk_freeTeam _ _ ht) _ _ h

/-- What the slices and the Cox do about errors (R361, R362, R419). -/
theorem tablesOk_endLost (p : Nat) (xs : List Nat) : ∀ {s : State}, s.tablesOk = true → (endLost p xs s).tablesOk = true := by
  induction xs with
  | nil => exact fun h => h
  | cons x xs ih => exact fun h => ih (tablesOk_endContext _ _ _ _ _ h)
theorem tablesOk_quarantineWay (l w : Nat) (h : s.tablesOk = true) : (quarantineWay l w s).tablesOk = true :=
  tablesOk_of_eq (tablesOk_foldl _ (fun _ e h => tablesOk_leaveL2 e h) (s.l2.filter (fun e => e.line / 2 ^ 24 = l / 2 ^ 24 && e.way = w)) s h)
    rfl rfl rfl rfl rfl rfl
theorem tablesOk_endLineError (pa l w tm : Nat) (w0 : Word) (kv : Bool) (p : Nat) (a : BitVec 16) (h : s.tablesOk = true) :
    (endLineError pa l w tm w0 kv p a s).tablesOk = true := by
  have h1 := tablesOk_machineCheckAt tm w0 (pa / 128 * 128) kv p a (tablesOk_quarantineWay l w h)
  unfold endLineError
  simp only
  split
  · exact tablesOk_machineCheck _ _ _ _ _ h1
  · exact h1
theorem tablesOk_loseSector (x : FoundError) (h : s.tablesOk = true) : (loseSector x s).tablesOk = true := tablesOk_endLost _ _ h
theorem tablesOk_fillPoison (x : FoundError) (h : s.tablesOk = true) : (fillPoison x s).tablesOk = true :=
  tablesOk_machineCheck _ _ _ _ _ (tablesOk_l2Touch _ _ _ h)
theorem tablesOk_recoverSector (x : FoundError) (h : s.tablesOk = true) : (recoverSector x s).tablesOk = true := by
  have h1 := tablesOk_recallAll ((tickClock s).copies.filter (fun c => c.line = x.sector / 4)) (tablesOk_tickClock h)
  unfold recoverSector
  simp only
  split
  · exact tablesOk_endLineError _ _ _ _ _ _ _ _ h1
  · exact tablesOk_endLineError _ _ _ _ _ _ _ _ (tablesOk_loseSector _ h1)
theorem tablesOk_recoverError (x : FoundError) (h : s.tablesOk = true) : (recoverError x s).tablesOk = true := by
  unfold recoverError
  split
  · exact tablesOk_fillPoison _ h
  · exact tablesOk_recoverSector _ h
theorem tablesOk_settleSome (n : Nat) : ∀ {s : State}, s.tablesOk = true → (settleSome n s).tablesOk = true := by
  induction n with
  | zero => exact fun h => h
  | succ n ih =>
    intro s h
    unfold settleSome
    split
    · exact h
    · exact ih (tablesOk_recoverError _ h)
theorem tablesOk_settleErrors (h : s.tablesOk = true) : (settleErrors s).tablesOk = true := tablesOk_settleSome _ h
theorem tablesOk_checkSectors (l : Nat) (sec : BitVec 4) (h : s.tablesOk = true) : (checkSectors l sec s).tablesOk = true :=
  tablesOk_settleErrors (tablesOk_readSectors l sec h)
/-- A read of sectors finds nothing where no error is there (R419). -/
theorem readSectors_clean (l : Nat) (sec : BitVec 4) (h : s.latent = []) : readSectors l sec s = s := by
  cases s; cases h; simp [readSectors]
/-- Nothing is to be dealt with where nothing has been found (R361). -/
theorem settleErrors_clean (h1 : s.latent = []) (h2 : s.found = []) : settleErrors s = s := by simp [settleErrors, h1, h2, settleSome]
/-- A slice's read for a request goes on at once where no error is there (R361, R419). -/
theorem checkSectors_clean (l : Nat) (sec : BitVec 4) (h1 : s.latent = []) (h2 : s.found = []) : checkSectors l sec s = s := by
  rw [checkSectors, readSectors_clean l sec h1, settleErrors_clean h1 h2]
theorem tablesOk_portPoison (pa l : Nat) (h : s.tablesOk = true) : (portPoison pa l s).tablesOk = true := tablesOk_machineCheck _ _ _ _ _ h

/-- A request for which no group to its peer is UP (R413). -/
theorem tablesOk_noPeerRoute (d pa p : Nat) (h : s.tablesOk = true) : (noPeerRoute d pa p s).tablesOk = true := by
  have h1 := tablesOk_noRegionCheck pa p h
  unfold noPeerRoute
  simp only
  split
  · exact h1
  · exact tablesOk_interrupt _ _ (tablesOk_logEvent _ _ _ _ _ (tablesOk_of_eq h1 rfl rfl rfl rfl rfl rfl))

/-- A read, a write and a read-modify-write at a location (R97, R99, R171): every access of a program, an engine or the Cox ends
in them. -/
theorem tablesOk_checked (b : Bool) (l : Nat) (sec : BitVec 4) (h : s.tablesOk = true) :
    (if b = true then s else checkSectors l sec s).tablesOk = true := by
  split
  · exact h
  · exact tablesOk_checkSectors _ _ h
theorem tablesOk_readDev (w : Who) (rt : ReqTy) (tr : Bool) (pa cell n : Nat) (h : s.tablesOk = true) :
    (readDev w rt tr pa cell n s).1.tablesOk = true := by
  have h1 := tablesOk_checked (tr && l1Serves w.core (cell / 128) rt (maskRange (cell % 128) n) s) (cell / 128)
    (if tr then loadSectors w.core (cell / 128) rt (maskRange (cell % 128) n) s else sectorsOf (maskRange (cell % 128) n)) h
  unfold readDev
  dsimp only
  generalize (if (tr && l1Serves w.core (cell / 128) rt (maskRange (cell % 128) n) s) = true then s else _) = u at h1 ⊢
  split
  · exact h1
  · split
    · exact tablesOk_coreLoad _ _ _ _ _ h1
    · exact tablesOk_l2Touch _ _ _ h1
theorem tablesOk_peerServed (pa cell n : Nat) (k : State → State × Got) (h : s.tablesOk = true)
    (hk : ∀ t : State, t.tablesOk = true → (k t).1.tablesOk = true) : (peerServed pa cell n s k).1.tablesOk = true := by
  have h1 := tablesOk_checkSectors (cell / 128) (sectorsOf (maskRange (cell % 128) n)) h
  unfold peerServed
  simp only
  split
  · exact tablesOk_portPoison _ _ h1
  · exact hk _ h1
theorem tablesOk_writeDev (w : Who) (rt : ReqTy) (tr : Bool) (pa cell : Nat) (bs : List Byte) (h : s.tablesOk = true) :
    (writeDev w rt tr pa cell bs s).1.tablesOk = true := by
  have h1 := tablesOk_checked (tr && (copyOf w.core (cell / 128) s).any (fun c => c.kind == .held &&
    maskRange (cell % 128) bs.length &&& ~~~c.w == 0)) (cell / 128)
    (if tr then storeSectors w.core (cell / 128) rt (maskRange (cell % 128) bs.length) s
      else sectorsOf (maskRange (cell % 128) bs.length) &&& ~~~(wholeSectors (maskRange (cell % 128) bs.length))) h
  have store : ∀ u : State, u.tablesOk = true →
      (if goneIn w s u then (u, false) else if u.retired.contains (pa / 65536) then (u, true)
        else if tr then (coreStore w.core (cell / 128) pa rt (maskRange (cell % 128) bs.length) (lineOfBytes (cell % 128) bs) (ctxTag w.asid) u, false)
        else (untrackedStore w.core (cell / 128) (maskRange (cell % 128) bs.length) (lineOfBytes (cell % 128) bs) (ctxTag w.asid) u, false)).1.tablesOk = true := by
    intro u hu
    split
    · exact hu
    · split
      · exact hu
      · split
        · exact tablesOk_coreStore _ _ _ _ _ _ _ hu
        · exact tablesOk_untrackedStore _ _ _ _ _ hu
  exact store _ h1
theorem tablesOk_rmwDev (w : Who) (tr : Bool) (pa cell n : Nat) (f : List Byte → List Byte) (h : s.tablesOk = true) :
    (rmwDev w tr pa cell n f s).1.tablesOk = true := by
  have h1 := tablesOk_checkSectors (cell / 128) (sectorsOf (maskRange (cell % 128) n)) h
  unfold rmwDev
  simp only
  split
  · exact h1
  · split
    · exact h1
    · cases tr
      · exact tablesOk_untrackedStore _ _ _ _ _ h1
      · exact tablesOk_homeStore _ _ _ _ _ (tablesOk_homePrepare _ _ _ h1)
theorem tablesOk_loopStore (c l : Nat) (m : LineMask) (d : LineData) (h : s.tablesOk = true) : (loopStore c l m d s).tablesOk = true :=
  tablesOk_storeSeen c l (tablesOk_setCopy c l _ (tablesOk_homeStore 385 l m d peerTag h))
theorem tablesOk_peerRmw (c cell n : Nat) (f : List Byte → List Byte) (h : s.tablesOk = true) : (peerRmw c cell n f s).1.tablesOk = true :=
  tablesOk_loopStore _ _ _ _ (tablesOk_homePrepare _ _ _ h)
theorem tablesOk_setPeer (a : Nat) (bs : List Byte) (h : s.tablesOk = true) : ({ s with peerMem := tsetList 0 s.peerMem a bs } : State).tablesOk = true :=
  tablesOk_setPeerMem h (twf_tsetList 0 _ _ _ ((tablesOk_iff s).1 h).2.2.1)
theorem tablesOk_readLoc (w : Who) (rt : ReqTy) (l : Loc) (n : Nat) (h : s.tablesOk = true) : (readLoc w rt l n s).1.tablesOk = true := by
  unfold readLoc
  cases l with
  | dev pa tracked =>
    simp only
    split
    · exact tablesOk_noRegionCheck _ _ h
    · exact tablesOk_readDev _ _ _ _ _ _ h
  | peer d pa =>
    simp only
    split
    · split
      · exact tablesOk_noRegionCheck _ _ h
      · exact tablesOk_peerServed _ _ _ _ h (fun _ ht => tablesOk_homeServe _ _ ht)
    · split
      · exact h
      · exact tablesOk_noPeerRoute _ _ _ h
  | host pa => exact h
  | smem c o => exact h
  | fifo x => exact h
  | absent => exact h
theorem tablesOk_writeLoc (w : Who) (rt : ReqTy) (l : Loc) (cell : Option Nat) (bs : List Byte) (h : s.tablesOk = true) :
    (writeLoc w rt l cell bs s).1.tablesOk = true := by
  unfold writeLoc
  cases l with
  | dev pa tracked =>
    cases cell with
    | none => exact tablesOk_noRegionCheck _ _ h
    | some cell => exact tablesOk_writeDev _ _ _ _ _ _ h
  | peer d pa =>
    simp only
    split
    · split
      · exact tablesOk_noRegionCheck _ _ h
      · exact tablesOk_peerServed _ _ _ _ h (fun _ ht => tablesOk_loopStore _ _ _ _ ht)
    · split
      · exact tablesOk_setPeer _ _ h
      · exact tablesOk_noPeerRoute _ _ _ h
  | host pa => exact tablesOk_putHost _ _ h
  | smem c o => exact tablesOk_putSmem _ _ _ h
  | fifo x => exact h
  | absent => exact h
theorem tablesOk_rmwLoc (w : Who) (l : Loc) (cell : Option Nat) (n : Nat) (f : List Byte → List Byte) (h : s.tablesOk = true) :
    (rmwLoc w l cell n f s).1.tablesOk = true := by
  unfold rmwLoc
  cases l with
  | dev pa tracked =>
    cases cell with
    | none => exact tablesOk_noRegionCheck _ _ h
    | some cell => exact tablesOk_rmwDev _ _ _ _ _ _ h
  | peer d pa =>
    simp only
    split
    · split
      · exact tablesOk_noRegionCheck _ _ h
      · exact tablesOk_peerServed _ _ _ _ h (fun _ ht => tablesOk_peerRmw _ _ _ _ ht)
    · split
      · exact tablesOk_setPeer _ _ h
      · exact tablesOk_noPeerRoute _ _ _ h
  | host pa => exact tablesOk_putHost _ _ h
  | smem c o => exact tablesOk_putSmem _ _ _ h
  | fifo x => exact h
  | absent => exact h

/-- A device reset keeps the memories and clears the rest; a blob clears device memory (R79, R426). -/
theorem tablesOk_resetDevice (b : Boot) (h : s.tablesOk = true) : (resetDevice b s).tablesOk = true :=
  have k := (tablesOk_iff s).1 h
  have r := (tablesOk_iff _).1 tablesOk_reset
  (tablesOk_iff _).2 ⟨k.1, k.2.1, k.2.2.1, r.2.2.2.1, r.2.2.2.2.1, r.2.2.2.2.2⟩
theorem tablesOk_noteChange (p : Nat) (h : s.tablesOk = true) : (noteChange s p).tablesOk = true := h
theorem tablesOk_placeFetch (bs : List Byte) (h : s.tablesOk = true) : (placeFetch bs s).tablesOk = true :=
  tablesOk_foldl noteChange (fun _ p h => tablesOk_noteChange p h) _ _ (tablesOk_setMem h (twf_tsetList 0 bs s.mem 0 ((tablesOk_iff s).1 h).1))

end Sys2Proof.Machine
end

