-- ==== Sys2Proof/Laws/Registers.lean ====
section
/-! SUPPORT. What reading a register gives after the named operations wrote one, and when an instruction's flags let it
go on. -/
namespace Sys2Proof.Machine

/-- A scalar register after a write. -/
theorem getS_setS (n m : SReg) (v : Word) (s : State) : getS (setS n v s) m = if m = n then v else getS s m := by
  unfold getS setS updArch
  simp only [tget_tset]
  by_cases h : m = n
  · subst h; simp
  · have : n.toNat ≠ m.toNat := fun e => h (BitVec.eq_of_toNat_eq e.symm)
    simp [h, this]

/-- A predicate after a write: `p7` stays true. -/
theorem getP_setP (act : Mask) (p q : PReg) (v : Mask) (s : State) :
    getP (setP act p v s) q = if q = p ∧ p ≠ 7 then (getP s p &&& ~~~act) ||| (v &&& act) else getP s q := by
  unfold setP getP
  by_cases h : p = 7
  · simp [h]
  · simp only [h, if_false, updArch, tget_tset]
    by_cases h2 : q = p
    · subst h2
      have h7 : ¬ q = 7#3 := h
      simp [h7]
    · have : p.toNat ≠ q.toNat := fun e => h2 (BitVec.eq_of_toNat_eq e.symm)
      simp [h2, this]

theorem testBit_lane (m : Mask) (l k : Nat) : (m ||| BitVec.twoPow 32 l).getLsbD k = (m.getLsbD k || (decide (k < 32) && decide (k = l))) := by
  simp [BitVec.getLsbD_twoPow]
  by_cases h : l = k
  · subst h; by_cases h2 : l < 32 <;> simp [h2]
  · simp [h, Ne.symm h]

theorem laneMask_fold (P : Nat → Bool) (ls : List Nat) (m : Mask) (k : Nat) :
    (ls.foldl (fun m l => if P l then m ||| BitVec.twoPow 32 l else m) m).getLsbD k =
      (m.getLsbD k || (decide (k < 32) && decide (k ∈ ls) && P k)) := by
  induction ls generalizing m with
  | nil => simp
  | cons l ls ih =>
    rw [List.foldl_cons, ih]
    by_cases h : P l
    · rw [if_pos h, testBit_lane]
      by_cases e : k = l
      · subst e; by_cases h2 : k < 32 <;> simp [h, h2]
      · simp [e]
    · rw [if_neg h]
      by_cases e : k = l
      · subst e; simp [h]
      · simp [e]

/-- Lane k of the mask of a condition. -/
theorem getLsbD_laneMask (P : Nat → Bool) (k : Nat) : (laneMask P).getLsbD k = (decide (k < 32) && P k) := by
  unfold laneMask
  rw [laneMask_fold]
  by_cases h : k < 32 <;> simp [h]

theorem writeLanes_fold (act : Mask) (n : Nat) (val : Nat → LaneWord) (ls : List Nat) (hl : ∀ l ∈ ls, l < 32) (t : List (Nat × LaneWord))
    (r k : Nat) (hk : k < 32) :
    tget 0 (ls.foldl (fun t l => if act.getLsbD l then tset 0 t (32 * n + l) (val l) else t) t) (32 * r + k) =
      if r = n ∧ k ∈ ls ∧ act.getLsbD k = true then val k else tget 0 t (32 * r + k) := by
  induction ls generalizing t with
  | nil => simp
  | cons l ls ih =>
    rw [List.foldl_cons, ih (fun x hx => hl x (by simp [hx]))]
    have hl0 : l < 32 := hl l (by simp)
    by_cases hin : r = n ∧ k ∈ ls ∧ act.getLsbD k = true
    · rw [if_pos hin, if_pos ⟨hin.1, by simp [hin.2.1], hin.2.2⟩]
    · rw [if_neg hin]
      by_cases ha : act.getLsbD l = true
      · rw [if_pos ha, tget_tset]
        by_cases e : 32 * n + l = 32 * r + k
        · have h1 : r = n := by omega
          have h2 : k = l := by omega
          subst h1; subst h2
          simp [ha]
        · rw [if_neg e]
          rw [if_neg]
          rintro ⟨h1, h2, h3⟩
          simp at h2
          rcases h2 with h2 | h2
          · subst h1; subst h2; exact e rfl
          · exact hin ⟨h1, h2, h3⟩
      · rw [if_neg ha]
        by_cases hc : r = n ∧ k ∈ l :: ls ∧ act.getLsbD k = true
        · exfalso
          rcases hc with ⟨h1, h2, h3⟩
          simp at h2
          rcases h2 with h2 | h2
          · subst h2; exact ha h3
          · exact hin ⟨h1, h2, h3⟩
        · rw [if_neg hc]

/-- A vector register's lane in a file in which one register was written in the lanes of a mask. -/
theorem tget_writeLanes (act : Mask) (n : Nat) (val : Nat → LaneWord) (t : List (Nat × LaneWord)) (r k : Nat) (hk : k < 32) :
    tget 0 (writeLanes act n val t) (32 * r + k) = if r = n ∧ act.getLsbD k = true then val k else tget 0 t (32 * r + k) := by
  unfold writeLanes
  rw [writeLanes_fold act n val _ (by simp) t r k hk]
  simp [hk]

/-- A vector register's lane in a file in which several registers were written: one that is not among them is
unchanged. -/
theorem tget_writeDests_other (act : Mask) (val : Nat → Nat → LaneWord) (i : Nat) (ds : List Nat) (t : List (Nat × LaneWord)) (r k : Nat)
    (hk : k < 32) (h : r ∉ ds ∨ act.getLsbD k = false) : tget 0 (writeDests act val i ds t) (32 * r + k) = tget 0 t (32 * r + k) := by
  induction ds generalizing i t with
  | nil => rfl
  | cons d ds ih =>
    rw [writeDests, ih (i + 1) _ (by rcases h with h | h
                                     · left; simp at h; exact h.2
                                     · right; exact h), tget_writeLanes _ _ _ _ _ _ hk, if_neg]
    rintro ⟨h1, h2⟩
    rcases h with h | h
    · simp at h; exact h.1 h1
    · simp [h] at h2

/-- The destination number j of several distinct ones, in a lane of the mask. -/
theorem tget_writeDests_same (act : Mask) (val : Nat → Nat → LaneWord) (i : Nat) (ds : List Nat) (t : List (Nat × LaneWord)) (j k : Nat)
    (hk : k < 32) (hj : j < ds.length) (hd : ds.Nodup) (ha : act.getLsbD k = true) :
    tget 0 (writeDests act val i ds t) (32 * ds[j] + k) = val (i + j) k := by
  induction ds generalizing i t j with
  | nil => simp at hj
  | cons d ds ih =>
    rw [writeDests]
    simp at hd
    cases j with
    | zero =>
      rw [tget_writeDests_other _ _ _ _ _ _ _ hk (Or.inl (by simpa using hd.1)), tget_writeLanes _ _ _ _ _ _ hk]
      simp [ha]
    | succ j =>
      have := ih (i + 1) (writeLanes act d (val i) t) j (by simpa using hj) hd.2
      simp only [List.getElem_cons_succ]
      rw [this]; congr 1; omega

theorem getLsbD_raisedIn (act : Mask) (fl : Nat → FlagSet) (f k : Nat) :
    (raisedIn act fl f).getLsbD k = (decide (k < 32) && act.getLsbD k && (fl k).getLsbD f) := by
  unfold raisedIn
  rw [getLsbD_laneMask, Bool.and_assoc]

theorem accrue_fold (act : Mask) (fl : Nat → FlagSet) (fs : List Nat) (hn : fs.Nodup) (t : List (Nat × Mask)) (f : Nat) :
    tget 0 (fs.foldl (fun t f => tset 0 t f (tget 0 t f ||| raisedIn act fl f)) t) f =
      if f ∈ fs then tget 0 t f ||| raisedIn act fl f else tget 0 t f := by
  induction fs generalizing t with
  | nil => simp
  | cons g fs ih =>
    simp at hn
    rw [List.foldl_cons, ih hn.2, tget_tset]
    by_cases e : g = f
    · subst e; simp [hn.1]
    · simp [e, Ne.symm e]

/-- A flag's lane mask after an instruction's flags were accrued. -/
theorem tget_accrueTbl (act : Mask) (fl : Nat → FlagSet) (t : List (Nat × Mask)) (f : Nat) :
    tget 0 (accrueTbl act fl t) f = if f < 7 then tget 0 t f ||| raisedIn act fl f else tget 0 t f := by
  unfold accrueTbl
  rw [accrue_fold act fl _ List.nodup_range]
  simp

theorem trapLanes_fold (act : Mask) (fl : Nat → FlagSet) (g : Group) (fs : List Nat) (m : Mask) (k : Nat) :
    (fs.foldl (fun m f => m ||| (raisedIn act fl f &&& enabledIn g f)) m).getLsbD k =
      (m.getLsbD k || fs.any (fun f => (raisedIn act fl f).getLsbD k && (enabledIn g f).getLsbD k)) := by
  induction fs generalizing m with
  | nil => simp
  | cons f fs ih => rw [List.foldl_cons, ih]; simp [Bool.or_assoc]

/-- Lane k of the lanes that trap. -/
theorem getLsbD_trapLanes (act : Mask) (fl : Nat → FlagSet) (g : Group) (k : Nat) :
    (trapLanes act fl g).getLsbD k =
      (List.range 7).any (fun f => (raisedIn act fl f).getLsbD k && (enabledIn g f).getLsbD k) := by
  unfold trapLanes
  rw [trapLanes_fold]; simp

/-- No lane traps when no active lane raises an enabled flag. -/
theorem trapLanes_eq_zero (act : Mask) (fl : Nat → FlagSet) (g : Group)
    (h : ∀ f l, f < 7 → l < 32 → act.getLsbD l = true → (fl l).getLsbD f = true → (enabledIn g f).getLsbD l = false) :
    trapLanes act fl g = 0 := by
  apply BitVec.eq_of_getLsbD_eq
  intro k hk
  rw [getLsbD_trapLanes]
  rw [show (0 : Mask).getLsbD k = false by simp, List.any_eq_false]
  simp only [List.mem_range]
  intro f hf
  rw [getLsbD_raisedIn]
  by_cases ha : act.getLsbD k = true
  · by_cases hr : (fl k).getLsbD f = true
    · simp [h f k hf hk ha hr]
    · simp [hr]
  · simp [ha]

/-- An instruction whose flags trap nowhere goes on with its flags accrued. -/
theorem withFlags_go (act : Mask) (fl : Nat → FlagSet) (s : State) (k : State → State)
    (h : trapLanes act fl s.cur = 0) : withFlags act fl s k = k (accrue act fl s) := by
  simp [withFlags, h]

/-- The lowest of some registers is inside the allotment. -/
theorem lowestOut_none (allot : Nat) (named : List Nat) (h : ∀ r ∈ named, r < allot) : lowestOut allot named = none := by
  induction named with
  | nil => rfl
  | cons r rs ih =>
    have := h r (by simp)
    simp [lowestOut, ih (fun x hx => h x (by simp [hx])), this]

/-- The register check passes for registers inside the allotment. -/
theorem regCheck_go (named : List Nat) (s : State) (k : State → State) (h : ∀ r ∈ named, r < s.cur.allot) :
    regCheck named s k = k s := by
  simp [regCheck, lowestOut_none _ _ h]

/-- A vector instruction whose registers are in the allotment, with an active lane and no trapping flag. -/
theorem vectorOp_go (n : Nat) (named ds : List Nat) (val : Nat → Nat → LaneWord) (fl : Nat → FlagSet) (s : State)
    (hc : inCrew s = false) (hr : ∀ r ∈ named, r < s.cur.allot) (ha : active s ≠ 0) (ht : trapLanes (active s) fl s.cur = 0) :
    vectorOp n named ds val fl s = advance n (setDests (active s) ds val (accrue (active s) fl s)) := by
  simp [vectorOp, notCrew, hc, regCheck_go named s _ hr, onceForGroup, show ¬ active s = 0#32 from ha, withFlags_go _ _ _ _ ht]

/-- A vector instruction that writes a predicate, with an active lane and no trapping flag. -/
theorem predicateOp_go (n : Nat) (named : List Nat) (p : PReg) (val : Nat → Bool) (fl : Nat → FlagSet) (s : State)
    (hc : inCrew s = false) (hr : ∀ r ∈ named, r < s.cur.allot) (ha : active s ≠ 0) (ht : trapLanes (active s) fl s.cur = 0) :
    predicateOp n named p val fl s = advance n (setP (active s) p (laneMask val) (accrue (active s) fl s)) := by
  simp [predicateOp, notCrew, hc, regCheck_go named s _ hr, onceForGroup, show ¬ active s = 0#32 from ha, withFlags_go _ _ _ _ ht]

/-- A scalar instruction with an active lane and no trapping flag. -/
theorem scalarOp_go (n : Nat) (d : SReg) (r : Word) (fl : FlagSet) (s : State) (ha : active s ≠ 0)
    (ht : trapLanes (active s) (fun _ => fl) s.cur = 0) :
    scalarOp n d r fl s = advance n (setS d r (accrue (active s) (fun _ => fl) s)) := by
  simp [scalarOp, onceForGroup, show ¬ active s = 0#32 from ha, withFlags_go _ _ _ _ ht]

end Sys2Proof.Machine
end

