-- ==== Sys2Proof/Laws/State.lean ====
section
/-! SUPPORT. What the shared updates leave of the state, field by field. -/
namespace Sys2Proof.Machine
variable (s : State)

@[simp] theorem updCur_cur (f : Group → Group) : (updCur f s).cur = f s.cur := rfl
@[simp] theorem updCur_groups (f : Group → Group) : (updCur f s).groups = s.groups := rfl
@[simp] theorem updCur_sched (f : Group → Group) : (updCur f s).sched = s.sched := rfl
@[simp] theorem updCur_free (f : Group → Group) : (updCur f s).free = s.free := rfl
@[simp] theorem updCur_tick (f : Group → Group) : (updCur f s).tick = s.tick := rfl
@[simp] theorem updCur_mem (f : Group → Group) : (updCur f s).mem = s.mem := rfl
@[simp] theorem updCur_hostMem (f : Group → Group) : (updCur f s).hostMem = s.hostMem := rfl
@[simp] theorem updCur_peerMem (f : Group → Group) : (updCur f s).peerMem = s.peerMem := rfl
@[simp] theorem updCur_smem (f : Group → Group) : (updCur f s).smem = s.smem := rfl
@[simp] theorem updCur_tags (f : Group → Group) : (updCur f s).tags = s.tags := rfl
@[simp] theorem updCur_banks (f : Group → Group) : (updCur f s).banks = s.banks := rfl
@[simp] theorem updCur_teams (f : Group → Group) : (updCur f s).teams = s.teams := rfl
@[simp] theorem updCur_evq (f : Group → Group) : (updCur f s).evq = s.evq := rfl
@[simp] theorem updCur_copies (f : Group → Group) : (updCur f s).copies = s.copies := rfl
@[simp] theorem updCur_tlb1 (f : Group → Group) : (updCur f s).tlb1 = s.tlb1 := rfl
@[simp] theorem updCur_tlb2 (f : Group → Group) : (updCur f s).tlb2 = s.tlb2 := rfl
@[simp] theorem updCur_regions (f : Group → Group) : (updCur f s).regions = s.regions := rfl
@[simp] theorem updCur_shadowRegions (f : Group → Group) : (updCur f s).shadowRegions = s.shadowRegions := rfl
@[simp] theorem updCur_ver (f : Group → Group) : (updCur f s).ver = s.ver := rfl
@[simp] theorem updCur_commitPend (f : Group → Group) : (updCur f s).commitPend = s.commitPend := rfl
@[simp] theorem updCur_commitGo (f : Group → Group) : (updCur f s).commitGo = s.commitGo := rfl
@[simp] theorem updCur_goMore (f : Group → Group) : (updCur f s).goMore = s.goMore := rfl
@[simp] theorem updCur_hostAcks (f : Group → Group) : (updCur f s).hostAcks = s.hostAcks := rfl
@[simp] theorem updCur_heldWrites (f : Group → Group) : (updCur f s).heldWrites = s.heldWrites := rfl
@[simp] theorem updCur_gens (f : Group → Group) : (updCur f s).gens = s.gens := rfl
@[simp] theorem updCur_coxBumps (f : Group → Group) : (updCur f s).coxBumps = s.coxBumps := rfl
@[simp] theorem updCur_asidBase (f : Group → Group) : (updCur f s).asidBase = s.asidBase := rfl
@[simp] theorem updCur_asidCache (f : Group → Group) : (updCur f s).asidCache = s.asidCache := rfl
@[simp] theorem updCur_l2 (f : Group → Group) : (updCur f s).l2 = s.l2 := rfl
@[simp] theorem updCur_quarantine (f : Group → Group) : (updCur f s).quarantine = s.quarantine := rfl
@[simp] theorem updCur_poison (f : Group → Group) : (updCur f s).poison = s.poison := rfl
@[simp] theorem updCur_latent (f : Group → Group) : (updCur f s).latent = s.latent := rfl
@[simp] theorem updCur_found (f : Group → Group) : (updCur f s).found = s.found := rfl
@[simp] theorem updCur_corrected (f : Group → Group) : (updCur f s).corrected = s.corrected := rfl
@[simp] theorem updCur_retired (f : Group → Group) : (updCur f s).retired = s.retired := rfl
@[simp] theorem updCur_faults (f : Group → Group) : (updCur f s).faults = s.faults := rfl
@[simp] theorem updCur_faultDrops (f : Group → Group) : (updCur f s).faultDrops = s.faultDrops := rfl
@[simp] theorem updCur_mcBase (f : Group → Group) : (updCur f s).mcBase = s.mcBase := rfl
@[simp] theorem updCur_mcWptr (f : Group → Group) : (updCur f s).mcWptr = s.mcWptr := rfl
@[simp] theorem updCur_mcCons (f : Group → Group) : (updCur f s).mcCons = s.mcCons := rfl
@[simp] theorem updCur_mcSeq (f : Group → Group) : (updCur f s).mcSeq = s.mcSeq := rfl
@[simp] theorem updCur_mcDrops (f : Group → Group) : (updCur f s).mcDrops = s.mcDrops := rfl
@[simp] theorem updCur_interrupts (f : Group → Group) : (updCur f s).interrupts = s.interrupts := rfl
@[simp] theorem updCur_clock (f : Group → Group) : (updCur f s).clock = s.clock := rfl
@[simp] theorem updCur_clockLock (f : Group → Group) : (updCur f s).clockLock = s.clockLock := rfl
@[simp] theorem updCur_icache (f : Group → Group) : (updCur f s).icache = s.icache := rfl
@[simp] theorem updCur_copyOps (f : Group → Group) : (updCur f s).copyOps = s.copyOps := rfl
@[simp] theorem updCur_slots (f : Group → Group) : (updCur f s).slots = s.slots := rfl
@[simp] theorem updCur_queues (f : Group → Group) : (updCur f s).queues = s.queues := rfl
@[simp] theorem updCur_launches (f : Group → Group) : (updCur f s).launches = s.launches := rfl
@[simp] theorem updCur_saves (f : Group → Group) : (updCur f s).saves = s.saves := rfl
@[simp] theorem updCur_known (f : Group → Group) : (updCur f s).known = s.known := rfl
@[simp] theorem updCur_roundDue (f : Group → Group) : (updCur f s).roundDue = s.roundDue := rfl
@[simp] theorem updCur_dueStatus (f : Group → Group) : (updCur f s).dueStatus = s.dueStatus := rfl
@[simp] theorem updCur_enqBuf (f : Group → Group) : (updCur f s).enqBuf = s.enqBuf := rfl
@[simp] theorem updCur_parts (f : Group → Group) : (updCur f s).parts = s.parts := rfl
@[simp] theorem updCur_coreOwner (f : Group → Group) : (updCur f s).coreOwner = s.coreOwner := rfl
@[simp] theorem updCur_sliceOwner (f : Group → Group) : (updCur f s).sliceOwner = s.sliceOwner := rfl
@[simp] theorem updCur_engineOwner (f : Group → Group) : (updCur f s).engineOwner = s.engineOwner := rfl
@[simp] theorem updCur_stepped (f : Group → Group) : (updCur f s).stepped = s.stepped := rfl
@[simp] theorem updCur_devno (f : Group → Group) : (updCur f s).devno = s.devno := rfl
@[simp] theorem updCur_ratios (f : Group → Group) : (updCur f s).ratios = s.ratios := rfl
@[simp] theorem updCur_conns (f : Group → Group) : (updCur f s).conns = s.conns := rfl
@[simp] theorem updCur_noRoute (f : Group → Group) : (updCur f s).noRoute = s.noRoute := rfl
@[simp] theorem updCur_windows (f : Group → Group) : (updCur f s).windows = s.windows := rfl
@[simp] theorem updCur_redUnit (f : Group → Group) : (updCur f s).redUnit = s.redUnit := rfl
@[simp] theorem updCur_coxSram (f : Group → Group) : (updCur f s).coxSram = s.coxSram := rfl
@[simp] theorem updCur_halted (f : Group → Group) : (updCur f s).halted = s.halted := rfl
@[simp] theorem updCur_boot (f : Group → Group) : (updCur f s).boot = s.boot := rfl
@[simp] theorem updCur_temps (f : Group → Group) : (updCur f s).temps = s.temps := rfl
@[simp] theorem updCur_dumpBase (f : Group → Group) : (updCur f s).dumpBase = s.dumpBase := rfl
@[simp] theorem updCur_dumpSize (f : Group → Group) : (updCur f s).dumpSize = s.dumpSize := rfl
@[simp] theorem updCur_fatals (f : Group → Group) : (updCur f s).fatals = s.fatals := rfl
@[simp] theorem updCur_bmcLog (f : Group → Group) : (updCur f s).bmcLog = s.bmcLog := rfl
@[simp] theorem updCur_hostRead (f : Group → Group) : (updCur f s).hostRead = s.hostRead := rfl
@[simp] theorem updCur_peerRead (f : Group → Group) : (updCur f s).peerRead = s.peerRead := rfl
@[simp] theorem updCur_faultsRead (f : Group → Group) : (updCur f s).faultsRead = s.faultsRead := rfl
@[simp] theorem updCur_gids (f : Group → Group) : (updCur f s).gids = s.gids := rfl
@[simp] theorem nextFree_cur : (nextFree s).cur = s.cur := rfl
@[simp] theorem nextFree_groups : (nextFree s).groups = s.groups := rfl
@[simp] theorem nextFree_sched : (nextFree s).sched = s.sched := rfl
@[simp] theorem nextFree_tick : (nextFree s).tick = s.tick := rfl
@[simp] theorem nextFree_mem : (nextFree s).mem = s.mem := rfl
@[simp] theorem nextFree_hostMem : (nextFree s).hostMem = s.hostMem := rfl
@[simp] theorem nextFree_peerMem : (nextFree s).peerMem = s.peerMem := rfl
@[simp] theorem nextFree_smem : (nextFree s).smem = s.smem := rfl
@[simp] theorem nextFree_tags : (nextFree s).tags = s.tags := rfl
@[simp] theorem nextFree_banks : (nextFree s).banks = s.banks := rfl
@[simp] theorem nextFree_teams : (nextFree s).teams = s.teams := rfl
@[simp] theorem nextFree_evq : (nextFree s).evq = s.evq := rfl
@[simp] theorem nextFree_copies : (nextFree s).copies = s.copies := rfl
@[simp] theorem nextFree_tlb1 : (nextFree s).tlb1 = s.tlb1 := rfl
@[simp] theorem nextFree_tlb2 : (nextFree s).tlb2 = s.tlb2 := rfl
@[simp] theorem nextFree_regions : (nextFree s).regions = s.regions := rfl
@[simp] theorem nextFree_shadowRegions : (nextFree s).shadowRegions = s.shadowRegions := rfl
@[simp] theorem nextFree_ver : (nextFree s).ver = s.ver := rfl
@[simp] theorem nextFree_commitPend : (nextFree s).commitPend = s.commitPend := rfl
@[simp] theorem nextFree_commitGo : (nextFree s).commitGo = s.commitGo := rfl
@[simp] theorem nextFree_goMore : (nextFree s).goMore = s.goMore := rfl
@[simp] theorem nextFree_hostAcks : (nextFree s).hostAcks = s.hostAcks := rfl
@[simp] theorem nextFree_heldWrites : (nextFree s).heldWrites = s.heldWrites := rfl
@[simp] theorem nextFree_gens : (nextFree s).gens = s.gens := rfl
@[simp] theorem nextFree_coxBumps : (nextFree s).coxBumps = s.coxBumps := rfl
@[simp] theorem nextFree_asidBase : (nextFree s).asidBase = s.asidBase := rfl
@[simp] theorem nextFree_asidCache : (nextFree s).asidCache = s.asidCache := rfl
@[simp] theorem nextFree_l2 : (nextFree s).l2 = s.l2 := rfl
@[simp] theorem nextFree_quarantine : (nextFree s).quarantine = s.quarantine := rfl
@[simp] theorem nextFree_poison : (nextFree s).poison = s.poison := rfl
@[simp] theorem nextFree_latent : (nextFree s).latent = s.latent := rfl
@[simp] theorem nextFree_found : (nextFree s).found = s.found := rfl
@[simp] theorem nextFree_corrected : (nextFree s).corrected = s.corrected := rfl
@[simp] theorem nextFree_retired : (nextFree s).retired = s.retired := rfl
@[simp] theorem nextFree_faults : (nextFree s).faults = s.faults := rfl
@[simp] theorem nextFree_faultDrops : (nextFree s).faultDrops = s.faultDrops := rfl
@[simp] theorem nextFree_mcBase : (nextFree s).mcBase = s.mcBase := rfl
@[simp] theorem nextFree_mcWptr : (nextFree s).mcWptr = s.mcWptr := rfl
@[simp] theorem nextFree_mcCons : (nextFree s).mcCons = s.mcCons := rfl
@[simp] theorem nextFree_mcSeq : (nextFree s).mcSeq = s.mcSeq := rfl
@[simp] theorem nextFree_mcDrops : (nextFree s).mcDrops = s.mcDrops := rfl
@[simp] theorem nextFree_interrupts : (nextFree s).interrupts = s.interrupts := rfl
@[simp] theorem nextFree_clock : (nextFree s).clock = s.clock := rfl
@[simp] theorem nextFree_clockLock : (nextFree s).clockLock = s.clockLock := rfl
@[simp] theorem nextFree_icache : (nextFree s).icache = s.icache := rfl
@[simp] theorem nextFree_copyOps : (nextFree s).copyOps = s.copyOps := rfl
@[simp] theorem nextFree_slots : (nextFree s).slots = s.slots := rfl
@[simp] theorem nextFree_queues : (nextFree s).queues = s.queues := rfl
@[simp] theorem nextFree_launches : (nextFree s).launches = s.launches := rfl
@[simp] theorem nextFree_saves : (nextFree s).saves = s.saves := rfl
@[simp] theorem nextFree_known : (nextFree s).known = s.known := rfl
@[simp] theorem nextFree_roundDue : (nextFree s).roundDue = s.roundDue := rfl
@[simp] theorem nextFree_dueStatus : (nextFree s).dueStatus = s.dueStatus := rfl
@[simp] theorem nextFree_enqBuf : (nextFree s).enqBuf = s.enqBuf := rfl
@[simp] theorem nextFree_parts : (nextFree s).parts = s.parts := rfl
@[simp] theorem nextFree_coreOwner : (nextFree s).coreOwner = s.coreOwner := rfl
@[simp] theorem nextFree_sliceOwner : (nextFree s).sliceOwner = s.sliceOwner := rfl
@[simp] theorem nextFree_engineOwner : (nextFree s).engineOwner = s.engineOwner := rfl
@[simp] theorem nextFree_stepped : (nextFree s).stepped = s.stepped := rfl
@[simp] theorem nextFree_devno : (nextFree s).devno = s.devno := rfl
@[simp] theorem nextFree_ratios : (nextFree s).ratios = s.ratios := rfl
@[simp] theorem nextFree_conns : (nextFree s).conns = s.conns := rfl
@[simp] theorem nextFree_noRoute : (nextFree s).noRoute = s.noRoute := rfl
@[simp] theorem nextFree_windows : (nextFree s).windows = s.windows := rfl
@[simp] theorem nextFree_redUnit : (nextFree s).redUnit = s.redUnit := rfl
@[simp] theorem nextFree_coxSram : (nextFree s).coxSram = s.coxSram := rfl
@[simp] theorem nextFree_halted : (nextFree s).halted = s.halted := rfl
@[simp] theorem nextFree_boot : (nextFree s).boot = s.boot := rfl
@[simp] theorem nextFree_temps : (nextFree s).temps = s.temps := rfl
@[simp] theorem nextFree_dumpBase : (nextFree s).dumpBase = s.dumpBase := rfl
@[simp] theorem nextFree_dumpSize : (nextFree s).dumpSize = s.dumpSize := rfl
@[simp] theorem nextFree_fatals : (nextFree s).fatals = s.fatals := rfl
@[simp] theorem nextFree_bmcLog : (nextFree s).bmcLog = s.bmcLog := rfl
@[simp] theorem nextFree_hostRead : (nextFree s).hostRead = s.hostRead := rfl
@[simp] theorem nextFree_peerRead : (nextFree s).peerRead = s.peerRead := rfl
@[simp] theorem nextFree_faultsRead : (nextFree s).faultsRead = s.faultsRead := rfl
@[simp] theorem nextFree_gids : (nextFree s).gids = s.gids := rfl
@[simp] theorem nextFree_free : (nextFree s).free = s.free + 1 := rfl

theorem updArch_eq (f : Arch → Arch) : updArch f s = updCur (fun g => { g with arch := f g.arch }) s := rfl
theorem setS_eq (n : SReg) (v : Word) : setS n v s = updArch (fun a => { a with sregs := tset 0 a.sregs n.toNat v }) s := rfl
theorem setV_eq (act : Mask) (n : Nat) (val : Nat → LaneWord) :
    setV act n val s = updArch (fun a => { a with vregs := writeLanes act n val a.vregs }) s := rfl
theorem setDests_eq (act : Mask) (ds : List Nat) (val : Nat → Nat → LaneWord) :
    setDests act ds val s = updArch (fun a => { a with vregs := writeDests act val 0 ds a.vregs }) s := rfl
theorem accrue_eq (act : Mask) (fl : Nat → FlagSet) :
    accrue act fl s = updArch (fun a => { a with ffl := accrueTbl act fl a.ffl }) s := rfl
/-- A predicate write is a change of the predicates. -/
theorem setP_eq (act : Mask) (p : PReg) (v : Mask) : setP act p v s = updArch (fun a => { a with preds := (
    if p = 7 then a.preds else tset 0 a.preds p.toNat ((tget 0 a.preds p.toNat &&& ~~~act) ||| (v &&& act))) }) s := by
  unfold setP; split <;> rfl

@[simp] theorem updArch_mem (f : Arch → Arch) : (updArch f s).mem = s.mem := rfl
@[simp] theorem updArch_hostMem (f : Arch → Arch) : (updArch f s).hostMem = s.hostMem := rfl
@[simp] theorem updArch_peerMem (f : Arch → Arch) : (updArch f s).peerMem = s.peerMem := rfl
@[simp] theorem updArch_smem (f : Arch → Arch) : (updArch f s).smem = s.smem := rfl
@[simp] theorem updArch_tags (f : Arch → Arch) : (updArch f s).tags = s.tags := rfl
@[simp] theorem updArch_banks (f : Arch → Arch) : (updArch f s).banks = s.banks := rfl
@[simp] theorem setS_mem (n : SReg) (v : Word) : (setS n v s).mem = s.mem := rfl
@[simp] theorem setS_hostMem (n : SReg) (v : Word) : (setS n v s).hostMem = s.hostMem := rfl
@[simp] theorem setS_peerMem (n : SReg) (v : Word) : (setS n v s).peerMem = s.peerMem := rfl
@[simp] theorem setS_smem (n : SReg) (v : Word) : (setS n v s).smem = s.smem := rfl
@[simp] theorem setS_tags (n : SReg) (v : Word) : (setS n v s).tags = s.tags := rfl
@[simp] theorem setS_banks (n : SReg) (v : Word) : (setS n v s).banks = s.banks := rfl
@[simp] theorem setV_mem (act : Mask) (n : Nat) (val : Nat → LaneWord) : (setV act n val s).mem = s.mem := rfl
@[simp] theorem setV_hostMem (act : Mask) (n : Nat) (val : Nat → LaneWord) : (setV act n val s).hostMem = s.hostMem := rfl
@[simp] theorem setV_peerMem (act : Mask) (n : Nat) (val : Nat → LaneWord) : (setV act n val s).peerMem = s.peerMem := rfl
@[simp] theorem setV_smem (act : Mask) (n : Nat) (val : Nat → LaneWord) : (setV act n val s).smem = s.smem := rfl
@[simp] theorem setV_tags (act : Mask) (n : Nat) (val : Nat → LaneWord) : (setV act n val s).tags = s.tags := rfl
@[simp] theorem setV_banks (act : Mask) (n : Nat) (val : Nat → LaneWord) : (setV act n val s).banks = s.banks := rfl
@[simp] theorem setDests_mem (act : Mask) (ds : List Nat) (val : Nat → Nat → LaneWord) : (setDests act ds val s).mem = s.mem := rfl
@[simp] theorem setDests_hostMem (act : Mask) (ds : List Nat) (val : Nat → Nat → LaneWord) : (setDests act ds val s).hostMem = s.hostMem := rfl
@[simp] theorem setDests_peerMem (act : Mask) (ds : List Nat) (val : Nat → Nat → LaneWord) : (setDests act ds val s).peerMem = s.peerMem := rfl
@[simp] theorem setDests_smem (act : Mask) (ds : List Nat) (val : Nat → Nat → LaneWord) : (setDests act ds val s).smem = s.smem := rfl
@[simp] theorem setDests_tags (act : Mask) (ds : List Nat) (val : Nat → Nat → LaneWord) : (setDests act ds val s).tags = s.tags := rfl
@[simp] theorem setDests_banks (act : Mask) (ds : List Nat) (val : Nat → Nat → LaneWord) : (setDests act ds val s).banks = s.banks := rfl
@[simp] theorem accrue_mem (act : Mask) (fl : Nat → FlagSet) : (accrue act fl s).mem = s.mem := rfl
@[simp] theorem accrue_hostMem (act : Mask) (fl : Nat → FlagSet) : (accrue act fl s).hostMem = s.hostMem := rfl
@[simp] theorem accrue_peerMem (act : Mask) (fl : Nat → FlagSet) : (accrue act fl s).peerMem = s.peerMem := rfl
@[simp] theorem accrue_smem (act : Mask) (fl : Nat → FlagSet) : (accrue act fl s).smem = s.smem := rfl
@[simp] theorem accrue_tags (act : Mask) (fl : Nat → FlagSet) : (accrue act fl s).tags = s.tags := rfl
@[simp] theorem accrue_banks (act : Mask) (fl : Nat → FlagSet) : (accrue act fl s).banks = s.banks := rfl
@[simp] theorem advance_mem (n : Nat) : (advance n s).mem = s.mem := rfl
@[simp] theorem advance_hostMem (n : Nat) : (advance n s).hostMem = s.hostMem := rfl
@[simp] theorem advance_peerMem (n : Nat) : (advance n s).peerMem = s.peerMem := rfl
@[simp] theorem advance_smem (n : Nat) : (advance n s).smem = s.smem := rfl
@[simp] theorem advance_tags (n : Nat) : (advance n s).tags = s.tags := rfl
@[simp] theorem advance_banks (n : Nat) : (advance n s).banks = s.banks := rfl
@[simp] theorem goto_mem (a : VAddr) : (goto a s).mem = s.mem := rfl
@[simp] theorem goto_hostMem (a : VAddr) : (goto a s).hostMem = s.hostMem := rfl
@[simp] theorem goto_peerMem (a : VAddr) : (goto a s).peerMem = s.peerMem := rfl
@[simp] theorem goto_smem (a : VAddr) : (goto a s).smem = s.smem := rfl
@[simp] theorem goto_tags (a : VAddr) : (goto a s).tags = s.tags := rfl
@[simp] theorem goto_banks (a : VAddr) : (goto a s).banks = s.banks := rfl
@[simp] theorem setP_mem (act : Mask) (p : PReg) (v : Mask) : (setP act p v s).mem = s.mem := by rw [setP_eq]; rfl
@[simp] theorem setP_hostMem (act : Mask) (p : PReg) (v : Mask) : (setP act p v s).hostMem = s.hostMem := by rw [setP_eq]; rfl
@[simp] theorem setP_peerMem (act : Mask) (p : PReg) (v : Mask) : (setP act p v s).peerMem = s.peerMem := by rw [setP_eq]; rfl
@[simp] theorem setP_smem (act : Mask) (p : PReg) (v : Mask) : (setP act p v s).smem = s.smem := by rw [setP_eq]; rfl
@[simp] theorem setP_tags (act : Mask) (p : PReg) (v : Mask) : (setP act p v s).tags = s.tags := by rw [setP_eq]; rfl
@[simp] theorem setP_banks (act : Mask) (p : PReg) (v : Mask) : (setP act p v s).banks = s.banks := by rw [setP_eq]; rfl
@[simp] theorem block_mem (w : Wait) : (block w s).mem = s.mem := by unfold block; split <;> rfl
@[simp] theorem block_hostMem (w : Wait) : (block w s).hostMem = s.hostMem := by unfold block; split <;> rfl
@[simp] theorem block_peerMem (w : Wait) : (block w s).peerMem = s.peerMem := by unfold block; split <;> rfl
@[simp] theorem block_smem (w : Wait) : (block w s).smem = s.smem := by unfold block; split <;> rfl
@[simp] theorem block_tags (w : Wait) : (block w s).tags = s.tags := by unfold block; split <;> rfl
@[simp] theorem block_banks (w : Wait) : (block w s).banks = s.banks := by unfold block; split <;> rfl
@[simp] theorem updArch_cur_fence (f : Arch → Arch) : (updArch f s).cur.fence = s.cur.fence := rfl
@[simp] theorem setS_cur_fence (n : SReg) (v : Word) : (setS n v s).cur.fence = s.cur.fence := rfl
@[simp] theorem setV_cur_fence (act : Mask) (n : Nat) (val : Nat → LaneWord) : (setV act n val s).cur.fence = s.cur.fence := rfl
@[simp] theorem setDests_cur_fence (act : Mask) (ds : List Nat) (val : Nat → Nat → LaneWord) : (setDests act ds val s).cur.fence = s.cur.fence := rfl
@[simp] theorem accrue_cur_fence (act : Mask) (fl : Nat → FlagSet) : (accrue act fl s).cur.fence = s.cur.fence := rfl
@[simp] theorem advance_cur_fence (n : Nat) : (advance n s).cur.fence = s.cur.fence := rfl
@[simp] theorem goto_cur_fence (a : VAddr) : (goto a s).cur.fence = s.cur.fence := rfl
@[simp] theorem setP_cur_fence (act : Mask) (p : PReg) (v : Mask) : (setP act p v s).cur.fence = s.cur.fence := by rw [setP_eq]; rfl
@[simp] theorem updArch_cur_posted (f : Arch → Arch) : (updArch f s).cur.posted = s.cur.posted := rfl
@[simp] theorem setS_cur_posted (n : SReg) (v : Word) : (setS n v s).cur.posted = s.cur.posted := rfl
@[simp] theorem setV_cur_posted (act : Mask) (n : Nat) (val : Nat → LaneWord) : (setV act n val s).cur.posted = s.cur.posted := rfl
@[simp] theorem setDests_cur_posted (act : Mask) (ds : List Nat) (val : Nat → Nat → LaneWord) : (setDests act ds val s).cur.posted = s.cur.posted := rfl
@[simp] theorem accrue_cur_posted (act : Mask) (fl : Nat → FlagSet) : (accrue act fl s).cur.posted = s.cur.posted := rfl
@[simp] theorem advance_cur_posted (n : Nat) : (advance n s).cur.posted = s.cur.posted := rfl
@[simp] theorem goto_cur_posted (a : VAddr) : (goto a s).cur.posted = s.cur.posted := rfl
@[simp] theorem setP_cur_posted (act : Mask) (p : PReg) (v : Mask) : (setP act p v s).cur.posted = s.cur.posted := by rw [setP_eq]; rfl
@[simp] theorem updArch_cur_ften (f : Arch → Arch) : (updArch f s).cur.ften = s.cur.ften := rfl
@[simp] theorem setS_cur_ften (n : SReg) (v : Word) : (setS n v s).cur.ften = s.cur.ften := rfl
@[simp] theorem setV_cur_ften (act : Mask) (n : Nat) (val : Nat → LaneWord) : (setV act n val s).cur.ften = s.cur.ften := rfl
@[simp] theorem setDests_cur_ften (act : Mask) (ds : List Nat) (val : Nat → Nat → LaneWord) : (setDests act ds val s).cur.ften = s.cur.ften := rfl
@[simp] theorem accrue_cur_ften (act : Mask) (fl : Nat → FlagSet) : (accrue act fl s).cur.ften = s.cur.ften := rfl
@[simp] theorem advance_cur_ften (n : Nat) : (advance n s).cur.ften = s.cur.ften := rfl
@[simp] theorem goto_cur_ften (a : VAddr) : (goto a s).cur.ften = s.cur.ften := rfl
@[simp] theorem setP_cur_ften (act : Mask) (p : PReg) (v : Mask) : (setP act p v s).cur.ften = s.cur.ften := by rw [setP_eq]; rfl
@[simp] theorem updArch_cur_allot (f : Arch → Arch) : (updArch f s).cur.allot = s.cur.allot := rfl
@[simp] theorem setS_cur_allot (n : SReg) (v : Word) : (setS n v s).cur.allot = s.cur.allot := rfl
@[simp] theorem setV_cur_allot (act : Mask) (n : Nat) (val : Nat → LaneWord) : (setV act n val s).cur.allot = s.cur.allot := rfl
@[simp] theorem setDests_cur_allot (act : Mask) (ds : List Nat) (val : Nat → Nat → LaneWord) : (setDests act ds val s).cur.allot = s.cur.allot := rfl
@[simp] theorem accrue_cur_allot (act : Mask) (fl : Nat → FlagSet) : (accrue act fl s).cur.allot = s.cur.allot := rfl
@[simp] theorem advance_cur_allot (n : Nat) : (advance n s).cur.allot = s.cur.allot := rfl
@[simp] theorem goto_cur_allot (a : VAddr) : (goto a s).cur.allot = s.cur.allot := rfl
@[simp] theorem setP_cur_allot (act : Mask) (p : PReg) (v : Mask) : (setP act p v s).cur.allot = s.cur.allot := by rw [setP_eq]; rfl
@[simp] theorem updArch_cur_crew (f : Arch → Arch) : (updArch f s).cur.crew = s.cur.crew := rfl
@[simp] theorem setS_cur_crew (n : SReg) (v : Word) : (setS n v s).cur.crew = s.cur.crew := rfl
@[simp] theorem setV_cur_crew (act : Mask) (n : Nat) (val : Nat → LaneWord) : (setV act n val s).cur.crew = s.cur.crew := rfl
@[simp] theorem setDests_cur_crew (act : Mask) (ds : List Nat) (val : Nat → Nat → LaneWord) : (setDests act ds val s).cur.crew = s.cur.crew := rfl
@[simp] theorem accrue_cur_crew (act : Mask) (fl : Nat → FlagSet) : (accrue act fl s).cur.crew = s.cur.crew := rfl
@[simp] theorem advance_cur_crew (n : Nat) : (advance n s).cur.crew = s.cur.crew := rfl
@[simp] theorem goto_cur_crew (a : VAddr) : (goto a s).cur.crew = s.cur.crew := rfl
@[simp] theorem setP_cur_crew (act : Mask) (p : PReg) (v : Mask) : (setP act p v s).cur.crew = s.cur.crew := by rw [setP_eq]; rfl
@[simp] theorem updArch_cur_guard (f : Arch → Arch) : (updArch f s).cur.guard = s.cur.guard := rfl
@[simp] theorem setS_cur_guard (n : SReg) (v : Word) : (setS n v s).cur.guard = s.cur.guard := rfl
@[simp] theorem setV_cur_guard (act : Mask) (n : Nat) (val : Nat → LaneWord) : (setV act n val s).cur.guard = s.cur.guard := rfl
@[simp] theorem setDests_cur_guard (act : Mask) (ds : List Nat) (val : Nat → Nat → LaneWord) : (setDests act ds val s).cur.guard = s.cur.guard := rfl
@[simp] theorem accrue_cur_guard (act : Mask) (fl : Nat → FlagSet) : (accrue act fl s).cur.guard = s.cur.guard := rfl
@[simp] theorem advance_cur_guard (n : Nat) : (advance n s).cur.guard = s.cur.guard := rfl
@[simp] theorem goto_cur_guard (a : VAddr) : (goto a s).cur.guard = s.cur.guard := rfl
@[simp] theorem setP_cur_guard (act : Mask) (p : PReg) (v : Mask) : (setP act p v s).cur.guard = s.cur.guard := by rw [setP_eq]; rfl
@[simp] theorem updArch_cur_asid (f : Arch → Arch) : (updArch f s).cur.asid = s.cur.asid := rfl
@[simp] theorem setS_cur_asid (n : SReg) (v : Word) : (setS n v s).cur.asid = s.cur.asid := rfl
@[simp] theorem setV_cur_asid (act : Mask) (n : Nat) (val : Nat → LaneWord) : (setV act n val s).cur.asid = s.cur.asid := rfl
@[simp] theorem setDests_cur_asid (act : Mask) (ds : List Nat) (val : Nat → Nat → LaneWord) : (setDests act ds val s).cur.asid = s.cur.asid := rfl
@[simp] theorem accrue_cur_asid (act : Mask) (fl : Nat → FlagSet) : (accrue act fl s).cur.asid = s.cur.asid := rfl
@[simp] theorem advance_cur_asid (n : Nat) : (advance n s).cur.asid = s.cur.asid := rfl
@[simp] theorem goto_cur_asid (a : VAddr) : (goto a s).cur.asid = s.cur.asid := rfl
@[simp] theorem setP_cur_asid (act : Mask) (p : PReg) (v : Mask) : (setP act p v s).cur.asid = s.cur.asid := by rw [setP_eq]; rfl
@[simp] theorem updArch_cur_core (f : Arch → Arch) : (updArch f s).cur.core = s.cur.core := rfl
@[simp] theorem setS_cur_core (n : SReg) (v : Word) : (setS n v s).cur.core = s.cur.core := rfl
@[simp] theorem setV_cur_core (act : Mask) (n : Nat) (val : Nat → LaneWord) : (setV act n val s).cur.core = s.cur.core := rfl
@[simp] theorem setDests_cur_core (act : Mask) (ds : List Nat) (val : Nat → Nat → LaneWord) : (setDests act ds val s).cur.core = s.cur.core := rfl
@[simp] theorem accrue_cur_core (act : Mask) (fl : Nat → FlagSet) : (accrue act fl s).cur.core = s.cur.core := rfl
@[simp] theorem advance_cur_core (n : Nat) : (advance n s).cur.core = s.cur.core := rfl
@[simp] theorem goto_cur_core (a : VAddr) : (goto a s).cur.core = s.cur.core := rfl
@[simp] theorem setP_cur_core (act : Mask) (p : PReg) (v : Mask) : (setP act p v s).cur.core = s.cur.core := by rw [setP_eq]; rfl
@[simp] theorem updArch_cur_part (f : Arch → Arch) : (updArch f s).cur.part = s.cur.part := rfl
@[simp] theorem setS_cur_part (n : SReg) (v : Word) : (setS n v s).cur.part = s.cur.part := rfl
@[simp] theorem setV_cur_part (act : Mask) (n : Nat) (val : Nat → LaneWord) : (setV act n val s).cur.part = s.cur.part := rfl
@[simp] theorem setDests_cur_part (act : Mask) (ds : List Nat) (val : Nat → Nat → LaneWord) : (setDests act ds val s).cur.part = s.cur.part := rfl
@[simp] theorem accrue_cur_part (act : Mask) (fl : Nat → FlagSet) : (accrue act fl s).cur.part = s.cur.part := rfl
@[simp] theorem advance_cur_part (n : Nat) : (advance n s).cur.part = s.cur.part := rfl
@[simp] theorem goto_cur_part (a : VAddr) : (goto a s).cur.part = s.cur.part := rfl
@[simp] theorem setP_cur_part (act : Mask) (p : PReg) (v : Mask) : (setP act p v s).cur.part = s.cur.part := by rw [setP_eq]; rfl
@[simp] theorem updArch_cur_idx (f : Arch → Arch) : (updArch f s).cur.idx = s.cur.idx := rfl
@[simp] theorem setS_cur_idx (n : SReg) (v : Word) : (setS n v s).cur.idx = s.cur.idx := rfl
@[simp] theorem setV_cur_idx (act : Mask) (n : Nat) (val : Nat → LaneWord) : (setV act n val s).cur.idx = s.cur.idx := rfl
@[simp] theorem setDests_cur_idx (act : Mask) (ds : List Nat) (val : Nat → Nat → LaneWord) : (setDests act ds val s).cur.idx = s.cur.idx := rfl
@[simp] theorem accrue_cur_idx (act : Mask) (fl : Nat → FlagSet) : (accrue act fl s).cur.idx = s.cur.idx := rfl
@[simp] theorem advance_cur_idx (n : Nat) : (advance n s).cur.idx = s.cur.idx := rfl
@[simp] theorem goto_cur_idx (a : VAddr) : (goto a s).cur.idx = s.cur.idx := rfl
@[simp] theorem setP_cur_idx (act : Mask) (p : PReg) (v : Mask) : (setP act p v s).cur.idx = s.cur.idx := by rw [setP_eq]; rfl
@[simp] theorem updArch_cur_tvec (f : Arch → Arch) : (updArch f s).cur.tvec = s.cur.tvec := rfl
@[simp] theorem setS_cur_tvec (n : SReg) (v : Word) : (setS n v s).cur.tvec = s.cur.tvec := rfl
@[simp] theorem setV_cur_tvec (act : Mask) (n : Nat) (val : Nat → LaneWord) : (setV act n val s).cur.tvec = s.cur.tvec := rfl
@[simp] theorem setDests_cur_tvec (act : Mask) (ds : List Nat) (val : Nat → Nat → LaneWord) : (setDests act ds val s).cur.tvec = s.cur.tvec := rfl
@[simp] theorem accrue_cur_tvec (act : Mask) (fl : Nat → FlagSet) : (accrue act fl s).cur.tvec = s.cur.tvec := rfl
@[simp] theorem advance_cur_tvec (n : Nat) : (advance n s).cur.tvec = s.cur.tvec := rfl
@[simp] theorem goto_cur_tvec (a : VAddr) : (goto a s).cur.tvec = s.cur.tvec := rfl
@[simp] theorem setP_cur_tvec (act : Mask) (p : PReg) (v : Mask) : (setP act p v s).cur.tvec = s.cur.tvec := by rw [setP_eq]; rfl
@[simp] theorem updArch_cur_tcause (f : Arch → Arch) : (updArch f s).cur.tcause = s.cur.tcause := rfl
@[simp] theorem setS_cur_tcause (n : SReg) (v : Word) : (setS n v s).cur.tcause = s.cur.tcause := rfl
@[simp] theorem setV_cur_tcause (act : Mask) (n : Nat) (val : Nat → LaneWord) : (setV act n val s).cur.tcause = s.cur.tcause := rfl
@[simp] theorem setDests_cur_tcause (act : Mask) (ds : List Nat) (val : Nat → Nat → LaneWord) : (setDests act ds val s).cur.tcause = s.cur.tcause := rfl
@[simp] theorem accrue_cur_tcause (act : Mask) (fl : Nat → FlagSet) : (accrue act fl s).cur.tcause = s.cur.tcause := rfl
@[simp] theorem advance_cur_tcause (n : Nat) : (advance n s).cur.tcause = s.cur.tcause := rfl
@[simp] theorem goto_cur_tcause (a : VAddr) : (goto a s).cur.tcause = s.cur.tcause := rfl
@[simp] theorem setP_cur_tcause (act : Mask) (p : PReg) (v : Mask) : (setP act p v s).cur.tcause = s.cur.tcause := by rw [setP_eq]; rfl
@[simp] theorem updArch_cur_mon (f : Arch → Arch) : (updArch f s).cur.mon = s.cur.mon := rfl
@[simp] theorem setS_cur_mon (n : SReg) (v : Word) : (setS n v s).cur.mon = s.cur.mon := rfl
@[simp] theorem setV_cur_mon (act : Mask) (n : Nat) (val : Nat → LaneWord) : (setV act n val s).cur.mon = s.cur.mon := rfl
@[simp] theorem setDests_cur_mon (act : Mask) (ds : List Nat) (val : Nat → Nat → LaneWord) : (setDests act ds val s).cur.mon = s.cur.mon := rfl
@[simp] theorem accrue_cur_mon (act : Mask) (fl : Nat → FlagSet) : (accrue act fl s).cur.mon = s.cur.mon := rfl
@[simp] theorem advance_cur_mon (n : Nat) : (advance n s).cur.mon = s.cur.mon := rfl
@[simp] theorem goto_cur_mon (a : VAddr) : (goto a s).cur.mon = s.cur.mon := rfl
@[simp] theorem setP_cur_mon (act : Mask) (p : PReg) (v : Mask) : (setP act p v s).cur.mon = s.cur.mon := by rw [setP_eq]; rfl

end Sys2Proof.Machine
end

