-- ==== Sys2Proof/Laws/Traps.lean ====
section
/-! SUPPORT. What taking a trap and the moulds of instructions can do: when they go on, when they trap, and that they keep the memories'
form. -/
namespace Sys2Proof.Machine

variable {s : State}

/-- A trap taken or kept waiting (R134, R349, R352). -/
theorem tablesOk_takeTrap (t : TrapInfo) (h : s.tablesOk = true) : (takeTrap t s).tablesOk = true := by
  unfold takeTrap
  simp only
  split
  · exact tablesOk_endContext _ _ _ _ _ h
  · split
    · exact tablesOk_endContext _ _ _ _ _ h
    · exact h
theorem tablesOk_raise (t : TrapInfo) (h : s.tablesOk = true) : (raise t s).tablesOk = true := by
  unfold raise
  split
  · exact h
  · exact tablesOk_takeTrap _ h
theorem tablesOk_raiseGroup (c : Cause) (a : Word) (h : s.tablesOk = true) : (raiseGroup c a s).tablesOk = true := tablesOk_raise _ h
theorem tablesOk_raiseOpen (c : Cause) (h : s.tablesOk = true) : (raiseOpen c s).tablesOk = true := tablesOk_raiseGroup c _ h
theorem tablesOk_block (w : Wait) (h : s.tablesOk = true) : (block w s).tablesOk = true := by
  unfold block
  split <;> exact h

/-- The moulds of an instruction keep the form wherever what they go on to keeps it. -/
theorem tablesOk_notCrew {k : State → State} (h : s.tablesOk = true) (hk : (k s).tablesOk = true) : (notCrew s k).tablesOk = true := by
  unfold notCrew
  split
  · exact tablesOk_raiseOpen _ h
  · exact hk
theorem tablesOk_regCheck {k : State → State} (named : List Nat) (h : s.tablesOk = true) (hk : (k s).tablesOk = true) :
    (regCheck named s k).tablesOk = true := by
  unfold regCheck
  split
  · exact tablesOk_raise _ h
  · exact hk
theorem tablesOk_afterFence {k : State → State} (h : s.tablesOk = true) (hk : (k s).tablesOk = true) : (afterFence s k).tablesOk = true := by
  unfold afterFence
  split
  · exact tablesOk_block _ h
  · exact hk
theorem tablesOk_onceForGroup {k : State → State} (n : Nat) (h : s.tablesOk = true) (hk : (k s).tablesOk = true) :
    (onceForGroup n s k).tablesOk = true := by
  unfold onceForGroup
  split
  · exact h
  · exact hk
theorem tablesOk_withFlags {k : State → State} (act : Mask) (fl : Nat → FlagSet) (h : s.tablesOk = true)
    (hk : ∀ t : State, t.tablesOk = true → (k t).tablesOk = true) : (withFlags act fl s k).tablesOk = true := by
  have h1 : (accrue act fl s).tablesOk = true := h
  unfold withFlags
  simp only
  split
  · exact hk _ h1
  · exact tablesOk_raise _ h1
theorem tablesOk_vectorOp (n : Nat) (named ds : List Nat) (val : Nat → Nat → LaneWord) (fl : Nat → FlagSet) (h : s.tablesOk = true) :
    (vectorOp n named ds val fl s).tablesOk = true :=
  tablesOk_notCrew h (tablesOk_regCheck _ h (tablesOk_onceForGroup _ h (tablesOk_withFlags _ _ h (fun _ ht => ht))))
theorem tablesOk_predicateOp (n : Nat) (named : List Nat) (p : PReg) (val : Nat → Bool) (fl : Nat → FlagSet) (h : s.tablesOk = true) :
    (predicateOp n named p val fl s).tablesOk = true := by
  refine tablesOk_notCrew h (tablesOk_regCheck _ h (tablesOk_onceForGroup _ h (tablesOk_withFlags _ _ h (fun t ht => ?_))))
  unfold setP
  split <;> exact ht
theorem tablesOk_scalarOp (n : Nat) (d : SReg) (r : Word) (fl : FlagSet) (h : s.tablesOk = true) : (scalarOp n d r fl s).tablesOk = true :=
  tablesOk_onceForGroup _ h (tablesOk_withFlags _ _ h (fun _ ht => ht))
theorem tablesOk_scalarCmp (n : Nat) (p : PReg) (r : Bool) (h : s.tablesOk = true) : (scalarCmp n p r s).tablesOk = true := by
  refine tablesOk_onceForGroup _ h ?_
  unfold setP
  split <;> exact h

/-- A mould goes on, or traps: the cases of each. -/
theorem notCrew_go {k : State → State} (h : inCrew s = false) : notCrew s k = k s := by simp [notCrew, h]
theorem notCrew_traps {k : State → State} (h : inCrew s = true) : notCrew s k = raiseOpen .crewState s := by simp [notCrew, h]
theorem afterFence_go {k : State → State} (h : s.cur.fence = none) : afterFence s k = k s := by simp [afterFence, h]
/-- An access goes on at once where nothing is posted and no line of it waits (R102, R113, R156). -/
theorem afterNeeded_go {k : State → State} (need : Posted → Bool) (ls : List (Loc × Nat)) (h : s.cur.posted = [])
    (hb : ∀ l ∈ ls, locBusy s l.1 = false) : afterNeeded need ls s k = k s := by
  have h1 : performNeeded need s = s := by simp [performNeeded, h, pickNeeded, performList]
  have h2 : mustWait need ls s = false := by
    simp only [mustWait, h, List.any_nil, Bool.or_false, List.any_eq_false]
    exact fun l hl => by simp [hb l hl]
  simp [afterNeeded, h1, h2, ifRuns, stillRuns]
theorem onceForGroup_go {k : State → State} (n : Nat) (h : active s ≠ 0) : onceForGroup n s k = k s := by
  simp [onceForGroup, show ¬ active s = 0#32 from h]
theorem onceForGroup_none {k : State → State} (n : Nat) (h : active s = 0) : onceForGroup n s k = advance n s := by simp [onceForGroup, h]

/-- A trap that need not wait, with a handler and traps not masked, in SIMT mode: what it writes (R349). -/
theorem raise_enters (t : TrapInfo) (hf : s.cur.fence = none) (hc : s.cur.crew = none) (hm : masked s.cur = false) (hh : handlerOf s.cur ≠ 0) :
    (raise t s).cur.tcause = causeWord false t.cause t.sub ∧ (raise t s).cur.tlm = t.lm ∧ (raise t s).cur.taddr = t.addr ∧
    (raise t s).cur.tepc = t.epc.setWidth 64 ∧ (raise t s).cur.arch.pc = handlerOf s.cur ∧ (raise t s).cur.arch.em = s.cur.arch.live ∧
    (raise t s).cur.arch.lpart = 5 ∧ (raise t s).cur.arch.sregs = s.cur.arch.sregs := by
  have hw : trapWaits s.cur = false := by simp [trapWaits, hf, hc]
  have hl : landAll s.cur = s.cur := by
    have : ({ s.cur with crew := s.cur.crew.map (fun c => { c with infl := c.infl.map (fun x => { x with lands := 0 }) }) } : Group) = s.cur := by
      rw [hc]; simp only [Option.map_none]; rw [← hc]
    unfold landAll
    rw [this]
    unfold landed
    rw [hc]
  have hh' : ¬ handlerOf s.cur = 0#57 := hh
  simp [raise, hw, takeTrap, hl, hm, hh', hc]

end Sys2Proof.Machine
end

