-- ==== Sys2Proof/Tests/Slice0.lean ====
section
/-! SUPPORT. Tests: ill-formed instructions are refused, words written out from the encodings decode to their instructions,
one step of some instructions, and for the hypotheses of every statement a state and operands that meet them. -/
namespace Sys2Proof.Tests
open Sys2Proof Sys2Proof.Machine Sys2Proof.Claims

set_option Elab.async false

/-- A region of 1 MiB at physical address 0 on die 0, in granules of 256 bytes, for partition 0 (R95). -/
def aRegion : BitVec 128 := 0x0000020800000001_0000000000000000

/-- TLB entries of ASID 1 at core 0: a tracked page of device memory at 0, an untracked one at 0x1000, a page of host memory. -/
def someTlb : List (Nat × TlbEntry) :=
  [(0, ⟨1, 0, 0, 4096, 0x1001F⟩), (0, ⟨1, 0, 0x1000, 4096, 0x2000F⟩), (0, ⟨1, 0, 0x180000000000000, 4096, 0x5080F⟩)]

/-- A group of core 0 and team slot 0 with some lanes active. -/
def aGroup (em : Mask) : Group :=
  { noGroup with placed := true, gid := 1, launch := 1, asid := 1, allot := 64, tvec := 0x2000, roles := [⟨4, 0, 0⟩, ⟨2, 1, 0x40⟩],
                 idx := ⟨0, 0, 0, 0, 0, 1, 1, 1, 1⟩, queues := List.replicate 16 ⟨false, 0, 0, 0, 0, 0, 0, 0, 0⟩,
                 arch := { emptyArch with em := em, live := allLanes, lpart := 5 } }

/-- A team with one extent of 4 KiB of scratchpad. -/
def aTeam : Team := ⟨0, 0, 1, 0, 1, 0, 0, 0, 1, [⟨1, 0, 4096⟩]⟩

/-- A launch of one span, placed. -/
def aLaunch : Launch :=
  { (launchOf 0 0 0 1 none []) with spans := [⟨0, 0, .placed, 0, [], false⟩] }

/-- A device with a placed group, with its team, an active region, filled TLBs, and banks 0 and 1 a scratchpad and a FIFO. -/
def dev (em : Mask) : State :=
  { State.reset with boot := .ready, cur := aGroup em, teams := [aTeam], regions := aRegion :: List.replicate 15 0, tlb1 := someTlb,
                     banks := [(0, ⟨.scratch, none, 0, resetFifo⟩), (1, ⟨.fifo, none, 0, resetFifo⟩)] }

/-- The device with its group changed. -/
def devWith (f : Group → Group) : State := { dev 1 with cur := f (aGroup 1) }

/-- The device with scalar registers set. -/
def devRegs (rs : List (Nat × Word)) : State := devWith (fun g => { g with arch := { g.arch with sregs := rs } })

/-- Without a copy no line stands in a bank that leaves cache mode. -/
theorem noneLeaving {s : State} (h : s.copies = []) : NoneLeaving s := by
  intro c hc
  simp [h] at hc

-- Words written out from the encoding tables (R26 to R53) decode to the instructions they stand for.
theorem test_decode_scalar_1 : decodeTableWord 32 0x1C615C08 = some (.sadd 5 6 7) ∧
  decodeTableWord 32 0x84615C0C = some (.saddImm 5 6 33) ∧
  decodeTableWord 96 0x000000230000004001815CC2 = some (.saddLit 5 6 35) ∧
  decodeTableWord 32 0x1C615C10 = some (.ssub 5 6 7) ∧
  decodeTableWord 32 0x84615C14 = some (.ssubImm 5 6 33) ∧
  decodeTableWord 96 0x000000240000008001815CC2 = some (.ssubLit 5 6 36) ∧
  decodeTableWord 32 0x1C615C18 = some (.smul 5 6 7) ∧
  decodeTableWord 32 0x88615C1C = some (.smulImm 5 6 34) ∧
  decodeTableWord 96 0x00000025000000C001815CC2 = some (.smulLit 5 6 37) ∧
  decodeTableWord 32 0x1C615C20 = some (.smulhI64 5 6 7) ∧
  decodeTableWord 32 0x88615C24 = some (.smulhI64Imm 5 6 34) ∧
  decodeTableWord 96 0x000000260000010001815CC2 = some (.smulhI64Lit 5 6 38) := by
  decide +kernel

theorem test_decode_scalar_2 : decodeTableWord 32 0x1C615C28 = some (.smulhN64 5 6 7) ∧
  decodeTableWord 32 0x8C615C2C = some (.smulhN64Imm 5 6 35) ∧
  decodeTableWord 96 0x000000270000014001815CC2 = some (.smulhN64Lit 5 6 39) ∧
  decodeTableWord 32 0x1C615C30 = some (.sdivI64 5 6 7) ∧
  decodeTableWord 32 0x8C615C34 = some (.sdivI64Imm 5 6 35) ∧
  decodeTableWord 96 0x000000280000018001815CC2 = some (.sdivI64Lit 5 6 40) ∧
  decodeTableWord 32 0x1C615C38 = some (.sdivN64 5 6 7) ∧
  decodeTableWord 32 0x90615C3C = some (.sdivN64Imm 5 6 36) ∧
  decodeTableWord 96 0x00000029000001C001815CC2 = some (.sdivN64Lit 5 6 41) ∧
  decodeTableWord 32 0x1C615C40 = some (.sremI64 5 6 7) ∧
  decodeTableWord 32 0x90615C44 = some (.sremI64Imm 5 6 36) ∧
  decodeTableWord 96 0x0000002A0000020001815CC2 = some (.sremI64Lit 5 6 42) := by
  decide +kernel

theorem test_decode_scalar_3 : decodeTableWord 32 0x1C615C48 = some (.sremN64 5 6 7) ∧
  decodeTableWord 32 0x94615C4C = some (.sremN64Imm 5 6 37) ∧
  decodeTableWord 96 0x0000002B0000024001815CC2 = some (.sremN64Lit 5 6 43) ∧
  decodeTableWord 32 0x1C615C50 = some (.sand 5 6 7) ∧
  decodeTableWord 32 0x94615C54 = some (.sandImm 5 6 37) ∧
  decodeTableWord 96 0x0000002C0000028001815CC2 = some (.sandLit 5 6 44) ∧
  decodeTableWord 32 0x1C615C58 = some (.sor 5 6 7) ∧
  decodeTableWord 32 0x98615C5C = some (.sorImm 5 6 38) ∧
  decodeTableWord 96 0x0000002D000002C001815CC2 = some (.sorLit 5 6 45) ∧
  decodeTableWord 32 0x1C615C60 = some (.sxor 5 6 7) ∧
  decodeTableWord 32 0x98615C64 = some (.sxorImm 5 6 38) ∧
  decodeTableWord 96 0x0000002E0000030001815CC2 = some (.sxorLit 5 6 46) := by
  decide +kernel

theorem test_decode_scalar_4 : decodeTableWord 32 0x1C615C68 = some (.sshl 5 6 7) ∧
  decodeTableWord 32 0x9C615C6C = some (.sshlImm 5 6 39) ∧
  decodeTableWord 96 0x0000002F0000034001815CC2 = some (.sshlLit 5 6 47) ∧
  decodeTableWord 32 0x1C615C70 = some (.sshrN64 5 6 7) ∧
  decodeTableWord 32 0x9C615C74 = some (.sshrN64Imm 5 6 39) ∧
  decodeTableWord 96 0x000000300000038001815CC2 = some (.sshrN64Lit 5 6 48) ∧
  decodeTableWord 32 0x1C615C78 = some (.sshrI64 5 6 7) ∧
  decodeTableWord 32 0xA0615C7C = some (.sshrI64Imm 5 6 40) ∧
  decodeTableWord 96 0x00000031000003C001815CC2 = some (.sshrI64Lit 5 6 49) ∧
  decodeTableWord 32 0x1C615C80 = some (.sminI64 5 6 7) ∧
  decodeTableWord 32 0xA0615C84 = some (.sminI64Imm 5 6 40) ∧
  decodeTableWord 96 0x000000320000040001815CC2 = some (.sminI64Lit 5 6 50) := by
  decide +kernel

theorem test_decode_scalar_5 : decodeTableWord 32 0x1C615C88 = some (.sminN64 5 6 7) ∧
  decodeTableWord 32 0xA4615C8C = some (.sminN64Imm 5 6 41) ∧
  decodeTableWord 96 0x000000330000044001815CC2 = some (.sminN64Lit 5 6 51) ∧
  decodeTableWord 32 0x1C615C90 = some (.smaxI64 5 6 7) ∧
  decodeTableWord 32 0xA4615C94 = some (.smaxI64Imm 5 6 41) ∧
  decodeTableWord 96 0x000000340000048001815CC2 = some (.smaxI64Lit 5 6 52) ∧
  decodeTableWord 32 0x1C615C98 = some (.smaxN64 5 6 7) ∧
  decodeTableWord 32 0xA8615C9C = some (.smaxN64Imm 5 6 42) ∧
  decodeTableWord 96 0x00000035000004C001815CC2 = some (.smaxN64Lit 5 6 53) ∧
  decodeTableWord 32 0x1C64DCA0 = some (.scmpI64 .lt 3 6 7) ∧
  decodeTableWord 32 0xF86ADCA4 = some (.scmpI64Imm .ge 3 6 62) ∧
  decodeTableWord 96 0x80000001000005000182DCC2 = some (.scmpI64Lit .ne 3 6 0x80000001) := by
  decide +kernel

theorem test_decode_scalar_6 : decodeTableWord 32 0x1C64DCA8 = some (.scmpN64 .lt 3 6 7) ∧
  decodeTableWord 32 0xF86ADCAC = some (.scmpN64Imm .ge 3 6 62) ∧
  decodeTableWord 96 0x80000001000005400182DCC2 = some (.scmpN64Lit .ne 3 6 0x80000001) ∧
  decodeTableWord 32 0x00615CB0 = some (.smov 5 6) ∧
  decodeTableWord 32 0x80115CB4 = some (.smovImm 5 0x801) ∧
  decodeTableWord 32 0x00A15CB8 = some (.smovIndex 5 .nteam) ∧
  decodeTableWord 96 0xFFFFFFFE0000058000015CC2 = some (.smovLit 5 0xfffffffe) ∧
  decodeTableWord 32 0x00615CBC = some (.sclz 5 6) ∧
  decodeTableWord 32 0x04615CBC = some (.sctz 5 6) ∧
  decodeTableWord 32 0x08615CBC = some (.spopc 5 6) ∧
  decodeTableWord 32 0x0C615CBC = some (.sbrev 5 6) := by
  decide +kernel

theorem test_decode_control_1 : decodeTableWord 32 0xFFFE9CC4 = some (.bra 0x3fffa) ∧
  decodeTableWord 32 0x00039CC8 = some (.call 14) ∧
  decodeTableWord 32 0x00601CCC = some (.jmp 6) ∧
  decodeTableWord 32 0x00601CD0 = some (.calli 6) ∧
  decodeTableWord 32 0x80005CD4 = some (.join 0x20001) ∧
  decodeTableWord 32 0x00015CD8 = some (.emrd 5) ∧
  decodeTableWord 32 0x00601CDC = some (.emwr 6) ∧
  decodeTableWord 32 0x00301CE0 = some (.emand 3) ∧
  decodeTableWord 32 0x00301CE4 = some (.emandn 3) ∧
  decodeTableWord 32 0x00001C04 = some (.nop) := by
  decide +kernel

theorem test_decode_vector_integer_1 : decodeTableWord 64 0x0080300D19B21D01 = some (.iadd .i32 true 200 102 52) ∧
  decodeTableWord 96 0x000000090080300019B21D02 = some (.iaddLit .i32 true 200 102 9) ∧
  decodeTableWord 64 0x0000804D19B21D01 = some (.isub .n64 false 200 102 52) ∧
  decodeTableWord 96 0x000000090000804019B21D02 = some (.isubLit .n64 false 200 102 9) ∧
  decodeTableWord 64 0x0000308D19B21D01 = some (.imul .i32 200 102 52) ∧
  decodeTableWord 96 0x000000090000308019B21D02 = some (.imulLit .i32 200 102 9) ∧
  decodeTableWord 64 0x000070CD19B21D01 = some (.imulh .n32 200 102 52) ∧
  decodeTableWord 96 0x00000009000070C019B21D02 = some (.imulhLit .n32 200 102 9) ∧
  decodeTableWord 64 0x0000410D19B21D01 = some (.idiv .i64 200 102 52) ∧
  decodeTableWord 96 0x000000090000410019B21D02 = some (.idivLit .i64 200 102 9) ∧
  decodeTableWord 64 0x0000814D19B21D01 = some (.irem .n64 200 102 52) ∧
  decodeTableWord 96 0x000000090000814019B21D02 = some (.iremLit .n64 200 102 9) := by
  decide +kernel

theorem test_decode_vector_integer_2 : decodeTableWord 64 0x0000318D19B21D01 = some (.imin .i32 200 102 52) ∧
  decodeTableWord 96 0x000000090000318019B21D02 = some (.iminLit .i32 200 102 9) ∧
  decodeTableWord 64 0x000071CD19B21D01 = some (.imax .n32 200 102 52) ∧
  decodeTableWord 96 0x00000009000071C019B21D02 = some (.imaxLit .n32 200 102 9) ∧
  decodeTableWord 64 0x0000B28D19B21D01 = some (.vAnd .b32 200 102 52) ∧
  decodeTableWord 96 0x000000090000B28019B21D02 = some (.vAndLit .b32 200 102 9) ∧
  decodeTableWord 64 0x0000C2CD19B21D01 = some (.vOr .b64 200 102 52) ∧
  decodeTableWord 96 0x000000090000C2C019B21D02 = some (.vOrLit .b64 200 102 9) ∧
  decodeTableWord 64 0x0000B30D19B21D01 = some (.vXor .b32 200 102 52) ∧
  decodeTableWord 96 0x000000090000B30019B21D02 = some (.vXorLit .b32 200 102 9) ∧
  decodeTableWord 64 0x0000B38D19B21D01 = some (.shl .b32 200 102 52) ∧
  decodeTableWord 96 0x000000090000B38019B21D02 = some (.shlLit .b32 200 102 9) := by
  decide +kernel

theorem test_decode_vector_integer_3 : decodeTableWord 64 0x000073CD19B21D01 = some (.shr .n32 200 102 52) ∧
  decodeTableWord 96 0x00000009000073C019B21D02 = some (.shrLit .n32 200 102 9) ∧
  decodeTableWord 64 0x0000420019B21D01 = some (.iabs .i64 200 102) ∧
  decodeTableWord 64 0x0000324019B21D01 = some (.ineg .i32 200 102) ∧
  decodeTableWord 64 0x0000C34019B21D01 = some (.vNot .b64 200 102) ∧
  decodeTableWord 64 0x0000B4C019B21D01 = some (.clz .b32 200 102) ∧
  decodeTableWord 64 0x0000C50019B21D01 = some (.popc .b64 200 102) ∧
  decodeTableWord 64 0x0000B54019B21D01 = some (.brev .b32 200 102) ∧
  decodeTableWord 64 0x0030340D1980DD01 = some (.icmp .i32 .le 3 102 52) ∧
  decodeTableWord 96 0x0000004D004074001980DD02 = some (.icmpLit .n32 .gt 3 102 77) ∧
  decodeTableWord 64 0x0050B44D19B21D01 = some (.sel .b32 5 200 102 52) ∧
  decodeTableWord 64 0x0000B48019B21D01 = some (.mov .b32 200 102) := by
  decide +kernel

theorem test_decode_vector_integer_4 : decodeTableWord 96 0xDEADBEEF0000B48000321D02 = some (.movLit .b32 200 0xdeadbeef) ∧
  decodeTableWord 64 0x0100B48000321D01 = some (.movLane 200) ∧
  decodeTableWord 128 0x00000000000000090000358D19B21D03 = some (.imad .i32 200 102 52 9) ∧
  decodeTableWord 128 0x0000000000000009008055CD19B21D03 = some (.dot4 .n8 true 200 102 52 9) := by
  decide +kernel

theorem test_decode_floating_point_1 : decodeTableWord 64 0x0002D00D19B21D11 = some (.fadd .f32 .rz 200 102 52) ∧
  decodeTableWord 96 0x3F8000000002D00019B21D12 = some (.faddLit .f32 .rz 200 102 1065353216) ∧
  decodeTableWord 64 0x0004E04D19B21D11 = some (.fsub .f16 .ru 200 102 52) ∧
  decodeTableWord 96 0x00003C000004E04019B21D12 = some (.fsubLit .f16 .ru 200 102 15360) ∧
  decodeTableWord 64 0x0006F08D19B21D11 = some (.fmul .bf16 .rd 200 102 52) ∧
  decodeTableWord 96 0x00003F800006F08019B21D12 = some (.fmulLit .bf16 .rd 200 102 16256) ∧
  decodeTableWord 128 0x00000000000000090000D0CD19B21D13 = some (.ffma .f32 .rn 200 102 52 9) ∧
  decodeTableWord 64 0x0000D10D19B21D11 = some (.fmin .f32 200 102 52) ∧
  decodeTableWord 96 0x000000010000D10019B21D12 = some (.fminLit .f32 200 102 1) ∧
  decodeTableWord 64 0x0000E14D19B21D11 = some (.fmax .f16 200 102 52) ∧
  decodeTableWord 96 0x000000010000E14019B21D12 = some (.fmaxLit .f16 200 102 1) ∧
  decodeTableWord 64 0x0000D18019B21D11 = some (.fabs .f32 200 102) := by
  decide +kernel

theorem test_decode_floating_point_2 : decodeTableWord 64 0x0000E1C019B21D11 = some (.fneg .f16 200 102) ∧
  decodeTableWord 64 0x0000F20D19B21D11 = some (.fsgn .bf16 200 102 52) ∧
  decodeTableWord 64 0x0060D24D1980DD11 = some (.fcmp .f32 .un 3 102 52) ∧
  decodeTableWord 96 0x800000000000D2401980DD12 = some (.fcmpLit .f32 .eq 3 102 0x80000000) ∧
  decodeTableWord 64 0x0000F28019B21D11 = some (.fclass .bf16 200 102) ∧
  decodeTableWord 64 0x0000D2C019B21D11 = some (.fexp2 200 102) ∧
  decodeTableWord 64 0x0000D30019B21D11 = some (.flog2 200 102) ∧
  decodeTableWord 64 0x0000D34019B21D11 = some (.frcp 200 102) ∧
  decodeTableWord 64 0x0000D38019B21D11 = some (.frsq 200 102) ∧
  decodeTableWord 64 0x0000D3C019B21D11 = some (.fsin 200 102) ∧
  decodeTableWord 64 0x0000D40019B21D11 = some (.fcos 200 102) ∧
  decodeTableWord 64 0x0002D44019B21D11 = some (.frnd .f32 .rz 200 102) := by
  decide +kernel

theorem test_decode_floating_point_3 : decodeTableWord 64 0x0004D48D19B21D11 = some (.xins .ru 200 102 52) ∧
  decodeTableWord 96 0xFFFFFFFF0000D48019B21D12 = some (.xinsLit .rn 200 102 0xffffffff) ∧
  decodeTableWord 64 0x0000D4C019B21D11 = some (.xext 200 102) := by
  decide +kernel

theorem test_decode_tapered_1 : decodeTableWord 64 0x0001700D19B21D21 = some (.tadd .tap32 200 102 52) ∧
  decodeTableWord 96 0x400000000001700019B21D22 = some (.taddLit .tap32 200 102 1073741824) ∧
  decodeTableWord 64 0x0001604D19B21D21 = some (.tmul .tap16 200 102 52) ∧
  decodeTableWord 96 0x000040000001604019B21D22 = some (.tmulLit .tap16 200 102 16384) ∧
  decodeTableWord 64 0x0001510D19B21D21 = some (.tmin .tap8 200 102 52) ∧
  decodeTableWord 96 0x000000800001510019B21D22 = some (.tminLit .tap8 200 102 128) ∧
  decodeTableWord 64 0x0001714D19B21D21 = some (.tmax .tap32 200 102 52) ∧
  decodeTableWord 96 0x000000010001714019B21D22 = some (.tmaxLit .tap32 200 102 1) ∧
  decodeTableWord 128 0x00000000000000090001608D19B21D23 = some (.tfma .tap16 200 102 52 9) ∧
  decodeTableWord 64 0x005150CD1980DD21 = some (.tcmp .tap8 .ge 3 102 52) ∧
  decodeTableWord 96 0x0000007F002150C01980DD22 = some (.tcmpLit .tap8 .lt 3 102 0x7f) := by
  decide +kernel

theorem test_decode_conversion_1 : decodeTableWord 64 0x00D2E0001A321D29 = some (.cvt .rz false .f16 .f32 200 104) ∧
  decodeTableWord 64 0x02D030001A321D29 = some (.cvt .rn true .i32 .f32 200 104) ∧
  decodeTableWord 64 0x02D1004D1A321D29 = some (.cvtsr true .e4m3 .f32 200 104 52) ∧
  decodeTableWord 64 0x00D0E0801A321D29 = some (.pk2 .rn false .f16 .f32 200 104) ∧
  decodeTableWord 64 0x02D110C01A321D29 = some (.pk4 .rn true .e5m2 .f32 200 104) ∧
  decodeTableWord 64 0x00D141001A321D29 = some (.pk8 .rn false .e2m1 .f32 200 104) ∧
  decodeTableWord 64 0x00E0D1401A321D29 = some (.upk2 .rn false .f32 .f16 200 104) ∧
  decodeTableWord 64 0x0120D1801A321D29 = some (.upk4 .rn false .f32 .e2m3 200 104) ∧
  decodeTableWord 64 0x018031C01A321D29 = some (.upk8 .rn false .i32 .i4 200 104) := by
  decide +kernel

theorem test_decode_cross_lane_1 : decodeTableWord 64 0x0020B00D19B21D31 = some (.shfl .down 200 102 52) ∧
  decodeTableWord 96 0x000000100030B00019B21D32 = some (.shflLit .xor 200 102 16) ∧
  decodeTableWord 64 0x001000400140DD31 = some (.vote .all 3 5) ∧
  decodeTableWord 64 0x0020004001721D31 = some (.vote .ballot 200 5) ∧
  decodeTableWord 64 0x0020708019B21D31 = some (.redl .max .n32 200 102) ∧
  decodeTableWord 64 0x00D0B0C019B21D31 = some (.scan true .xor .b32 200 102) ∧
  decodeTableWord 64 0x0000B10D19B21D31 = some (.bcast 200 102 52) ∧
  decodeTableWord 96 0x0000001F0000B10019B21D32 = some (.bcastLit 200 102 31) ∧
  decodeTableWord 64 0x0000014001801D31 = some (.lpart 6) ∧
  decodeTableWord 96 0x000000080000014000001D32 = some (.lpartLit 8) ∧
  decodeTableWord 128 0x0000123400002D000000B00019B21D3B = some (.rhash 200 102 45 0x1234) := by
  decide +kernel

theorem test_decode_memory_1 : decodeTableWord 64 0x00B0C001C8721D41 = some (.ld .si .b64 200 ⟨7, some 33⟩) ∧
  decodeTableWord 128 0xFFFFFFFC000000000030C001C0321D43 = some (.ldOff .si .b64 200 ⟨7, none⟩ 0xfffffffc) ∧
  decodeTableWord 64 0x00A09041C8721D41 = some (.st .wt .b8 200 ⟨7, some 33⟩) ∧
  decodeTableWord 128 0xFFFFFFFC0000000000209041C0321D43 = some (.stOff .wt .b8 200 ⟨7, none⟩ 0xfffffffc) ∧
  decodeTableWord 64 0x0190B081C8721D41 = some (.ldt .own true 200 ⟨7, some 33⟩) ∧
  decodeTableWord 128 0xFFFFFFFC000000000110B081C0321D43 = some (.ldtOff .own true 200 ⟨7, none⟩ 0xfffffffc) ∧
  decodeTableWord 64 0x00C0B0C1C8721D41 = some (.stt .unc 200 ⟨7, some 33⟩) ∧
  decodeTableWord 128 0xFFFFFFFC000000000040B0C1C0321D43 = some (.sttOff .unc 200 ⟨7, none⟩ 0xfffffffc) ∧
  decodeTableWord 64 0x00800101C8401D41 = some (.tset .none ⟨7, some 33⟩) ∧
  decodeTableWord 128 0xFFFFFFFC0000000000000101C0001D43 = some (.tsetOff .none ⟨7, none⟩ 0xfffffffc) ∧
  decodeTableWord 64 0x00900141C8401D41 = some (.tclr .own ⟨7, some 33⟩) ∧
  decodeTableWord 128 0xFFFFFFFC0000000000100141C0001D43 = some (.tclrOff .own ⟨7, none⟩ 0xfffffffc) := by
  decide +kernel

theorem test_decode_memory_2 : decodeTableWord 64 0x00B00181C840DD41 = some (.ttest .si 3 ⟨7, some 33⟩) ∧
  decodeTableWord 128 0xFFFFFFFC0000000000300181C000DD43 = some (.ttestOff .si 3 ⟨7, none⟩ 0xfffffffc) ∧
  decodeTableWord 64 0x00A001C1C8401D41 = some (.pf .wt ⟨7, some 33⟩) ∧
  decodeTableWord 128 0xFFFFFFFC00000000002001C1C0001D43 = some (.pfOff .wt ⟨7, none⟩ 0xfffffffc) ∧
  decodeTableWord 64 0x00800201C8401D41 = some (.cwb  ⟨7, some 33⟩) ∧
  decodeTableWord 128 0xFFFFFFFC0000000000000201C0001D43 = some (.cwbOff  ⟨7, none⟩ 0xfffffffc) ∧
  decodeTableWord 64 0x00800241C8401D41 = some (.cinv  ⟨7, some 33⟩) ∧
  decodeTableWord 128 0xFFFFFFFC0000000000000241C0001D43 = some (.cinvOff  ⟨7, none⟩ 0xfffffffc) ∧
  decodeTableWord 64 0x00800281C8401D41 = some (.cflush  ⟨7, some 33⟩) ∧
  decodeTableWord 128 0xFFFFFFFC0000000000000281C0001D43 = some (.cflushOff  ⟨7, none⟩ 0xfffffffc) ∧
  decodeTableWord 128 0x0000022F00000000000002C000001D43 = some (.bmode 47 .fifo) ∧
  decodeTableWord 64 0x0000030001815D41 = some (.salloc 5 6) := by
  decide +kernel

theorem test_decode_memory_3 : decodeTableWord 64 0x0000034001801D41 = some (.sfree 6) := by
  decide +kernel

theorem test_decode_atomic_1 : decodeTableWord 128 0x000000100000000A00C03001C8721D63 = some (.aadd .device .i32 200 ⟨7, some 33⟩ 16 10) ∧
  decodeTableWord 128 0x000000100000000A00908041C8721D63 = some (.amin .team .n64 200 ⟨7, some 33⟩ 16 10) ∧
  decodeTableWord 128 0x000000100000000A00E04081C8721D63 = some (.amax .system .i64 200 ⟨7, some 33⟩ 16 10) ∧
  decodeTableWord 128 0x000000100000000A00A0B0C1C8721D63 = some (.aand .cluster .b32 200 ⟨7, some 33⟩ 16 10) ∧
  decodeTableWord 128 0x000000100000000A00B0C101C8721D63 = some (.aor .span .b64 200 ⟨7, some 33⟩ 16 10) ∧
  decodeTableWord 128 0x000000100000000A00D0B141C8721D63 = some (.axor .domain .b32 200 ⟨7, some 33⟩ 16 10) ∧
  decodeTableWord 128 0x000000100000000A0080C181C8721D63 = some (.axchg .group .b64 200 ⟨7, some 33⟩ 16 10) ∧
  decodeTableWord 128 0x00000010000DC00A0040B1C1C0321D63 = some (.acas .device .b32 200 ⟨7, none⟩ 16 10 55) ∧
  decodeTableWord 128 0x000000100000000000C07201C8721D63 = some (.ainc .device .n32 200 ⟨7, some 33⟩ 16) ∧
  decodeTableWord 128 0x000000100000000A05C0C241C8401D63 = some (.red .xor .device .b64 ⟨7, some 33⟩ 16 10) ∧
  decodeTableWord 128 0x0000002000042D0900B14001C8401D6B = some (.bacc .span .e4m3 .e2m1 ⟨7, some 33⟩ 32 9 45) ∧
  decodeTableWord 128 0x000000200004ED0002411001C0001D6B = some (.baccMem .device .e3m2 .e5m2 ⟨7, none⟩ 32 45) := by
  decide +kernel

theorem test_decode_atomic_2 : decodeTableWord 128 0x0000002000002D0000C12041C8721D6B = some (.bld .device .e2m3 200 45 ⟨7, some 33⟩ 32) ∧
  decodeTableWord 128 0x0000000000046D000001008019B21D6B = some (.bcvt .e4m3 .e5m2 200 102 45) := by
  decide +kernel

theorem test_decode_fence_and_barrier_1 : decodeTableWord 64 0x0110000000001D71 = some (.fence .rel .device) ∧
  decodeTableWord 64 0x0000004000001D71 = some (.barTeam) ∧
  decodeTableWord 64 0x0010004000001D71 = some (.barCluster) ∧
  decodeTableWord 64 0x0020004000001D71 = some (.barSpan) ∧
  decodeTableWord 64 0x0030004000001D71 = some (.barGrid) ∧
  decodeTableWord 64 0x00000081C1801D71 = some (.bobjInit 6 7) ∧
  decodeTableWord 64 0x000000C1C1801D71 = some (.bobjExp 6 7) ∧
  decodeTableWord 64 0x00000101C1801D71 = some (.bobjArr 6 7) ∧
  decodeTableWord 64 0x00000141C1801D71 = some (.bobjWait 6 7) ∧
  decodeTableWord 64 0x0000018001801D71 = some (.mon 6) ∧
  decodeTableWord 64 0x000001C000001D71 = some (.mwait) := by
  decide +kernel

theorem test_decode_engine_and_crew_1 : decodeTableWord 128 0x000000000000000000100001C1815D83 = some (.copyT true 5 6 7) ∧
  decodeTableWord 128 0x0000000000002D0000000041C1815D83 = some (.copyArm false 5 6 7 45) ∧
  decodeTableWord 128 0x0000000000000000000000800180DD83 = some (.copyCancel 3 6) ∧
  decodeTableWord 128 0x0000000000000003000000C000015D83 = some (.evpop 5 3) ∧
  decodeTableWord 128 0x00000000000080000000000001801D8B = some (.mxcfg 2 6) ∧
  decodeTableWord 128 0x00000000000000000000004000001D8B = some (.mxarm0) ∧
  decodeTableWord 128 0x00000000000000000000008000001D8B = some (.mxdisarm0) ∧
  decodeTableWord 128 0x00000000000040000000004000001D8B = some (.mxarm1) ∧
  decodeTableWord 128 0x00000000000040000000008000001D8B = some (.mxdisarm1) ∧
  decodeTableWord 128 0x00000000000080000000004000001D8B = some (.mxarm2) ∧
  decodeTableWord 128 0x00000000000080000000008000001D8B = some (.mxdisarm2) ∧
  decodeTableWord 128 0x000000000000C0000000004000001D8B = some (.mxarm3) := by
  decide +kernel

theorem test_decode_engine_and_crew_2 : decodeTableWord 128 0x000000000000C0000000008000001D8B = some (.mxdisarm3) ∧
  decodeTableWord 128 0x0000000000006D00001100C1C1815D8B = some (.mma true .e4m3 1 5 6 7 45) ∧
  decodeTableWord 128 0x000000000000C00000000101C1801D8B = some (.sacc 3 6 7) ∧
  decodeTableWord 128 0x00000000000040000000014000015D8B = some (.mxflg 5 1) ∧
  decodeTableWord 128 0x00000000000080000000018001801D8B = some (.mxspill 2 6) ∧
  decodeTableWord 128 0x00000020000000000000000001801D93 = some (.crewEnter 6 32) ∧
  decodeTableWord 128 0x00000000000000000000004000001D93 = some (.crewLeave) ∧
  decodeTableWord 128 0x0000001F000000000000008001801D93 = some (.seatLd 31 6) ∧
  decodeTableWord 128 0x0000001000000000000000C00D02DD93 = some (.qdef 11 52 16) ∧
  decodeTableWord 128 0x0000001000000000000001000002DD93 = some (.qadvH 11 16) ∧
  decodeTableWord 128 0x0000000100000000000001400002DD93 = some (.qadvT 11 1) ∧
  decodeTableWord 128 0x0000000400000000001001800002DD93 = some (.qwait true 11 4) := by
  decide +kernel

theorem test_decode_system_1 : decodeTableWord 128 0x0000000000000000000000000E00DDC3 = some (.enq 3 56) ∧
  decodeTableWord 128 0x00000000000000000000004000001DC3 = some (.role0) ∧
  decodeTableWord 128 0x00000001000000000000004000001DC3 = some (.role1) ∧
  decodeTableWord 128 0x00000002000000000000004000001DC3 = some (.role2) ∧
  decodeTableWord 128 0x00000003000000000000004000001DC3 = some (.role3) ∧
  decodeTableWord 128 0x00000000000000000000008000001DC3 = some (.yield) ∧
  decodeTableWord 128 0x0000FFFF00000000000000C000001DC3 = some (.trap 0xffff) ∧
  decodeTableWord 128 0x00000000000000000000010000001DC3 = some (.tret) ∧
  decodeTableWord 128 0x00000023000000000000014000015DC3 = some (.srRd 5 0x023) ∧
  decodeTableWord 128 0x00000010000000000000018001801DC3 = some (.srWr 0x010 6) ∧
  decodeTableWord 128 0x0000000000000000000001C001801DC3 = some (.genBump 6) ∧
  decodeTableWord 128 0x00000000000000000000020000015DC3 = some (.ptpRd 5) := by
  decide +kernel

theorem test_decode_system_2 : decodeTableWord 128 0x00008001000000000000024000001DC3 = some (.bkpt 0x8001) ∧
  decodeTableWord 128 0x00000000000000000000028000001DC3 = some (.halt) ∧
  decodeTableWord 128 0x0000000000000000000002C000001DC3 = some (.fenceTable) := by
  decide +kernel

theorem noFlagTrap_without_ften (fl : Nat → FlagSet) (s : State) (h : s.cur.ften = []) : NoFlagTrap fl s := by
  intro f l _ _ _ _
  right
  rw [h]
  simp [tget]

theorem witness_scalar : active (dev 1) ≠ 0 ∧ NoFlagTrap (fun _ => 0) (dev 1) := ⟨by decide +kernel, noFlagTrap_without_ften _ _ rfl⟩
theorem witness_scalar_division : active (dev 1) ≠ 0 ∧ NoFlagTrap (fun _ => sdivFlag (getS (dev 1) 3) (getS (dev 1) 4)) (dev 1) ∧
    sdivFlag (getS (dev 1) 3) (getS (dev 1) 4) = fIDZ :=
  ⟨by decide +kernel, noFlagTrap_without_ften _ _ rfl, by decide +kernel⟩
theorem witness_scalar_overflow : NoFlagTrap (fun _ => sdivFlag (BitVec.intMin 64) (BitVec.allOnes 64)) (dev 1) ∧
    sdivFlag (BitVec.intMin 64) (BitVec.allOnes 64) = fIOV :=
  ⟨noFlagTrap_without_ften _ _ rfl, by decide +kernel⟩
theorem witness_bit_counts : 0 < 64 ∧ 0x8001 < 2 ^ 64 ∧ 0x8001 ≠ 0 := by decide
theorem witness_integer_results : tyI4 .i32 = true ∧ 7 < 2 ^ tyBits .i32 ∧ 0xFFFFFFFE < 2 ^ tyBits .i32 ∧ 0xFFFFFFFE ≠ 0 ∧
    ¬ (intOf .i32 7 = intMin .i32 ∧ intOf .i32 0xFFFFFFFE = -1) := by decide
theorem witness_vector : VectorReady (regsOf .i32 1 ++ regsOf .i32 2 ++ regsOf .i32 63) (dev 5) ∧ NoFlagTrap (fun _ => fIOV) (dev 5) :=
  ⟨⟨rfl, by decide +kernel, by decide +kernel⟩, noFlagTrap_without_ften _ _ rfl⟩
theorem witness_vector_pairs : VectorReady (regsOf .b64 0 ++ regsOf .b64 62) (dev 5) := ⟨rfl, by decide +kernel, by decide +kernel⟩
theorem witness_packs : VectorReady ((5 : VReg).toNat :: (List.range 8).map (fun i => (8 : VReg).toNat + i)) (dev 5) ∧
    VectorReady ((List.range 8).map (fun i => (8 : VReg).toNat + i) ++ [(5 : VReg).toNat]) (dev 5) :=
  ⟨⟨rfl, by decide +kernel, by decide +kernel⟩, ⟨rfl, by decide +kernel, by decide +kernel⟩⟩
theorem witness_lane_partition : (dev 1).cur.crew = none ∧ active (dev 1) ≠ 0 ∧
    getS (devRegs [(3, 8)]) 3 = BitVec.ofNat 64 (2 ^ 3) ∧ (32 : BitVec 32).toNat = 2 ^ 5 := by decide +kernel
theorem witness_lane_partition_trap : active (devRegs [(3, 7)]) ≠ 0 ∧ ∀ k, k ≤ 5 → 1 ≤ k → getS (devRegs [(3, 7)]) 3 ≠ BitVec.ofNat 64 (2 ^ k) := by
  decide +kernel
theorem witness_no_active_lane : (dev 0).cur.crew = none ∧ active (dev 0) = 0 ∧
    ∀ r ∈ regsOf .i64 2 ++ regsOf .i64 4 ++ regsOf .i64 6, r < (dev 0).cur.allot := by decide +kernel

/-- A group of two lanes, one of them active under a guard, with a reconvergence stack. -/
def devSplit (st : List StackEntry) : State :=
  { dev 3 with cur := { aGroup 3 with guard := ⟨false, 0⟩, arch := { (aGroup 3).arch with preds := [(0, 1)], stack := st } } }

theorem witness_branch_none : active (dev 0) = 0 := by decide +kernel
theorem witness_branch_all : active (dev 3) ≠ 0 ∧ active (dev 3) = groupMask (dev 3) ∧ (getS (dev 3) 5).toNat % 4 = 0 := by decide +kernel
theorem witness_branch_some : active (devSplit []) ≠ 0 ∧ active (devSplit []) ≠ groupMask (devSplit []) ∧ (devSplit []).cur.arch.stack.length < 32 := by
  decide +kernel
theorem witness_branch_full : active (devSplit (List.replicate 32 ⟨true, 0, 3⟩)) ≠ groupMask (devSplit (List.replicate 32 ⟨true, 0, 3⟩)) ∧
    32 ≤ (devSplit (List.replicate 32 ⟨true, 0, 3⟩)).cur.arch.stack.length := by decide +kernel
theorem trapReady_dev (em : Mask) : TrapReady (dev em) :=
  ⟨rfl, rfl, (by decide : BitVec.getLsbD (0 : Word) 33 = false), (by decide : (0x2000 : Word).toNat % 2 ^ 57 / 4 ≠ 0)⟩
theorem witness_misaligned_jump : TrapReady (devRegs [(5, 0x1002)]) ∧ (getS (devRegs [(5, 0x1002)]) 5).toNat % 4 ≠ 0 :=
  ⟨⟨rfl, rfl, rfl, by decide +kernel⟩, by decide +kernel⟩
theorem witness_masks : (devSplit []).cur.crew = none ∧ (devSplit []).cur.arch.stack.length < 32 ∧
    32 ≤ (devSplit (List.replicate 32 ⟨false, 0, 3⟩)).cur.arch.stack.length := by decide +kernel
theorem witness_halt : (devSplit [⟨true, 8, 3⟩, ⟨false, 16, 2⟩]).cur.arch.stack = [⟨true, 8, 3⟩] ++ ⟨false, 16, 2⟩ :: [] ∧
    (∀ x ∈ (devSplit [⟨true, 8, 3⟩]).cur.arch.stack, x.isJoin = true) := by decide +kernel
theorem witness_join_arrival : (⟨true, 0, 3⟩ : StackEntry).addr = emptyArch.pc ∧ (⟨true, 0, 3⟩ : StackEntry).isJoin = true ∧
    (([⟨true, 0, 3⟩] : List StackEntry).find? (fun x => x.isJoin)) = some ⟨true, 0, 3⟩ := by decide
theorem witness_trap_return : (devWith (fun g => { g with tcause := 1#64 <<< 33 })).cur.fence = none ∧ active (devWith (fun g => { g with tcause := 1#64 <<< 33 })) ≠ 0 ∧
    (devWith (fun g => { g with tcause := 1#64 <<< 33 })).cur.tcause.getLsbD 33 = true ∧
    (devWith (fun g => { g with tcause := 1#64 <<< 33 })).cur.request ≠ .held ∧ (dev 1).cur.tcause.getLsbD 33 = false := by decide +kernel
theorem witness_trap_return_held : ∃ u, (devWith (fun g => { g with tcause := 1#64 <<< 33, request := .held })).cur.request = .held ∧
    exec .tret (devWith (fun g => { g with tcause := 1#64 <<< 33 })) = .next u := ⟨_, by decide +kernel, rfl⟩
theorem witness_trap_instructions : TrapReady (dev 1) ∧ active (dev 1) ≠ 0 := ⟨trapReady_dev 1, by decide +kernel⟩
theorem witness_unhandled_trap : (devWith (fun g => { g with tvec := 0 })).cur.tvec.toNat % 2 ^ 57 / 4 = 0 ∧ (dev 1).cur.fence = none ∧
    (devWith (fun g => { g with tcause := 1#64 <<< 33 })).cur.tcause.getLsbD 33 = true := by decide +kernel

/-- The device with the trap of the flag of a division by zero enabled in every lane. -/
def devEnabled : State := devWith (fun g => { g with ften := (List.range 7).map (fun f => (f, allLanes)) })

theorem witness_arithmetic_trap : VectorReady (regsOf .i32 1 ++ regsOf .i32 2 ++ regsOf .i32 3) devEnabled ∧ TrapReady devEnabled ∧
    ¬ NoFlagTrap (fun l => (intDiv .i32 (laneVal devEnabled .i32 2 l) (laneVal devEnabled .i32 3 l)).2) devEnabled := by
  refine ⟨⟨rfl, by decide +kernel, by decide +kernel⟩, ⟨rfl, rfl, rfl, by decide +kernel⟩, fun h => ?_⟩
  have := h 5 0 (by decide) (by decide) (by decide +kernel) (by decide +kernel)
  revert this
  decide +kernel
theorem witness_register_range : TrapReady (dev 1) ∧ (dev 1).cur.allot ≤ 200 ∧ 200 ∈ regsOf .i32 200 ++ regsOf .i32 2 ++ regsOf .i32 201 ∧
    ∀ q ∈ regsOf .i32 200 ++ regsOf .i32 2 ++ regsOf .i32 201, (dev 1).cur.allot ≤ q → 200 ≤ q := ⟨trapReady_dev 1, by decide +kernel⟩

theorem systemReady_dev : SystemReady (dev 1) := ⟨by decide +kernel, rfl⟩
theorem witness_special_reads : SystemReady (dev 1) ∧ srReadable 0x022 = true ∧ srReadable 0x023 = true ∧ srReadable 0x024 = true ∧
    (dev 1).cur.priv = false ∧ (devWith (fun g => { g with priv := true })).cur.priv = true := ⟨systemReady_dev, by decide +kernel⟩
theorem witness_special_writes : SystemReady (dev 1) ∧ (dev 1).cur.tcause.getLsbD 33 = false ∧
    (devWith (fun g => { g with tcause := 1#64 <<< 33 })).cur.tcause.getLsbD 33 = true := ⟨systemReady_dev, by decide +kernel⟩

/-- Bank 1 of core 0 a consumer end, linked to bank 2, with program-returned credits. -/
def devLinked : State :=
  { devRegs [(3, 0x10002), (4, 6)] with
    banks := [(1, ⟨.fifo, none, 0, { resetFifo with cfg := 0x83001006, lnk := true }⟩), (2, ⟨.fifo, none, 0, { resetFifo with lnk := true }⟩)] }

theorem witness_fifo_config : SystemReady (devRegs [(4, 6)]) ∧ FifoConfigLegal 1 ((getS (devRegs [(4, 6)]) 4).setWidth 32) (devRegs [(4, 6)]) ∧
    (getS (devRegs [(4, 6)]) 4).getLsbD 24 = false ∧ ¬ FifoConfigLegal 0 ((getS (devRegs [(4, 6)]) 4).setWidth 32) (devRegs [(4, 6)]) := by
  refine ⟨⟨by decide +kernel, rfl⟩, ?_, by decide +kernel, ?_⟩
  · unfold FifoConfigLegal
    decide +kernel
  · unfold FifoConfigLegal
    decide +kernel

/-- Banks 1 and 2 of core 0 empty FIFOs: a write of s4 makes bank 1 the consumer end of a link with bank 2, which names it. -/
def devLinking : State :=
  { devRegs [(4, 0x03001006)] with
    banks := [(1, ⟨.fifo, none, 0, resetFifo⟩), (2, ⟨.fifo, none, 0, { resetFifo with cfg := 0x01000806 }⟩)] }

theorem witness_fifo_link : FifoConfigLegal 1 ((getS devLinking 4).setWidth 32) devLinking ∧
    LinkForms 0 1 (setBank 0 1 (configured ((getS devLinking 4).setWidth 32)) devLinking) ∧
    ¬ LinkForms 0 1 (setBank 0 1 (configured 6) devLinking) := by
  refine ⟨?_, ?_, ?_⟩
  · unfold FifoConfigLegal; decide +kernel
  · unfold LinkForms; decide +kernel
  · unfold LinkForms; decide +kernel
theorem witness_credit_return : SystemReady devLinked ∧ CreditReturnLegal (getS devLinked 3) devLinked ∧ ¬ CreditReturnLegal 0 devLinked := by
  refine ⟨⟨by decide +kernel, rfl⟩, ?_, ?_⟩
  · unfold CreditReturnLegal
    decide +kernel
  · unfold CreditReturnLegal
    decide +kernel
theorem witness_role : SystemReady (dev 1) ∧ (dev 1).cur.crew = none ∧ (dev 1).cur.roles[1]? = some ⟨2, 1, 0x40⟩ ∧ (dev 1).cur.arch.stack = [] ∧
    (dev 1).cur.roles[2]? = none := ⟨systemReady_dev, by decide +kernel⟩
theorem witness_yield : SystemReady (dev 1) ∧ (dev 1).cur.request ≠ .held := ⟨systemReady_dev, by decide +kernel⟩
theorem witness_generation : (dev 1).cur.wait = none ∧ (getS (devRegs [(3, 1)]) 3).setWidth 16 = (dev 1).cur.asid ∧
    bumpDone 1 0 (cleanAll (devWith (fun g => { g with wait := some (.bump 1 1) }))) = true ∧ (dev 1).redUnit = [] ∧
    bumpDone 1 0 (cleanAll { dev 1 with coxBumps := [(1, 1, 0)] }) = true ∧ (∀ c ∈ (dev 1).copies, c.dirty = 0 ∨ c.client = hostClient) ∧
    (getS (dev 1) 3).setWidth 16 ≠ (dev 1).cur.asid ∧ (dev 1).cur.priv = false := by decide +kernel

/-- The device while a table commit is pending and its group waits for it. -/
def devCommit (go : Nat) : State := { devWith (fun g => { g with wait := some .commit }) with commitPend := true, commitGo := go }

theorem witness_table_commit : (devWith (fun g => { g with priv := true })).cur.priv = true ∧ (dev 1).commitPend = false ∧ (dev 1).commitGo = 0 ∧
    (devCommit 0).heldWrites = [] ∧ (devCommit 0).redUnit = [] ∧ (devCommit 0).commitPend = true ∧ drainCount (devCommit 0) = 0 ∧ (devCommit 0).groups = [] ∧ (devCommit 0).cur.wait = some .commit ∧
    (∀ g ∈ allGroups { devCommit 2 with cur := aGroup 1 }, g.wait ≠ some .commit) := by decide +kernel
theorem witness_table_commit_more : CoxAtRest (devCommit 0) ∧ drainCount { devCommit 2 with cur := aGroup 1, goMore := 1 } = 0 ∧
    (devCommit 2).commitGo ≠ 0 ∧ CoxAtRest { devCommit 2 with cur := aGroup 1, goMore := 1 } := by
  unfold CoxAtRest; decide +kernel
theorem witness_table_commit_held : drainCount { devCommit 0 with cur := { aGroup 1 with posted :=
    [⟨.write [1], .dev 0 true, .unc, some 0, 3, 1, 0, 0, 0, false⟩] } } ≠ 0 := by decide +kernel
theorem witness_clock_read : SystemReady (dev 1) ∧ (dev 1).clock < 2 ^ 64 := ⟨systemReady_dev, by decide +kernel⟩

/-- The device with queue 1 accepting device enqueue. -/
def devQueue : State :=
  { devRegs [(8, 0x100)] with queues := (List.replicate 32 newQueue).set 1 { newQueue with en := true, state := 1, devenq := true } }

theorem witness_enqueue : EnqueueLegal (getS devQueue 8) devQueue ∧ devQueue.cur.posted = [] ∧ devQueue.redUnit = [] ∧
    (devQueue.enqBuf.filter (fun e => e.die = 0)).length < 32 ∧ (queueAt devQueue 1).submit - (queueAt devQueue 1).cpl + 0 < 2 ^ (queueAt devQueue 1).size := by
  refine ⟨?_, by decide +kernel⟩
  unfold EnqueueLegal
  decide +kernel
theorem witness_enqueue_full : ¬ ((({ devQueue with enqBuf := List.replicate 32 ⟨0, 1, []⟩ } : State).enqBuf.filter (fun e => e.die = 0)).length < 32) := by
  decide +kernel
theorem witness_enqueue_buffer : ∃ (e : EnqPkt) (rest : List EnqPkt), ({ devQueue with enqBuf := [⟨0, 1, [1]⟩] } : State).enqBuf = e :: rest ∧ e.die = 0 ∧ e.queue < devQueue.queues.length ∧
    ∀ e ∈ devQueue.enqBuf, EnqPkt.die e ≠ 0 := ⟨⟨0, 1, [1]⟩, [], by decide +kernel⟩
theorem witness_enqueue_buffer_device : (queueAt devQueue 1).host = false ∧ devQueue.heldWrites = [] ∧ devQueue.commitPend = false ∧ devQueue.hostAcks = [] ∧
    NoErrors devQueue ∧ devQueue.copies = [] ∧ (∀ i, i < 64 → homeCell devQueue.regions (0 + i) = some i) := by
  unfold NoErrors; decide +kernel

/-- The device with lane 0 active and s2 at a byte of the scratchpad. -/
def devLocal (o : Nat) (xs : List (Nat × Word) := []) : State := devRegs ((2, BitVec.ofNat 64 (localBase + o)) :: xs)

/-- The device with s2 at an address. -/
def devAt (a : Word) : State := devRegs [(2, a)]

/-- What the lanes of `[s2]` translate to. -/
def lanesAt2 (k : AccKind) (n : Nat) (s : State) : State × List LaneAcc := translateLanes (whoOf s.cur) k n (laneAddrs ⟨2, none⟩ 0 s) s

theorem access_intro (k : AccKind) (n : Nat) (s : State) (hq : Quiet s) (hq1 : Quiet (lanesAt2 k n s).1)
    (hx : ∀ x ∈ (lanesAt2 k n s).2, laneFault x = none ∧ x.x1 ≠ .wait ∧ (localBase ≤ x.addr.toNat → allocOk (whoOf (lanesAt2 k n s).1.cur) x.addr n (lanesAt2 k n s).1 = true)) :
    Access k n ⟨2, none⟩ 0 s (lanesAt2 k n s).1 (lanesAt2 k n s).2 := ⟨rfl, hq, hq1, hx⟩

theorem quiet_devRegs (rs : List (Nat × Word)) : Quiet (devRegs rs) := ⟨rfl, rfl, rfl, rfl, noneLeaving rfl⟩

theorem witness_load_local : ∃ s1 xs, VectorReady (regsOf .b32 5 ++ baseRegs ⟨2, none⟩) (devLocal 16) ∧ Access .load 4 ⟨2, none⟩ 0 (devLocal 16) s1 xs ∧
    NoFifo xs ∧ xs ≠ [] ∧ (readLanes (whoOf s1.cur) .own 4 xs s1).2.bad = [] :=
  ⟨_, _, ⟨rfl, by decide +kernel, by decide +kernel⟩, access_intro .load 4 (devLocal 16) (quiet_devRegs _) ⟨rfl, rfl, rfl, rfl, noneLeaving rfl⟩ (by decide +kernel),
    (by unfold NoFifo; decide +kernel), by decide +kernel, by decide +kernel⟩
theorem witness_load_device : ∃ s1 xs, Access .load 4 ⟨2, none⟩ 0 (devAt 0x1010) s1 xs ∧ NoFifo xs ∧ xs.map laneLoc = [.dev 0x20010 false] ∧
    (readLanes (whoOf s1.cur) .own 4 xs s1).2.bad = [] :=
  ⟨_, _, access_intro .load 4 (devAt 0x1010) (quiet_devRegs _) ⟨rfl, rfl, rfl, rfl, noneLeaving rfl⟩ (by decide +kernel), (by unfold NoFifo; decide +kernel), by decide +kernel, by decide +kernel⟩
theorem witness_read_device : homeCell (dev 1).regions 0x20010 = some 0x810 ∧ 0x810 % 128 + 4 ≤ 128 ∧ (dev 1).retired.contains (0x20010 / 65536) = false ∧
    cellPoisoned (dev 1) 0x810 4 = false ∧ (dev 1).copies = [] ∧ NoErrors (dev 1) := by unfold NoErrors; decide +kernel
/-- A copy of line 16 that core 0 shares, and the device with it. -/
def aCopyOf16 : Copy := ⟨0, 16, 0x20000, .shared, BitVec.allOnes 128, 0, 0, 0, 0, false, 0⟩
def devShared : State := { dev 1 with copies := [aCopyOf16] }

theorem witness_read_own_copy : copyOf 0 16 devShared = some aCopyOf16 ∧ servesLoad .wt (maskRange (0x810 % 128) 4) aCopyOf16 = true := by decide +kernel
theorem witness_lanes_read : LaneTranslated ⟨0, 0x1010, .ok (.dev 0x20010 false), .ok (.dev 0x20010 false), 0x1010⟩ ∧ (0x1010 : Nat) % 4 = 0 ∧
    LaneTranslated ⟨0, 0x1011, .ok (.dev 0x20011 false), .ok (.dev 0x20011 false), 0x1011⟩ ∧ (0x1011 : Nat) % 4 ≠ 0 ∧
    (∀ l ∈ laneLocs ⟨0, 0x1011, .ok (.dev 0x20011 false), .ok (.dev 0x20011 false), 0x1011⟩ 4, isTracked l = false ∧ PlainByte (dev 1) l) := by
  refine ⟨⟨⟨_, _, rfl, rfl⟩, by decide, ?_⟩, by decide, ⟨⟨_, _, rfl, rfl⟩, by decide, ?_⟩, by decide, ?_⟩
  · intro pa tracked h; cases h; decide
  · intro pa tracked h; cases h; decide
  · intro l hl
    have h : l = .dev 0x20011 false ∨ l = .dev 0x20012 false ∨ l = .dev 0x20013 false ∨ l = .dev 0x20014 false := by
      revert l; decide +kernel
    rcases h with rfl | rfl | rfl | rfl
    · exact ⟨rfl, ⟨0x811, by decide +kernel, by decide +kernel⟩, by decide +kernel, by decide⟩
    · exact ⟨rfl, ⟨0x812, by decide +kernel, by decide +kernel⟩, by decide +kernel, by decide⟩
    · exact ⟨rfl, ⟨0x813, by decide +kernel, by decide +kernel⟩, by decide +kernel, by decide⟩
    · exact ⟨rfl, ⟨0x814, by decide +kernel, by decide +kernel⟩, by decide +kernel, by decide⟩
theorem witness_store_host : ∃ s1 xs, VectorReady (regsOf .b64 6 ++ baseRegs ⟨2, none⟩) (devAt 0x180000000000040) ∧
    Access .store 8 ⟨2, none⟩ 0 (devAt 0x180000000000040) s1 xs ∧ NoFifo xs ∧ LanesAligned 8 xs ∧ xs.map laneLoc = [.host 0x50040] ∧
    xs.Pairwise (fun x y => ∀ l ∈ laneLocs x 8, ∀ m ∈ laneLocs y 8, locKey s1.devno l ≠ locKey s1.devno m) :=
  ⟨_, _, ⟨rfl, by decide +kernel, by decide +kernel⟩, access_intro .store 8 (devAt 0x180000000000040) (quiet_devRegs _) ⟨rfl, rfl, rfl, rfl, noneLeaving rfl⟩ (by decide +kernel),
    (by unfold NoFifo; decide +kernel), (by unfold LanesAligned; decide +kernel), by decide +kernel, by decide +kernel⟩

/-- The device with one posted write of its group. -/
def devPosted (l : Loc) (cell : Option Nat) (op : PostedOp := .write [1, 2]) : State :=
  devWith (fun g => { g with posted := [⟨op, l, .wt, cell, 0, 1, 0, 0, 0, false⟩] })

theorem witness_home_write : (devPosted (.smem 0 16) none).cur.placed = true ∧ (devPosted (.smem 0 16) none).hostAcks = [] ∧
    (devPosted (.host 64) none).cur.posted = [⟨.write [1, 2], .host 64, .wt, none, 0, 1, 0, 0, 0, false⟩] ∧
    (devPosted (.host 64) none (.part [some 1, none])).cur.posted = [⟨.part [some 1, none], .host 64, .wt, none, 0, 1, 0, 0, 0, false⟩] ∧ NoErrors (dev 1) ∧
    (devPosted (.dev 0x20010 true) (some 0x810)).copies = [] ∧ 0x810 % 128 + [1, 2].length ≤ 128 ∧
    (devPosted (.dev 0x20010 true) (some 0x810)).cur.fence = none ∧ ReqTy.wt ≠ .own := by unfold NoErrors; decide +kernel
theorem witness_home_write_quiet : (devPosted (.host 64) none).copies = [] ∧ NoneLeaving (devPosted (.host 64) none) ∧
    NoneLeaving (devPosted (.dev 0x20010 true) (some 0x810)) := ⟨rfl, noneLeaving rfl, noneLeaving rfl⟩

/-- The device with items in its FIFO bank. -/
def devItems (xs : List (Option LaneWord)) : State :=
  { devAt 0x1FF000200008000 with banks := [(0, ⟨.scratch, none, 0, resetFifo⟩), (1, ⟨.fifo, none, 0, { resetFifo with items := xs }⟩)] }

theorem witness_fifo_access (k : AccKind) (hk : k = .load ∨ k = .store) : ∃ s1 xs, VectorReady ((5 : VReg).toNat :: baseRegs ⟨2, none⟩) (devItems [some 7]) ∧
    Access k 4 ⟨2, none⟩ 0 (devItems [some 7]) s1 xs ∧ AtBank 1 xs s1 ∧
    let f := (Machine.bankOf s1 s1.cur.core 1).fifo
    xs.length ≤ 2 ^ (f.cfg.toNat % 16) ∧ xs.length ≤ (dataRun f.items).length ∧ f.items.length + f.inItems.length + xs.length ≤ 2 ^ (f.cfg.toNat % 16) := by
  refine ⟨_, _, ⟨rfl, by decide +kernel, by decide +kernel⟩, access_intro k 4 (devItems [some 7]) ⟨rfl, rfl, rfl, rfl, noneLeaving rfl⟩ ?_ ?_, ?_, ?_⟩
  all_goals rcases hk with rfl | rfl
  all_goals first | exact ⟨rfl, rfl, rfl, rfl, noneLeaving rfl⟩ | decide +kernel | (unfold AtBank; decide +kernel)
theorem no_groups (s : State) (h : s.groups = []) (g : Group) : g ∉ s.groups := by simp [h]

theorem witness_tagged : ∃ s1 xs, Access .load 4 ⟨2, none⟩ 0 { devLocal 16 with tags := [(4, true)] } s1 xs ∧ LanesAligned 4 xs ∧ TagsReady true xs s1 ∧
    InScratch xs ∧ (∀ x ∈ xs, laneLoc x = .smem 0 16) ∧ (xs.map laneWord).Nodup ∧ TagsReady false xs (dev 1) := by
  refine ⟨_, _, access_intro .load 4 { devLocal 16 with tags := [(4, true)] } ⟨rfl, rfl, rfl, rfl, noneLeaving rfl⟩ ⟨rfl, rfl, rfl, rfl, noneLeaving rfl⟩ (by decide +kernel), ?_, ⟨?_, ?_⟩, ?_, ?_, ?_, ⟨?_, ?_⟩⟩
  · unfold LanesAligned; decide +kernel
  · decide +kernel
  · exact fun g hg => absurd hg (no_groups _ (by decide +kernel) g)
  · have h : ∀ x ∈ (lanesAt2 .load 4 { devLocal 16 with tags := [(4, true)] }).2, laneLoc x = .smem 0 16 := by decide +kernel
    exact fun x hx => ⟨0, 16, h x hx⟩
  · decide +kernel
  · decide +kernel
  · decide +kernel
  · exact fun g hg => absurd hg (no_groups _ rfl g)
theorem witness_maintenance : VectorReady (baseRegs ⟨2, none⟩) (devAt 0x10) ∧ Quiet (devAt 0x10) ∧ Quiet (lanesAt2 .load 1 (devAt 0x10)).1 ∧
    (∀ x ∈ (lanesAt2 .load 1 (devAt 0x10)).2, laneFault x = none ∧ x.x1 ≠ .wait) ∧ (lanesAt2 .load 1 (devAt 0x10)).2.map laneLoc = [.dev 0x10010 true] :=
  ⟨⟨rfl, by decide +kernel, by decide +kernel⟩, quiet_devRegs _, ⟨rfl, rfl, rfl, rfl, noneLeaving rfl⟩, by decide +kernel, by decide +kernel⟩
theorem bankAtRest_without_groups (s : State) (b : Nat) (h1 : (Machine.bankOf s s.cur.core b).next = none) (h2 : s.groups = []) : BankAtRest s b :=
  ⟨h1, fun g hg => absurd hg (no_groups s h2 g)⟩
theorem witness_bank_mode : BankAtRest (dev 1) 5 ∧ ¬ BankInUse (dev 1) 5 ∧ (Machine.bankOf (dev 1) 0 5).mode = .cache ∧ BankAtRest (dev 1) 0 ∧
    BankInUse (dev 1) 0 := by
  refine ⟨bankAtRest_without_groups _ _ (by decide +kernel) rfl, ?_, by decide +kernel, bankAtRest_without_groups _ _ (by decide +kernel) rfl, ?_⟩
  · unfold BankInUse; decide +kernel
  · unfold BankInUse; decide +kernel

/-- The device while its group waits for bank 1, a FIFO, to become a scratchpad. -/
def devSwitch : State :=
  { devWith (fun g => { g with wait := some (.bank 1) }) with banks := [(1, ⟨.fifo, some (.scratch, 1), 0, resetFifo⟩)] }

theorem witness_bank_mode_switch : devSwitch.cur.placed = true ∧ (Machine.bankOf devSwitch 0 1).next = some (.scratch, devSwitch.cur.gid) ∧
    devSwitch.cur.wait = some (.bank 1) ∧ (Machine.bankOf devSwitch 0 1).mode ≠ .scratch ∧ (Machine.bankOf devSwitch 0 1).mode ≠ .cache ∧
    (Machine.bankOf devSwitch 0 1).fifo.lnk = false := by decide +kernel

theorem runIsFree_dev : RunIsFree (dev 1) 0 4096 256 := by
  unfold RunIsFree; decide +kernel
theorem witness_scratch_allocation : teamAt (dev 1) 0 0 = some aTeam ∧ RunIsFree (dev 1) 0 4096 256 ∧
    (∀ c, c < 4096 → c % 256 = 0 → ¬ RunIsFree (dev 1) 0 c 256) ∧ (∃ k, k ∈ [1, 2, 3] ∧ ∀ e ∈ aTeam.exts, e.num ≠ k) ∧ (200 + 255) / 256 * 256 = 256 := by
  refine ⟨by decide +kernel, runIsFree_dev, ?_, ⟨2, by decide +kernel⟩, by decide +kernel⟩
  intro c hc _ h
  have := h.2 aTeam (by decide +kernel) rfl ⟨1, 0, 4096⟩ (by decide +kernel)
  simp only at this
  omega
theorem witness_scratch_refused : ∀ b, b + 0x180000 ≤ 0x180000 → ¬ RunIsFree (dev 1) 0 b 0x180000 := by
  intro b hb h
  have := h.2 aTeam (by decide +kernel) rfl ⟨1, 0, 4096⟩ (by decide +kernel)
  simp only at this
  omega
theorem witness_translation_fault : ((lanesAt2 .load 4 (devAt 0x1C0000000000000)).2.filter (fun y => (laneFault y).isSome)).head?.bind laneFault = some 1 ∧
    (∀ y ∈ (lanesAt2 .load 4 (devAt 0x1C0000000000000)).2, y.x1 ≠ .wait) ∧ (devAt 0x1C0000000000000).cur.fence = none := by decide +kernel

/-- An atomic's lane in the scratchpad: the access and the read-modify-write that the statement names. -/
theorem witness_atomic : ∃ s1 x, VectorReady (regsOf .i32 5 ++ regsOf .i32 6 ++ baseRegs ⟨2, none⟩) (devLocal 16) ∧
    Access .atomic 4 ⟨2, none⟩ 0 (devLocal 16) s1 [x] ∧ NoFifo [x] ∧ x.addr.toNat % 4 = 0 ∧ x.lane < 32 ∧ laneVal (devLocal 16) .i32 6 x.lane < 2 ^ 64 ∧
    (rmwLoc (whoOf s1.cur) (laneLoc x) (locCell s1 (laneLoc x)) 4 (fun old => leBytes 4 (atomVal .add .i32 (leVal old) 1 0)) s1).2.poison = false :=
  ⟨(lanesAt2 .atomic 4 (devLocal 16)).1, (lanesAt2 .atomic 4 (devLocal 16)).2.headD ⟨0, 0, .fault 1, .fault 1, 0⟩, ⟨rfl, by decide +kernel, by decide +kernel⟩,
    ⟨by decide +kernel, quiet_devRegs _, ⟨rfl, rfl, rfl, rfl, noneLeaving rfl⟩, by decide +kernel⟩, by unfold NoFifo; decide +kernel, by decide +kernel, by decide +kernel, by decide +kernel,
    by decide +kernel⟩
theorem witness_read_modify_write : (∀ bs : List Byte, ((fun _ => leBytes 4 7) bs : List Byte).length = 4) ∧ 0x810 % 128 + 4 ≤ 128 ∧
    (dev 1).retired.contains (0x20010 / 65536) = false ∧ cellPoisoned (dev 1) 0x810 4 = false ∧ (dev 1).copies = [] ∧ (dev 1).cur.fence = none ∧ NoErrors (dev 1) := ⟨fun _ => rfl, by unfold NoErrors; decide +kernel⟩

/-- The device with two lanes of an atomic left at one word. -/
def devPasses : State :=
  devWith (fun g => { g with passes := some ⟨.add, .i32, 5, [⟨0, .smem 0 16, 0, 1, 0⟩, ⟨3, .smem 0 16, 0, 2, 0⟩], false⟩ })

theorem witness_repechage : ∃ p x rest, devPasses.cur.placed = true ∧ devPasses.cur.passes = some p ∧ p.left = x :: rest ∧
    (∀ y ∈ p.left, y.loc = .smem 0 16) ∧ x.lane < 32 ∧ rest ≠ [] :=
  ⟨⟨.add, .i32, 5, [⟨0, .smem 0 16, 0, 1, 0⟩, ⟨3, .smem 0 16, 0, 2, 0⟩], false⟩, ⟨0, .smem 0 16, 0, 1, 0⟩, [⟨3, .smem 0 16, 0, 2, 0⟩], by decide +kernel⟩
theorem witness_reduction : ∃ s1 xs, VectorReady (regsOf .i32 6 ++ baseRegs ⟨2, none⟩) (devAt 0x1010) ∧ Access .atomic 4 ⟨2, none⟩ 0 (devAt 0x1010) s1 xs ∧
    NoFifo xs ∧ LanesAligned 4 xs ∧ xs ≠ [] :=
  ⟨_, _, ⟨rfl, by decide +kernel, by decide +kernel⟩, access_intro .atomic 4 (devAt 0x1010) (quiet_devRegs _) ⟨rfl, rfl, rfl, rfl, noneLeaving rfl⟩ (by decide +kernel),
    by unfold NoFifo; decide +kernel, by unfold LanesAligned; decide +kernel, by decide +kernel⟩
theorem witness_block_accumulate : ∃ s1 xs, Access .atomic (recordBytes .e4m3) ⟨2, none⟩ 0 (devAt 0x1021) s1 xs ∧ OneSlot .e4m3 xs ∧
    (∀ x ∈ xs, x.addr.toNat < 0x180000000000000) ∧ xs.head?.isSome = true :=
  ⟨_, _, access_intro .atomic (recordBytes .e4m3) (devAt 0x1021) (quiet_devRegs _) ⟨rfl, rfl, rfl, rfl, noneLeaving rfl⟩ (by decide +kernel), by unfold OneSlot; decide +kernel,
    by decide +kernel, by decide +kernel⟩
theorem witness_block_from_memory : ∃ s2 l, RecordAt .load .e5m2 ((getS (devRegs [(2, 0x1040), (3, 0x1080)]) 3).setWidth 57) (devRegs [(2, 0x1040), (3, 0x1080)]) s2 l ∧
    (readRecord (whoOf s2.cur) .e5m2 l s2).2.poison = false ∧ (readRecord (whoOf s2.cur) .e5m2 l s2).1.cur.fence = none ∧
    (readRecord (whoOf s2.cur) .e5m2 l s2).1.cur.posted = [] :=
  ⟨_, .dev 0x20080 false, ⟨⟨_, _, rfl⟩, ⟨rfl, rfl, rfl, rfl, noneLeaving rfl⟩, by decide +kernel, by decide +kernel, by decide +kernel⟩, by decide +kernel, by decide +kernel, by decide +kernel⟩
theorem witness_block_load : ∃ s1 xs, Access .load (recordBytes .e2m1) ⟨2, none⟩ 0 (devAt 0x1011) s1 xs ∧ OneSlot .e2m1 xs ∧ (∀ x ∈ xs, bldRefuses (laneLoc x) = none) ∧
    ∀ x ∈ xs.head?, (readRecord (whoOf s1.cur) .e2m1 (laneLoc x) s1).2.poison = false :=
  ⟨_, _, access_intro .load (recordBytes .e2m1) (devAt 0x1011) (quiet_devRegs _) ⟨rfl, rfl, rfl, rfl, noneLeaving rfl⟩ (by decide +kernel), by unfold OneSlot; decide +kernel, by decide +kernel,
    by decide +kernel⟩
theorem witness_block_convert : VectorReady [5, 6] (dev 5) ∧ ¬ ((getS (devRegs [(3, 127)]) 3).toNat % 256 = 255) ∧ (getS (devRegs [(3, 255)]) 3).toNat % 256 = 255 :=
  ⟨⟨rfl, by decide +kernel, by decide +kernel⟩, by decide +kernel⟩

/-- The device with a posted block accumulation. -/
def devBacc : State := devWith (fun g => { g with posted := [⟨.bacc .e4m3 .e2m1 127 [], .dev 0x20021 false, .unc, some 0x821, 0, 1, 0x1021, 0, 0, false⟩] })

theorem witness_block_home : devBacc.cur.placed = true ∧ devBacc.hostAcks = [] ∧ devBacc.copies = [] ∧ recordFmt .e4m3 = true ∧ recordFmt .e2m1 = true ∧
    (rmwLoc (whoOf devBacc.cur) (.dev 0x20021 false) (some 0x821) (recordBytes .e4m3) (accumulate .e4m3 .e2m1 127 1 [])
      { devBacc with cur := { devBacc.cur with posted := [] } }).2.poison = false := by decide +kernel
theorem witness_block_home_quiet : NoneLeaving devBacc ∧ (List.replicate 33 (0 : Byte)).length = recordBytes .e4m3 := ⟨noneLeaving rfl, by decide⟩

/-- The device with an incomplete fence, and what the group has not performed. -/
def devFence (ps : List Posted) : State := devWith (fun g => { g with fence := some ⟨.rel, .device, 0, g.arch, [], [], [], 0, []⟩, posted := ps })

theorem fenceIdle_of_empty (s : State) (h : s.redUnit = []) (h2 : s.copies = []) : FenceIdle s := ⟨h, by simp [h2]⟩

theorem witness_fence : (dev 1).cur.crew = none ∧ active (dev 1) ≠ 0 ∧ (dev 1).cur.fence = none ∧ Scope.device ≠ .group := by decide +kernel
theorem witness_fence_complete : (devFence []).cur.placed = true ∧ (devFence []).cur.fence.isSome = true ∧ (devFence []).cur.posted = [] ∧ (devFence []).hostAcks = [] ∧
    (devFence []).commitPend = false ∧ FenceIdle (devFence []) := ⟨rfl, rfl, rfl, rfl, rfl, fenceIdle_of_empty _ rfl rfl⟩

/-- The device with two posted writes to one word of the scratchpad, a fence of scope group between them, and one after them. -/
def devEpochs : State :=
  devWith (fun g => { g with epoch := 2, posted := [⟨.write [1], .smem 0 16, .wt, none, 0, 1, 0, 0, 0, false⟩, ⟨.write [2], .smem 0 16, .wt, none, 0, 1, 0, 0, 1, false⟩] })

theorem witness_fence_group : ∃ q p, devEpochs.cur.posted[0]? = some q ∧ devEpochs.cur.posted[1]? = some p ∧ q.epoch < p.epoch ∧
    postedTarget devEpochs q = postedTarget devEpochs p ∧ q.merged = false ∧ p.epoch < devEpochs.cur.epoch ∧
    postedTarget devEpochs p = locTarget devEpochs (.smem 0 16) ∧ 1 ∉ performable devEpochs :=
  ⟨⟨.write [1], .smem 0 16, .wt, none, 0, 1, 0, 0, 0, false⟩, ⟨.write [2], .smem 0 16, .wt, none, 0, 1, 0, 0, 1, false⟩, by decide +kernel⟩
theorem witness_fence_held : (devFence [⟨.write [1], .host 0, .wt, none, 0, 1, 0, 0, 0, false⟩]).cur.fence.any (fun f => f.kind != .acq) = true ∧
    (devFence [⟨.write [1], .host 0, .wt, none, 0, 1, 0, 0, 0, false⟩]).cur.posted ≠ [] ∧
    FenceIdle (devFence [⟨.write [1], .host 0, .wt, none, 0, 1, 0, 0, 0, false⟩]) :=
  ⟨by decide +kernel, by decide +kernel, fenceIdle_of_empty _ rfl rfl⟩
theorem witness_barrier_arrival : (dev 1).cur.crew = none ∧ active (dev 1) ≠ 0 ∧ (dev 1).cur.posted = [] ∧ FenceIdle (dev 1) ∧ (dev 1).cur.coresident = false ∧
    (devWith (fun g => { g with coresident := true })).cur.coresident = true := ⟨rfl, by decide +kernel, rfl, fenceIdle_of_empty _ rfl rfl, rfl, rfl⟩

/-- Two groups of a team, one of them at the team's barrier, the other as told. -/
def devBarrier (w : Option Wait) : State :=
  { devWith (fun g => { g with wait := some (.bar .team) }) with groups := [{ aGroup 1 with gid := 2, wait := w }] }

theorem witness_barrier_complete : (devBarrier (some (.bar .team))).cur.wait = some (.bar .team) ∧ (devBarrier none).redUnit = [] ∧ (devBarrier none).copies = [] ∧
    ((devBarrier none).cur :: (devBarrier none).groups).Pairwise (fun g h => g.gid ≠ h.gid) ∧
    (∀ h ∈ allGroups (devBarrier (some (.bar .team))), sameInstance .team (devBarrier none).cur h = true → h.wait = some (.bar .team)) ∧
    (allGroups (devBarrier none)).any (fun h => sameInstance .team (devBarrier none).cur h && !(h.wait == some (.bar .team))) = true := by decide +kernel

/-- The device with s2 at an object at byte 64 of the scratchpad, s3 a value, and the object's words. -/
def devObject (v : Word) (o : Nat) : State := { devRegs [(2, 0x1FF000000000040), (3, v)] with smem := tsetList 0 [] 64 (leBytes 16 o) }

theorem witness_object : ObjectAt (getS (devObject 7 0) 2) 64 (devObject 7 0) ∧ Quiet (devObject 7 0) ∧ (getS (devObject 7 0) 3).toNat < 2 ^ 40 ∧
    (readObj (devObject 7 5) 64).exp + 7 < 2 ^ 40 ∧ (readObj (devObject 7 5) 64).ph ≠ (getS (devObject 7 5) 3).getLsbD 0 ∧
    (readObj (devObject 6 5) 64).ph = (getS (devObject 6 5) 3).getLsbD 0 ∧ 2 ^ 40 ≤ (getS (devObject 0xFFFFFFFFFFF 0) 3).toNat :=
  ⟨⟨by decide +kernel, by decide +kernel, by decide +kernel, 0, 64, by decide +kernel, rfl⟩, ⟨rfl, rfl, rfl, rfl, noneLeaving rfl⟩, by decide +kernel⟩
theorem witness_object_no_waiter : ∀ g ∈ allGroups (devObject 7 0), ∀ ph, g.wait ≠ some (.object 64 ph) := by decide +kernel
theorem witness_monitor : ∃ s1 l2 x, translateSpan (whoOf (devAt 0x10).cur) .load ((getS (devAt 0x10) 2).setWidth 57) 1 (devAt 0x10) = (s1, .ok (.dev 0x10010 true), .ok l2, x) ∧
    homeCell s1.regions (0x10010 / 8 * 8) = some 0x410 ∧ s1.copies = [] ∧ cellPoisoned s1 0x410 8 = false ∧ Quiet s1 :=
  ⟨_, .dev 0x10010 true, 0x10, rfl, by decide +kernel, by decide +kernel, by decide +kernel, ⟨rfl, rfl, rfl, rfl, noneLeaving rfl⟩⟩
theorem witness_monitor_wait : (dev 1).cur.mon = none ∧ (devWith (fun g => { g with mon := some ⟨0x10, 8, 0, true⟩, wait := some .mwait })).cur.mon = some ⟨0x10, 8, 0, true⟩ ∧
    (devWith (fun g => { g with mon := some ⟨0x10, 8, 0, true⟩, wait := some .mwait })).cur.wait = some .mwait := by decide +kernel
/-- The device with a triggered monitor on line 16, of which core 0 has a copy that a stale notice has marked or not. -/
def devStale (stale : Bool) : State :=
  { devWith (fun g => { g with mon := some ⟨0x10, 16, 0, true⟩, wait := some .mwait }) with
    copies := [⟨0, 16, 0x20000, .unrecorded, BitVec.allOnes 128, 0, 0, 0, 0, stale, 0⟩] }

theorem witness_monitor_stale : (∃ c, copyOf 0 16 (devStale true) = some c ∧ c.stale = true) ∧ (∀ c, copyOf 0 16 (devStale false) = some c → c.stale = false) ∧
    (devStale true).cur.core = 0 := by
  refine ⟨⟨_, rfl, rfl⟩, ?_, rfl⟩
  intro c h
  cases h
  rfl

theorem triple_none {α β γ : Type} (x : α × β × Option γ) (h : x.2.2 = none) : x = (x.1, x.2.1, none) := by
  rw [← h]
theorem got_clean {α : Type} (x : α × Got) (h : x.2.poison = false) : x = (x.1, ⟨x.2.bytes, false⟩) := by
  rw [← h]
theorem pair_snd {α β : Type} (x : α × β) (b : β) (h : x.2 = b) : x = (x.1, b) := by
  rw [← h]

/-- A descriptor of one dimension of two words, from byte 0x100 of the scratchpad to byte 0x200. -/
def aDescriptor : List Byte :=
  leBytes 8 0x1FF000000000100 ++ leBytes 8 0x1FF000000000200 ++ leBytes 8 0x21 ++ leBytes 8 0 ++ leBytes 16 (2 + 4 * 2 ^ 32 + 4 * 2 ^ 80)

/-- The device with a descriptor at byte 64 of the scratchpad, which s2 names. -/
def devDescriptor : State := { devLocal 64 with smem := tsetList 0 [] 64 aDescriptor }

/-- What the descriptor's header says. -/
def aHeader : DescHead := ⟨0x1FF000000000100, 0x1FF000000000200, .none, .none, 4, 1⟩

/-- The copy that the descriptor asks for, under identifier 9. -/
def aCopy (st : CopySt) : CopyOp := { askedCopy devDescriptor 0x1FF000000000040 aHeader [⟨2, 4, 4⟩] 0 true none 9 0 (some 0) with st := st }

theorem witness_copy_descriptor : CommandReady devDescriptor ∧ (((getS devDescriptor 2).setWidth 57 : VAddr)).toNat % 32 = 0 ∧
    (∃ hb, DescriptorRead 0x1FF000000000040 32 devDescriptor devDescriptor hb ∧ parseHead hb = some aHeader) ∧
    (∃ db, DescriptorRead 0x1FF000000000060 16 devDescriptor devDescriptor db ∧ parseDims aHeader db = some [⟨2, 4, 4⟩]) :=
  ⟨⟨rfl, by decide +kernel, rfl, rfl, rfl, rfl, noneLeaving rfl⟩, by decide +kernel,
    ⟨aDescriptor.take 32, ⟨devDescriptor, .smem 0 64, .smem 0 64, 0x1FF000000000040, by decide +kernel, rfl, rfl, by decide +kernel, Or.inr (by decide +kernel), by decide +kernel, by decide +kernel⟩,
      by decide +kernel⟩,
    ⟨aDescriptor.drop 32, ⟨devDescriptor, .smem 0 96, .smem 0 96, 0x1FF000000000060, by decide +kernel, rfl, rfl, by decide +kernel, Or.inr (by decide +kernel), by decide +kernel, by decide +kernel⟩,
      by decide +kernel⟩⟩
theorem operand_local (k : AccKind) (n : Nat) (as : List VAddr) (s : State) (lo : VAddr) (l : Loc) (hb : badOperand n as = false) (hm : as.contains lo = true)
    (hl : as.all (fun a => lo.toNat ≤ a.toNat) = true) (h0 : localBase ≤ lo.toNat) (ht : translate (whoOf s.cur) k lo s = (s, .ok l))
    (ha : allocOk (whoOf s.cur) lo (as.foldl (fun m a => max m (a.toNat + n)) 0 - lo.toNat) s = true) : OperandAt k n as s s :=
  ⟨hb, Or.inr ⟨lo, l, by simpa using hm, by simpa using hl, h0, ht, ha⟩⟩

theorem witness_copy_source : OperandAt .engineRead 4 ((copyElems (aCopy .queued)).map (fun e => e.1)) devDescriptor devDescriptor := by
  apply operand_local _ _ _ _ 0x1FF000000000100 (.smem 0 256) <;> decide +kernel
theorem witness_copy_destination : OperandAt .engineWrite 4 ((copyElems (aCopy .queued)).map (fun e => e.2)) devDescriptor devDescriptor := by
  apply operand_local _ _ _ _ 0x1FF000000000200 (.smem 0 512) <;> decide +kernel
theorem witness_copy_command : (copiesOf devDescriptor 0 0).length < 16 ∧ (devDescriptor.copyOps.filter (fun x => x.core = 0)).length < 65535 ∧ CommandObject 0 devDescriptor :=
  ⟨by decide +kernel, by decide +kernel, Or.inl rfl⟩

/-- The device with the copy outstanding. -/
def devCopy (st : CopySt) (blocks : List VAddr) : State := { devRegs [(5, 9)] with copyOps := [{ aCopy st with blocks := blocks }] }

theorem witness_copy_cancel : ∃ c, c ∈ (devCopy .queued []).copyOps ∧ c.core = 0 ∧ c.slot = 0 ∧ c.ident = (getS (devCopy .queued []) 5).toNat ∧ c.blocks = [] ∧ c.early = [] ∧
    (∀ x ∈ (devCopy .queued []).copyOps, x.core = c.core → x.ident = c.ident → x = c) ∧ CommandReady (devCopy .queued []) :=
  ⟨{ aCopy .queued with blocks := [] }, by decide +kernel, by decide +kernel, by decide +kernel, by decide +kernel, by decide +kernel, by decide +kernel, by decide +kernel,
    ⟨rfl, by decide +kernel, rfl, rfl, rfl, rfl, noneLeaving rfl⟩⟩
theorem witness_copy_cancel_none : ∀ c ∈ (devCopy .running [0]).copyOps, c.core = 0 → c.slot = 0 → c.ident = (getS (devCopy .running [0]) 5).toNat → c.blocks ≠ [] := by
  decide +kernel
theorem witness_event_pop : ∃ xs e ys, ({ dev 1 with evq := [⟨0, 1, 0, 5⟩, ⟨0, 0, 0, 6⟩] } : State).evq = xs ++ e :: ys ∧ (e : EvWord).core = 0 ∧ e.slot = 0 ∧
    (∀ x ∈ xs, ¬ ((x : EvWord).core = 0 ∧ x.slot = 0)) ∧ (xs.filter (fun x => x.core = 0)).length < evVisible { dev 1 with evq := [⟨0, 1, 0, 5⟩, ⟨0, 0, 0, 6⟩] } 0 :=
  ⟨[⟨0, 1, 0, 5⟩], ⟨0, 0, 0, 6⟩, [], by decide +kernel⟩
theorem witness_event_pop_none : CommandReady (dev 1) ∧ ∀ e ∈ ((dev 1).evq.filter (fun e => e.core = 0)).take (evVisible (dev 1) 0), e.slot ≠ 0 :=
  ⟨⟨rfl, by decide +kernel, rfl, rfl, rfl, rfl, noneLeaving rfl⟩, by decide +kernel⟩
theorem witness_extent_free : teamAt (devLocal 0) 0 0 = some aTeam ∧ (⟨1, 0, 4096⟩ : Extent) ∈ aTeam.exts ∧ (getS (devLocal 0) 2).toNat = localBase + 0 ∧
    (∀ x ∈ aTeam.exts, x.num ≠ 0 → x.base = 0 → x = ⟨1, 0, 4096⟩) ∧ extentBusy 0 0 ⟨1, 0, 4096⟩ (devLocal 0) = false ∧
    extentBusy 0 0 ⟨1, 0, 4096⟩ (devCopy .running []) = true ∧ (∀ e ∈ aTeam.exts, e.num ≠ 0 → (getS (devLocal 64) 2).toNat ≠ localBase + e.base) := by decide +kernel
theorem witness_team_at_rest : TeamAtRest (devLocal 0) 0 0 := by
  refine ⟨fun g hg _ _ => ?_, fun c hc => absurd hc (by simp [devLocal, devRegs, devWith, dev, State.reset]), fun k hk => absurd hk (by simp [devLocal, devRegs, devWith, dev, State.reset])⟩
  have h : g = (devLocal 0).cur := by simpa [devLocal, devRegs, devWith, dev, State.reset] using hg
  subst h
  exact ⟨rfl, rfl, rfl, fun w => by simp [devLocal, devRegs, devWith, aGroup, noGroup]⟩
theorem witness_copy_piece : ∃ s1 c1, copyAt (devCopy .running []) 0 9 = some (aCopy .running) ∧
    copyGoes (devCopy .running []) (aCopy .running) = some (aCopy .running) ∧ blocksLeft (aCopy .running) ≠ [] ∧
    someBlock (aCopy .running) (devCopy .running []) = some 0x1FF000000000200 ∧
    PieceMoved (aCopy .running) 0x1FF000000000200 { devCopy .running [] with free := (devCopy .running []).free + 1 } s1 ∧ copyAt s1 0 9 = some c1 ∧
    (∀ x ∈ s1.copyOps, x.core = 0 → x.ident = 9 → x = c1) :=
  ⟨(moveUnits (aCopy .running) (unitsLeft (aCopy .running) 0x1FF000000000200 1) { devCopy .running [] with free := 257 }).1,
    { aCopy .running with early := [0x1FF000000000200, 0x1FF000000000204] }, by decide +kernel, by decide +kernel, by decide +kernel, by decide +kernel,
    pair_snd _ _ (by decide +kernel), by decide +kernel, by decide +kernel⟩
theorem witness_copy_word : ∃ u, u ∈ unitsLeft (aCopy .running) 0x1FF000000000200 ((devCopy .running []).free + 2) ∧
    (moveUnit (aCopy .running) u { devCopy .running [] with free := (devCopy .running []).free + 258 }).2 = true :=
  ⟨⟨0x1FF000000000200, [(0x1FF000000000200, 0x1FF000000000100), (0x1FF000000000201, 0x1FF000000000101), (0x1FF000000000202, 0x1FF000000000102),
    (0x1FF000000000203, 0x1FF000000000103)]⟩, by decide +kernel⟩
theorem witness_copy_access :
    engineBytes (teamWho 0 0 (devCopy .running [])) .engineWrite [0x1FF000000000200, 0x1FF000000000201] (devCopy .running []) =
      (devCopy .running [], .locs [.smem 0 512, .smem 0 513]) ∧
    engineBytes (teamWho 0 0 (devCopy .running [])) .engineRead [0x1FF000000000100, 0x1FF000000000101] (devCopy .running []) =
      (devCopy .running [], .locs ([(0, 256), (0, 257)].map (fun (x : Nat × Nat) => Loc.smem x.1 x.2))) := by decide +kernel
theorem witness_copy_complete : copyAt (devCopy .running [0x1FF000000000200]) 0 9 = some { aCopy .running with blocks := [0x1FF000000000200] } ∧
    blocksLeft { aCopy .running with blocks := [0x1FF000000000200] } = [] := by decide +kernel

/-- The device with a copy whose source address lies in no window. -/
def devBadCopy : State := { dev 1 with copyOps := [{ aCopy .running with src := 0x1C0000000000000 }] }

theorem witness_copy_fault : copyAt devBadCopy 0 9 = some { aCopy .running with src := 0x1C0000000000000 } ∧
    copyGoes devBadCopy { aCopy .running with src := 0x1C0000000000000 } = some { aCopy .running with src := 0x1C0000000000000 } ∧
    copyFaultOf { aCopy .running with src := 0x1C0000000000000 } (blocksLeft { aCopy .running with src := 0x1C0000000000000 }) { devBadCopy with free := 1 } =
      some (1, 0x1C0000000000000) ∧ (∀ r ∈ devBadCopy.faults, r.kind ≠ 1) ∧ (devBadCopy.faults.filter (fun r => r.die = 0)).length < 512 := by decide +kernel
/-- Nothing is finished of a copy of which nothing is begun. -/
theorem finishBegun_of_none {core ident : Nat} {s : State} {c : CopyOp} (h : copyAt s core ident = some c) (hb : ∀ b, begun c b = false)
    (bs : List VAddr) : finishBegun core ident bs s = s := by
  induction bs with
  | nil => rfl
  | cons b r ih => simpa [finishBegun, h, hb] using ih

theorem witness_copy_fault_ends :
    finishBegun 0 9 (blocksLeft { aCopy .running with src := 0x1C0000000000000 }) { devBadCopy with free := 1 } = { devBadCopy with free := 1 } ∧
    ({ aCopy .running with src := 0x1C0000000000000 } : CopyOp).early = [] ∧
    (∀ b ∈ blocksLeft { aCopy .running with src := 0x1C0000000000000 }, begun { aCopy .running with src := 0x1C0000000000000 } b = false) :=
  ⟨finishBegun_of_none (c := { aCopy .running with src := 0x1C0000000000000 }) rfl (fun _ => rfl) _, rfl, fun _ _ => rfl⟩

/-- A copy in whose first block one word is written and the next waits for the host port, while its second block faults. -/
def aBegunCopy : CopyOp := { aCopy .running with src := 0x1000, dims := [⟨2, 4, 4⟩, ⟨2, 0, 4096⟩], early := [0x1FF000000000200] }
def devBegunCopy : State :=
  { dev 1 with copyOps := [aBegunCopy], tlb2 := [(0, ⟨1, 0, 0x1000, 4096, 0x2000F⟩)], hostAcks := [⟨hostClient, 16, 0x20000, .held, 0, 0, 0, 0, 0, false, 0⟩] }

theorem witness_copy_fault_waits : copyAt devBegunCopy 0 9 = some aBegunCopy ∧ copyGoes devBegunCopy aBegunCopy = some aBegunCopy ∧
    (copyFaultOf aBegunCopy (blocksLeft aBegunCopy) { devBegunCopy with free := 1 }).isSome = true ∧
    begun aBegunCopy 0x1FF000000000200 = true ∧ 0x1FF000000000200 ∈ blocksLeft aBegunCopy ∧
    copyAt (finishBegun 0 9 (blocksLeft aBegunCopy) { devBegunCopy with free := 1 }) 0 9 = some aBegunCopy ∧
    copyFaultOf aBegunCopy [0x1FF000000000200] (finishBegun 0 9 (blocksLeft aBegunCopy) { devBegunCopy with free := 1 }) = none := by decide +kernel

/-- A configuration: A at byte 0x400 of the scratchpad, B at 0x500, D at 0x600, OUT at 0x700, every pitch 16 bytes (R323). -/
def aCfg : List Word :=
  [0x1FF000000000400, 0x1FF000000000500, 0x1FF000000000600, 0x1FF000000000700, 0x0000001000000010, 0x0000001000000010, 0, 0]

/-- A scaled operation of one element of one K-block. -/
def anOp : MxOp := ⟨true, .e4m3, 1, 1, 4, 0⟩

/-- A slot of the team, in a state, with an operation. -/
def aSlot (num : Nat) (st : SlotSt) (op : Option MxOp) : Slot := { newSlot 0 num 0 with st := st, cfg := aCfg, op := op }

/-- The device with slots, registers and tags. -/
def devSlots (xs : List Slot) (rs : List (Nat × Word)) (tags : List (Nat × Bool)) : State := { devRegs rs with slots := xs, tags := tags }

/-- The device with the configuration at byte 64 of the scratchpad, which s2 names. -/
def devConfig (xs : List Slot) : State := { devSlots xs [(2, 0x1FF000000000040)] [] with smem := tsetList 0 [] 64 (aCfg.flatMap (fun w => leBytes 8 w.toNat)) }

theorem commandReady_devSlots (xs : List Slot) (rs : List (Nat × Word)) (tags : List (Nat × Bool)) : CommandReady (devSlots xs rs tags) := by
  have h : active (devSlots xs rs tags) = active (dev 1) := rfl
  exact ⟨rfl, by rw [h]; decide +kernel, rfl, rfl, rfl, rfl, noneLeaving rfl⟩

theorem witness_matrix_config : CommandReady (devConfig []) ∧ inScratch (getS (devConfig []) 2).toNat = true ∧ (getS (devConfig []) 2).toNat % 64 = 0 ∧
    allocOk (whoOf (devConfig []).cur) ((getS (devConfig []) 2).setWidth 57) 64 (devConfig []) = true ∧
    configOk ((List.range 8).map (fun i => BitVec.ofNat 64 (leVal (((tbytes (devConfig []).smem 64 64).drop (8 * i)).take 8)))) = true ∧
    slotAt (devConfig []) 0 1 = none ∧ isArmed (aSlot 1 .set none) = false ∧ slotAt (devConfig [aSlot 1 .armed (some anOp)]) 0 1 = some (aSlot 1 .armed (some anOp)) ∧
    isArmed (aSlot 1 .armed (some anOp)) = true :=
  ⟨⟨rfl, by decide +kernel, rfl, rfl, rfl, rfl, noneLeaving rfl⟩, by decide +kernel⟩

/-- The device with the operation's scalars in s3 to s6 and one slot. -/
def devMma (x : Slot) : State := devSlots [x] [(3, 1), (4, 1), (5, 4)] []

theorem shapeOk_anOp (x : Slot) (obj : Word) (s : State) (h1 : badShape x anOp = none) (h2 : (slotWords x anOp).all (fun a => (faultOf s a).isNone &&
      (inScratch a.toNat || inCluster a.toNat) && allocOk (whoOf s.cur) a 4 s) = true) (h3 : disjointOk s x anOp = true) (h4 : obj = 0) : ShapeOk x anOp obj s := by
  refine ⟨h1, fun a ha => ?_, h3, Or.inl h4⟩
  have h := List.all_eq_true.mp h2 a ha
  simp only [Bool.and_eq_true, Bool.or_eq_true, Option.isNone_iff_eq_none] at h
  exact ⟨h.1.1, h.1.2, h.2⟩

theorem witness_matrix_operation : OwnSlot 1 (aSlot 1 .set none) (devMma (aSlot 1 .set none)) ∧ isArmed (aSlot 1 .set none) = false ∧
    ShapeOk (aSlot 1 .set none) anOp 0 (devMma (aSlot 1 .set none)) ∧ CommandReady (devMma (aSlot 1 .set none)) :=
  ⟨⟨by decide +kernel, rfl⟩, by decide +kernel, shapeOk_anOp _ _ _ (by decide +kernel) (by decide +kernel) (by decide +kernel) rfl, commandReady_devSlots _ _ _⟩
theorem witness_matrix_arming : OwnSlot 1 (aSlot 1 .loaded (some anOp)) (devMma (aSlot 1 .loaded (some anOp))) ∧ isArmed (aSlot 1 .loaded (some anOp)) = false ∧
    ShapeOk (aSlot 1 .loaded (some anOp)) anOp (anOp.obj.setWidth 64) (devMma (aSlot 1 .loaded (some anOp))) ∧
    (∀ y ∈ otherArmed (devMma (aSlot 1 .loaded (some anOp))) (aSlot 1 .loaded (some anOp)), besideOk (devMma (aSlot 1 .loaded (some anOp))) (aSlot 1 .loaded (some anOp)) anOp y = true) ∧
    OwnSlot 1 (aSlot 1 .firing (some anOp)) (devMma (aSlot 1 .firing (some anOp))) ∧ inFiring (aSlot 1 .firing (some anOp)) = true ∧
    OwnSlot 1 (aSlot 1 .armed (some anOp)) (devMma (aSlot 1 .armed (some anOp))) :=
  ⟨⟨by decide +kernel, rfl⟩, by decide +kernel, shapeOk_anOp _ _ _ (by decide +kernel) (by decide +kernel) (by decide +kernel) rfl, by decide +kernel,
    ⟨by decide +kernel, rfl⟩, by decide +kernel, ⟨by decide +kernel, rfl⟩⟩

/-- The device with scales at bytes 0x800 and 0x900 of the scratchpad. -/
def devScale (x : Slot) : State := devSlots [x] [(2, 0x1FF000000000800), (3, 0x1FF000000000900), (4, 0x1FF000000000000)] []

theorem witness_scaling_command : OwnSlot 1 (aSlot 1 .armed (some anOp)) (devScale (aSlot 1 .armed (some anOp))) ∧ anOp.mx = true ∧
    (∃ x, translateSpan (whoOf (devScale (aSlot 1 .armed (some anOp))).cur) .load 0x1FF000000000800 1 (devScale (aSlot 1 .armed (some anOp))) =
      (devScale (aSlot 1 .armed (some anOp)), .ok (.smem 0 0x800), .ok (.smem 0 0x800), x)) ∧
    (∃ x, translateSpan (whoOf (devScale (aSlot 1 .armed (some anOp))).cur) .load 0x1FF000000000900 1 (devScale (aSlot 1 .armed (some anOp))) =
      (devScale (aSlot 1 .armed (some anOp)), .ok (.smem 0 0x900), .ok (.smem 0 0x900), x)) ∧ bankLoc (.smem 0 0x800) = none ∧
    allocOk (whoOf (devScale (aSlot 1 .armed (some anOp))).cur) 0x1FF000000000800 1 (devScale (aSlot 1 .armed (some anOp))) = true ∧
    scalings (devScale (aSlot 1 .armed (some anOp))) 0 0 < 16 :=
  ⟨⟨by decide +kernel, rfl⟩, rfl, ⟨0x1FF000000000800, by decide +kernel⟩, ⟨0x1FF000000000900, by decide +kernel⟩, by decide +kernel, by decide +kernel, by decide +kernel⟩
theorem witness_spill : inScratch (getS (devScale (aSlot 1 .set none)) 4).toNat = true ∧ (getS (devScale (aSlot 1 .set none)) 4).toNat % 128 = 0 ∧
    allocOk (whoOf (devScale (aSlot 1 .set none)).cur) ((getS (devScale (aSlot 1 .set none)) 4).setWidth 57) 4096 (devScale (aSlot 1 .set none)) = true ∧
    (devScale (aSlot 1 .set none)).cur.wait ≠ some (.spill 0) ∧ scalings (devScale (aSlot 1 .set none)) 0 0 < 16 ∧
    commandFree 0 0 1 (spillSets 0) (devScale (aSlot 1 .set none)) = true := by decide +kernel
theorem witness_matrix_errors : slotAt (devScale (aSlot 1 .set none)) 0 2 = none ∧ slotAt { dev 1 with slots := [newSlot 0 1 5] } 0 1 = some (newSlot 0 1 5) ∧
    (newSlot 0 1 5).team ≠ (dev 1).cur.slot := by decide +kernel

/-- The device with an armed slot whose operands are full and whose result region is empty. -/
def devArmed : State := devSlots [aSlot 1 .armed (some anOp)] [] [(256, true), (320, true)]

theorem witness_array_selection : (∀ y ∈ devArmed.slots, y.core = 0 → y.st = .armed → lostWord devArmed y = none) ∧
    arrayChoice 0 (stampReady devArmed) = some { aSlot 1 .armed (some anOp) with ready := 1 } ∧
    (stampReady devArmed).slots.Pairwise (fun x y => (x.core, x.num) ≠ (y.core, y.num)) ∧ arrayCandidates 0 (stampReady (dev 1)) = [] ∧
    slotAt devArmed 0 1 = some (aSlot 1 .armed (some anOp)) := by decide +kernel

/-- A slot all of whose K-blocks have entered. -/
def aFired : Slot := { aSlot 1 .firing (some anOp) with prog := 1, bank := some 0, firedA := true, firedB := true, acc := [(0, 0x3F800000)] }

theorem witness_firing_results : slotAt { dev 1 with slots := [aFired] } 0 1 = some aFired ∧ aFired.op = some anOp ∧ inFiring aFired = true ∧ blocksOf aFired ≤ aFired.prog ∧
    aFired.disarm = false ∧ ((tileWords (teamWho 0 0 (dev 1)) { dev 1 with slots := [aFired] } (cfgBits aFired 2 0 57) (cfgBits aFired 5 0 24) anOp).map (fun d => d.1)).Nodup := by
  decide +kernel

/-- The device with an armed slot that has consumed its region A, or has not. -/
def devConsumed (b : Bool) : State := devSlots [{ aSlot 1 .armed (some anOp) with firedA := true, consA := b }] [] []

theorem witness_consumed_event : (∃ k, (devConsumed true).slots.find? (fun y => (y.core == 0 && isArmed y) && (cfgBits y 0 0 57 == 0x1FF000000000400)) = some k) ∧
    baseKey (teamWho 0 0 (devConsumed true)) (devConsumed true) 0x1FF000000000400 = some 0x400 ∧ (readersOf (devConsumed true) 0 0x400).length = 1 ∧
    (∀ y ∈ readersOf (devConsumed true) 0 0x400, hasConsumed (devConsumed true) 0x400 y = true) ∧
    (readersOf (devConsumed false) 0 0x400).any (fun y => !(hasConsumed (devConsumed false) 0x400 y)) = true := ⟨⟨_, rfl⟩, by decide +kernel⟩

/-- The device with a scaling command, started or not, whose D is full. -/
def devScaling (run : Bool) (tags : List (Nat × Bool)) : State :=
  { devSlots [{ aSlot 1 .armed (some anOp) with cmds := [⟨0x1FF000000000800, 0x1FF000000000900, 1, aCfg, anOp, run, []⟩] }] [] tags with tick := 5 }

theorem witness_scaling_start : ∃ x c, slotAt (devScaling false [(384, true)]) 0 1 = some x ∧ x.op = some anOp ∧ x.cmds = [c] ∧ c.running = false ∧
    engineHolds (devScaling false [(384, true)]) (arrayEngine 0) = false ∧ tagsAre (devScaling false [(384, true)]) true (dWords (devScaling false [(384, true)]) x anOp) = true ∧
    commandFree 0 x.team c.issued (saccSets (devScaling false [(384, true)]) x c) (devScaling false [(384, true)]) = true ∧
    tagsAre (devScaling false []) true (dWords (devScaling false []) x anOp) = false :=
  ⟨{ aSlot 1 .armed (some anOp) with cmds := [⟨0x1FF000000000800, 0x1FF000000000900, 1, aCfg, anOp, false, []⟩] }, ⟨0x1FF000000000800, 0x1FF000000000900, 1, aCfg, anOp, false, []⟩, by decide +kernel⟩
theorem witness_scaling_complete : ∃ s1 bytes, ScalesRead { aSlot 1 .armed (some anOp) with cmds := [⟨0x1FF000000000800, 0x1FF000000000900, 1, aCfg, anOp, true, []⟩] } anOp
      ⟨0x1FF000000000800, 0x1FF000000000900, 1, aCfg, anOp, true, []⟩ (devScaling true [(384, true)]) s1 bytes ∧
    ((tileWords (teamWho 0 0 (dev 1)) s1 0x1FF000000000700 16 anOp).map (fun d => d.1)).Nodup ∧
    (∀ d ∈ tileWords (teamWho 0 0 (dev 1)) s1 0x1FF000000000600 16 anOp, d.1 ∉ (tileWords (teamWho 0 0 (dev 1)) s1 0x1FF000000000700 16 anOp).map (fun d => d.1)) :=
  ⟨devScaling true [(384, true)], [0, 0], ⟨devScaling true [(384, true)], [.smem 0 0x800, .smem 0 0x900], by decide +kernel, by decide +kernel, by decide +kernel,
    rfl, rfl⟩, by decide +kernel, by decide +kernel⟩
theorem nothingDue_unconsumed (s : State) (core : Nat) (h : ∀ y ∈ s.slots, y.consA = false ∧ y.consB = false) : NothingDue core s := by
  intro key r rs hr
  have hm : r ∈ readersOf s core key := by simp [hr]
  simp only [readersOf, List.mem_filter, Bool.and_eq_true, Bool.or_eq_true] at hm
  refine ⟨r, by simp, ?_⟩
  obtain ⟨ha, hb⟩ := h r hm.1
  rcases hm.2.2 with h | h <;> simp [hasConsumed, ha, hb, beq_iff_eq.mp h]
theorem witness_nothing_due : NothingDue 0 (devMma (aSlot 1 .loaded (some anOp))) ∧ NothingDue 0 { dev 1 with slots := [aFired] } :=
  ⟨nothingDue_unconsumed _ _ (by decide +kernel), nothingDue_unconsumed _ _ (by decide +kernel)⟩
theorem witness_matrix_disarm_wait : ∀ u, (dev 1).cur.wait ≠ some (.disarm u) := by
  intro u h
  cases h
theorem witness_matrix_disarm_waits : inFiring { aSlot 1 .firing (some anOp) with started := 7 } = true ∧
    (devWith (fun g => { g with wait := some (.disarm 7) })).cur.wait = some (.disarm 7) ∧ inFiring (aSlot 1 .loaded (some anOp)) = false := by decide +kernel
theorem witness_firing_word : leftOf aFired.early (tileWords (teamWho 0 0 (dev 1)) { dev 1 with slots := [aFired] } (cfgBits aFired 2 0 57) (cfgBits aFired 5 0 24) anOp) ≠ [] ∧
    leftOf [0] (tileWords (teamWho 0 0 (dev 1)) { dev 1 with slots := [{ aFired with early := [0] }] } (cfgBits aFired 2 0 57) (cfgBits aFired 5 0 24) anOp) = [] := by
  decide +kernel
theorem witness_scaling_word : let s := devScaling true [(384, true)]
    let ds := tileWords (teamWho 0 0 s) s 0x1FF000000000600 16 anOp
    let os := tileWords (teamWho 0 0 s) s 0x1FF000000000700 16 anOp
    (ds.zip os).filter (fun p => 32 * p.1.2.1 + p.1.2.2 ∉ ([] : List Nat)) ≠ [] ∧ (ds.zip os).filter (fun p => 32 * p.1.2.1 + p.1.2.2 ∉ [0]) = [] := by decide +kernel

/-- A load seat of words that feeds queue 0 at lane 1, and a sink seat that pops queue 0 (R297, R302). -/
def loadWord : BitVec 128 := 0x0210000000000D10
/-- The sink seat. -/
def sinkWord : BitVec 128 := 0x4010D11

/-- A group with queue 0 defined over two registers. -/
def crewGroup (f : Group → Group) : Group :=
  f { aGroup 1 with queues := ⟨true, 8, 2, 0, 0, 0, 0, 0, 0⟩ :: List.replicate 15 ⟨false, 0, 0, 0, 0, 0, 0, 0, 0⟩,
                    arch := { (aGroup 1).arch with sregs := [(2, 0x1FF000000000040)] } }

/-- The device with two seat words at byte 64 of the scratchpad, which s2 names. -/
def devSeats (w0 w1 : BitVec 128) (f : Group → Group := id) : State :=
  { dev 1 with cur := crewGroup f, smem := tsetList 0 [] 64 (leBytes 16 w0.toNat ++ leBytes 16 w1.toNat), launches := [aLaunch] }

theorem commandReady_devSeats (a b : BitVec 128) : CommandReady (devSeats a b) := by
  have h : active (devSeats a b) = active (dev 1) := rfl
  exact ⟨rfl, by rw [h]; decide +kernel, rfl, rfl, rfl, rfl, noneLeaving rfl⟩
theorem seatsAt_devSeats : SeatsAt (getS (devSeats loadWord sinkWord) 2) 2 (devSeats loadWord sinkWord) ∧ SeatsAt (getS (devSeats 0xFF 0) 2) 2 (devSeats 0xFF 0) := by
  unfold SeatsAt
  decide +kernel

theorem witness_crew_enter : CommandReady (devSeats loadWord sinkWord) ∧ SeatsAt (getS (devSeats loadWord sinkWord) 2) (2 : BitVec 6).toNat (devSeats loadWord sinkWord) ∧
    badSeat (devSeats loadWord sinkWord).cur ((enteredSeats (getS (devSeats loadWord sinkWord) 2) 2 (devSeats loadWord sinkWord)).map Seat.word) = none ∧
    bindingFor (devSeats loadWord sinkWord) 2 = none :=
  ⟨commandReady_devSeats _ _, seatsAt_devSeats.1, by decide +kernel⟩
theorem witness_crew_refused : CommandReady (devSeats 0xFF 0) ∧ SeatsAt (getS (devSeats 0xFF 0) 2) (2 : BitVec 6).toNat (devSeats 0xFF 0) ∧
    badSeat (devSeats 0xFF 0).cur ((enteredSeats (getS (devSeats 0xFF 0) 2) 2 (devSeats 0xFF 0)).map Seat.word) = some 0 :=
  ⟨commandReady_devSeats _ _, seatsAt_devSeats.2, by decide +kernel⟩

/-- The device with a pending BIND of two streams for the group's crew, a source and a sink; the source's seat is the one told. -/
def devBind (seat : Nat) : State :=
  { devSeats loadWord sinkWord with queues := { newQueue with
      pkts := [⟨0, 1, false, none, [⟨0x1000, 4, seat, 3, false, none, none, false, 0⟩, ⟨0x1100, 4, 1, 3, true, none, none, false, 0⟩], false, none⟩],
      pipes := [⟨3, 0, 0, 0, 0, 0, 2⟩] } :: List.replicate 31 newQueue }

theorem witness_crew_binding : launchQueue (devBind 0) < 32 ∧ (devBind 0).queues.length = 32 ∧ bindingFor (devBind 0) 2 = some (0, 3) ∧
    (∀ x ∈ streamsFor (devBind 0) (launchQueue (devBind 0)) (0, 3), x.seat < 32 ∧
      ((enteredSeats (getS (devBind 0) 2) 2 (devBind 0))[x.seat]?).any isStream = true) ∧
    (∀ k ∈ (queueAt (devBind 0) (launchQueue (devBind 0))).pkts, k.seq = 0 → ∃ x ∈ k.streams, x.sink = true) ∧
    (streamsFor (devBind 7) (launchQueue (devBind 7)) (0, 3)).any (fun x => x.seat < 32 &&
      !(((enteredSeats (getS (devBind 7) 2) 2 (devBind 7))[x.seat]?).any isStream)) = true ∧ bindingFor (devBind 7) 2 = some (0, 3) := by decide +kernel

/-- A crew of the two seats, the sink finished or not. -/
def aCrew (fin : Bool) : Crew := ⟨[⟨loadWord, 0, 0x1000, 0, 0, false⟩, ⟨sinkWord, 0, 0x1100, 0, 0, fin⟩] ++ List.replicate 30 ⟨0, 0, 0, 0, 0, false⟩, [], false, false⟩

/-- The device with the crew running, and a wait of its group. -/
def devCrew (fin : Bool) (w : Option Wait) : State :=
  devSeats loadWord 0 (fun g => { g with crew := some (aCrew fin), park := some ⟨0x20, 1, 5, [], []⟩, wait := w })

theorem active_devCrew (fin : Bool) (w : Option Wait) : active (devCrew fin w) ≠ 0 := by
  have h : active (devCrew fin w) = active (devCrew false none) := rfl
  rw [h]
  decide +kernel

theorem witness_crew_leave : (devCrew true none).cur.crew = some (aCrew true) ∧ (devCrew true none).cur.park.isSome = true ∧ active (devCrew true none) ≠ 0 ∧
    drainedCrew (devCrew true none).cur (aCrew true) = true ∧ drainedCrew (devCrew false none).cur (aCrew false) = false ∧
    (devCrew true (some .drain)).cur.wait = some .drain :=
  ⟨rfl, rfl, active_devCrew _ _, by decide +kernel, by decide +kernel, rfl⟩
theorem witness_seat_load : SeatsAt (getS (devCrew false none) 2) 1 (devCrew false none) ∧ Quiet (devCrew false none) ∧
    (aCrew false).seats[5]? = some ⟨0, 0, 0, 0, 0, false⟩ ∧ badSeat (devCrew false none).cur (((aCrew false).seats.set 5 ⟨0, 0, 0, 0, 0, false⟩).map Seat.word) = none ∧
    (aCrew false).seats[1]? = some ⟨sinkWord, 0, 0x1100, 0, 0, false⟩ :=
  ⟨by unfold SeatsAt; decide +kernel, ⟨rfl, rfl, rfl, rfl, noneLeaving rfl⟩, by decide +kernel⟩
theorem witness_queue_define : (dev 1).cur.crew = none ∧ active (dev 1) ≠ 0 ∧ (52 : VReg).toNat + (12 : BitVec 5).toNat ≤ (dev 1).cur.allot := by decide +kernel

/-- The device with one item of two slots in queue 0. -/
def devFull (c : Option Crew) : State :=
  devSeats 0 0 (fun g => { g with crew := c, queues := ⟨true, 8, 2, 1, 0, 0, 1, 0, 0⟩ :: List.replicate 15 ⟨false, 0, 0, 0, 0, 0, 0, 0, 0⟩ })

theorem queueReady_devFull : QueueReady 0 1 (devFull none) ∧ QueueReady 0 1 (devFull (some (aCrew false))) := by
  unfold QueueReady
  decide +kernel
theorem witness_queue_instructions : QueueReady (0 : BitVec 4).toNat (1 : BitVec 5).toNat (devFull none) ∧ 1 ≤ (queueOf (devFull none).cur 0).full ∧ 1 ≤ queueRoom (queueOf (devFull none).cur 0) ∧
    QueueReady (0 : BitVec 4).toNat (1 : BitVec 5).toNat (devFull (some (aCrew false))) ∧ (aCrew false).infl = [] :=
  ⟨queueReady_devFull.1, by decide +kernel, by decide +kernel, queueReady_devFull.2, rfl⟩
theorem witness_queue_wait : (queueOf (devFull none).cur 0).full < (2 : BitVec 5).toNat ∧ queueRoom (queueOf (devFull none).cur 0) < (2 : BitVec 5).toNat ∧
    (2 : BitVec 5).toNat ≤ (queueOf (devFull none).cur 0).depth ∧ (queueOf (devFull none).cur 1).valid = false ∧ (queueOf (devFull none).cur 0).depth < (3 : BitVec 5).toNat := by
  decide +kernel

/-- A seat that pops queue 0 and adds a literal to it (R298). -/
def addWord : BitVec 128 := 0x3F800000000000000000000024010D01

/-- The device with a crew whose only seat has a word and a base, one item in queue 0. -/
def devStroke (w : BitVec 128) (base : Word) : State :=
  devSeats 0 0 (fun g => { g with crew := some ⟨⟨w, 0, base, 1, 0, false⟩ :: List.replicate 31 ⟨0, 0, 0, 0, 0, false⟩, [], false, false⟩,
                                  queues := ⟨true, 8, 2, 1, 0, 0, 1, 0, 0⟩ :: List.replicate 15 ⟨false, 0, 0, 0, 0, 0, 0, 0, 0⟩ })

theorem witness_stroke_fires : wordOk addWord = true ∧ (devStroke addWord 0).cur.crew.any (fun c => !c.stopped && c.seats.all (fun x => !(isStream x))) = true ∧
    (devStroke addWord 0).cur.crew.any Crew.fresh = false ∧ (devStroke addWord 0).cur.pend = none ∧ (devStroke addWord 0).cur.request ≠ .stopped ∧ faultsIn (strokeSteps (devStroke addWord 0)).2 = [] ∧
    (firingsIn (strokeSteps (devStroke addWord 0)).2).length = 1 := by decide +kernel
theorem witness_stroke_safe : ∃ c, (devStroke addWord 0).cur.crew = some c ∧ StrokeSafe (devStroke addWord 0) c ∧ ∀ x ∈ c.seats, isStream x = false :=
  ⟨_, rfl, ⟨rfl, fun f _ => rfl, by decide +kernel⟩, by decide +kernel⟩
theorem witness_stroke_faults : ∃ f, faultsIn (strokeSteps (devStroke loadWord 0x1C0000000000000)).2 = [f] := ⟨⟨0, .translation, 1, 0x1C0000000000000, 0⟩, by decide +kernel⟩
theorem witness_stroke_stopped : (devSeats 0 0 (fun g => { g with crew := some { aCrew false with stopped := true } })).cur.crew = some { aCrew false with stopped := true } ∧
    (devSeats 0 0 id).cur.placed = true := ⟨rfl, rfl⟩
theorem witness_queue_later_stroke : ∃ c, (devSeats 0 0 (fun g => { g with crew := some (aCrew false), pidx := 3 })).cur.crew = some c ∧ c.infl = [] ∧
    (devSeats 0 0 (fun g => { g with crew := some (aCrew false), pidx := 3 })).cur.pidx ≠ 0 := ⟨_, rfl, rfl, by decide +kernel⟩
theorem witness_queue_first_stroke : (devStroke addWord 0).cur.pidx = 0 ∧ active (devStroke addWord 0) ≠ 0 ∧ (stroke (devStroke addWord 0)).cur.placed = true ∧
    (stroke (devStroke addWord 0)).cur.pend = none ∧ (stroke (devStroke addWord 0)).cur.crew.any (fun d => !d.stopped) = true ∧
    (stroke (devStroke addWord 0)).cur.pidx ≠ 0 ∧ active (stroke (devStroke addWord 0)) ≠ 0 := by decide +kernel
theorem witness_queue_first_stroke_stops : (stroke { devStroke addWord 0 with cur := { (devStroke addWord 0).cur with placed := false } }).cur.placed = false := by
  decide +kernel

/-- The device with an instruction's bytes at the group's pc, s2 at an address, and its group waiting. -/
def devCode (w : Nat) (a : Word) (wt : Option Wait) (tags : List (Nat × Bool)) : State :=
  { devWith (fun g => { g with wait := wt, arch := { g.arch with sregs := [(2, a)] } }) with mem := tsetList 0 [] 0x400 (leBytes 8 w), tags := tags }

/-- `ldt.b32 v5, [s2]` (R48). -/
def ldtWord : Nat := 0xB08080015D41
/-- `ld.b32 v5, [s2]` (R48). -/
def ldWord : Nat := 0xB00080015D41

theorem witness_wait_served : waitsTag (devCode ldtWord 0x1FF000000000010 (some (.tag true [4])) [(4, true)]).cur = true ∧
    bySince ((allGroups (devCode ldtWord 0x1FF000000000010 (some (.tag true [4])) [(4, true)])).filter waitsTag) =
      [] ++ (devCode ldtWord 0x1FF000000000010 (some (.tag true [4])) [(4, true)]).cur :: [] ∧
    (findGroup 1 (onGroup 1 (retryWith retryTag) (devCode ldtWord 0x1FF000000000010 (some (.tag true [4])) [(4, true)]))).any (fun h => h.wait.isSome) = false ∧
    (findGroup 1 (onGroup 1 (retryWith retryTag) (devCode ldtWord 0x1FF000000000010 (some (.tag true [4])) []))).any (fun h => h.wait.isSome) = true := by decide +kernel
theorem witness_retry_fetch : ∃ s1 s2, fetch (devCode ldtWord 0x1FF000000000010 none []) = (s1, .instr .always (.ldt .none false 5 ⟨2, none⟩) 8) ∧
    fetch (devCode ldWord 0x1FF000000000010 none []) = (s2, .instr .always (.ld .none .b32 5 ⟨2, none⟩) 8) :=
  ⟨_, _, pair_snd _ _ (by decide +kernel), pair_snd _ _ (by decide +kernel)⟩
theorem witness_bank_switch : ∃ s : State, (Machine.bankOf s 0 7).next = some (.scratch, s.cur.gid) ∧ s.cur.placed = true ∧ (Machine.bankOf s 0 7).mode ≠ .scratch ∧
    s.cur.wait = some (.bank 7) ∧ s.cur.fence = none :=
  ⟨{ devWith (fun g => { g with wait := some (.bank 7) }) with banks := [(7, ⟨.cache, some (.scratch, 1), 0, resetFifo⟩)] }, by decide +kernel⟩
theorem witness_fifo_transit : ∃ s : State, (Machine.bankOf s 0 1).fifo.inItems = some 7 :: [] ∧ (Machine.bankOf s 0 2).fifo.inCred = 3 :: [] ∧
    peerOf 0 (Machine.bankOf s 0 2).fifo = (0, 1) ∧ (Machine.bankOf s 0 2).mode = .fifo ∧ (Machine.bankOf s 0 2).fifo.lnk = true ∧ isConsumer (Machine.bankOf s 0 2).fifo = false ∧
    (Machine.bankOf s 0 3).fifo.left = true ∧ (Machine.bankOf s 0 3).fifo.inItems = [] ∧ (Machine.bankOf s 0 3).fifo.inCred = [] :=
  ⟨{ dev 1 with banks := [(1, ⟨.fifo, none, 0, { resetFifo with inItems := [some 7] }⟩), (2, ⟨.fifo, none, 0, { resetFifo with cfg := 0x01000804, lnk := true, inCred := [3] }⟩),
                          (3, ⟨.fifo, none, 0, { resetFifo with left := true }⟩)] }, by decide +kernel⟩

/-- Two groups of one pipe; the one that issues is the first. -/
def devTwo : State := { devCode ldWord 0x1FF000000000010 none [] with groups := [{ aGroup 1 with gid := 2, seq := 1, starved := true }], launches := [aLaunch] }

theorem witness_issue_select : (∃ g ∈ devTwo.groups, g.placed = true ∧ g.gid = 2) ∧ (devTwo.cur :: devTwo.groups).Pairwise (fun x y => x.gid ≠ y.gid) ∧
    selectable (mapGroups (fun h => if h.gid = 2 then { h with late := false } else h) devTwo) { aGroup 1 with gid := 2, seq := 1, starved := true } = true ∧
    ready devTwo { aGroup 1 with gid := 2, seq := 1, starved := true } = true ∧ ready devTwo devTwo.cur = true ∧ devTwo.cur.starved = false ∧
    ready devTwo (aGroup 0) = true ∧ ready devTwo { aGroup 1 with wait := some .fence } = false := by decide +kernel
theorem witness_preemption : savable { dev 1 with launches := [{ aLaunch with save := 0x1000 }] } 1 = true ∧ savable (dev 1) 1 = false ∧
    inGang 1 0 (aGroup 1) = true ∧ (aGroup 1).request = .none ∧ masked (aGroup 1) = false ∧ canStop (aGroup 1) = true ∧
    masked { aGroup 1 with tcause := 1#64 <<< 33 } = true ∧ canStop { aGroup 1 with wait := some .table } = false ∧
    (devWith (fun g => { g with request := .held })).cur.request = .held := by decide +kernel
theorem witness_waiting_trap : ∃ s : State, s.cur.pend = some ⟨.poison, 1, 1, 0, 0⟩ ∧ s.cur.passes = none ∧ TrapReady s ∧ s.cur.placed = true :=
  ⟨devWith (fun g => { g with pend := some ⟨.poison, 1, 1, 0, 0⟩ }), rfl, rfl, ⟨rfl, rfl, rfl, by decide +kernel⟩, rfl⟩
theorem witness_waiting_trap_fence : (devFence []).cur.fence ≠ none ∧ ¬ ((⟨.arithmetic, 1, 1, 0, 0⟩ : TrapInfo).cause = .poison ∧ (⟨.arithmetic, 1, 1, 0, 0⟩ : TrapInfo).sub = 1) := by
  decide +kernel

/-- A copy of line 16 of device memory, whose page is at physical address 0x20000. -/
def aLineCopy (client : Nat) (kind : CopyKind) (r w : LineMask) : Copy := ⟨client, 16, 0x20000, kind, r, w, 0, 0, 0, false, 0⟩

/-- The device with copies. -/
def devCopies (xs : List Copy) : State := { dev 1 with copies := xs }

theorem homeAt_devCopies (xs : List Copy) : HomeAt 0x20010 16 (devCopies xs) :=
  ⟨⟨0x810, (by decide +kernel : homeCell (aRegion :: List.replicate 15 0) 0x20010 = some 0x810), rfl, rfl, fun c hc => absurd hc List.not_mem_nil⟩, rfl, rfl⟩

theorem witness_own_access : HomeAt 0x20010 16 (devCopies [aLineCopy 3 .held 1 0]) ∧ notKept 16 (devCopies [aLineCopy 3 .held 1 0]) = false ∧
    CanKeep 0 (devCopies [aLineCopy 3 .held 1 0]) ∧ CanKeep 384 (devCopies []) ∧ recorded 16 (devCopies []) = [] :=
  ⟨homeAt_devCopies _, by decide +kernel, Or.inr (by decide +kernel), Or.inl rfl, by decide +kernel⟩
theorem witness_home_loads : (∀ c ∈ (devCopies [aLineCopy 3 .held 1 0]).copies, c.client = 0 → c.line = 16 → c.kind ≠ .held) ∧ holders 16 (devCopies []) = [] ∧
    holders 16 (devCopies [aLineCopy 3 .held 1 0]) ≠ [] ∧ copyOf 0 16 (devCopies []) = none ∧
    (aLineCopy 0 .shared 1 0).kind = .shared ∧ copyOf 0 16 (devCopies [aLineCopy 0 .shared 1 0]) = some (aLineCopy 0 .shared 1 0) ∧ copyOf 0 16 (devCopies [aLineCopy 0 .held 1 0]) = some (aLineCopy 0 .held 1 0) ∧
    notKept 16 (devCopies []) = false := by decide +kernel
theorem witness_copy_leaves : HomeAt 0x20010 16 (devCopies [aLineCopy 3 .held 1 0]) ∧ copyOf 3 16 (devCopies [aLineCopy 3 .held 1 0]) = some (aLineCopy 3 .held 1 0) ∧
    copyOf 3 16 (devCopies []) = none ∧ recorded 16 (devCopies [aLineCopy 3 .held 1 0]) = [aLineCopy 3 .held 1 0] := ⟨homeAt_devCopies _, by decide +kernel⟩
theorem witness_untracked : HomeAt 0x20010 16 (devCopies [aLineCopy 3 .shared 1 0]) ∧ (3 : LineMask) ≠ 0 ∧ meetsPoison (devCopies [aLineCopy 3 .shared 1 0]) 0x20010 16 3 = false ∧
    meetsPoison (devCopies []) 0x20010 16 0 = false := ⟨homeAt_devCopies _, by decide +kernel⟩
theorem witness_host : HomeAt 0x20010 16 (devCopies [aLineCopy 384 .held 1 0]) ∧ meetsPoison (devCopies [aLineCopy 384 .held 1 0]) 0x20010 16 1 = false ∧
    copyOf 384 16 (devCopies [aLineCopy 384 .held 1 0]) = some (aLineCopy 384 .held 1 0) ∧ (1 : LineMask) &&& ~~~((1 : LineMask) ||| 0) = 0 ∧
    (2 : LineMask) &&& ~~~((1 : LineMask) ||| 0) ≠ 0 ∧ notKept 16 (devCopies []) = false ∧ CleanLine 16 (devCopies [aLineCopy 384 .held 1 0]) ∧ atomOk .add .i64 = true ∧
    0x20010 % (tyBits .i64 / 8) = 0 ∧ hostHolds 0x20010 1 (devCopies [aLineCopy 384 .held 1 0]) = some (aLineCopy 384 .held 1 0) ∧
    hostHolds 0x20010 2 (devCopies [aLineCopy 384 .held 1 0]) = none ∧
    (∀ x ∈ (devCopies [aLineCopy 384 .held 1 0]).copies, x.client = 384 → (x.pa = 0x20010 / 128 * 128 ↔ x.line = 16) ∧
      ∀ y ∈ (devCopies [aLineCopy 384 .held 1 0]).copies, y.client = 384 → y.line = x.line → y = x) ∧
    meetsPoison (devCopies []) 0x20010 16 (maskRange (0x20010 % 128) 8) = false :=
  ⟨homeAt_devCopies _, by decide +kernel, by decide +kernel, by decide +kernel, by decide +kernel, by decide +kernel, by unfold CleanLine; decide +kernel, by decide +kernel⟩

/-- The device with connection group 2 up, of a partition. -/
def devPeer (p : Nat) : State := { dev 1 with conns := (List.replicate 96 newConn).set 2 { newConn with state := 2, part := p, lanes := 8 } }

theorem peerOpen_devPeer : PeerOpen 2 { newConn with state := 2, part := 0, lanes := 8 } (devPeer 0) ∧ PeerOpen 2 { newConn with state := 2, part := 3, lanes := 8 } (devPeer 3) := by
  unfold PeerOpen
  decide +kernel

theorem witness_peer : InPart 0x20010 0 (devPeer 0) ∧ HomeAt 0x20010 16 (devPeer 0) ∧ meetsPoison (devPeer 0) 0x20010 16 1 = false ∧
    CleanLine 16 (devPeer 0) ∧ ∃ e, regionAt (devPeer 3).regions 0x20010 = some e ∧ regionPart e ≠ 3 :=
  ⟨⟨aRegion, by decide +kernel, by decide +kernel⟩, homeAt_devCopies [], by decide +kernel, by unfold CleanLine; decide +kernel, ⟨aRegion, by decide +kernel, by decide +kernel⟩⟩
theorem witness_no_region : homeCell (dev 1).regions 0x900000 = none ∧ (homeCell (dev 1).regions 0x20010).isSome = true := by decide +kernel

/-- The device with line 16 in way 2 of its L2 slice, and errors that no read has found. -/
def devL2 (dirty : BitVec 4) (xs : List LatentError := []) : State := { dev 1 with l2 := [⟨16, 2, 15, dirty, 0, false⟩], latent := xs }

theorem witness_errors_come_up : homeCell (devL2 0).regions 0x20010 = some 0x810 ∧ (∀ x ∈ (devL2 0).latent, x.sector ≠ 4 * 16 + 1) ∧
    (∃ e ∈ (devL2 0).l2, e.line = 16 ∧ e.valid.getLsbD 1 = true) ∧ ∀ e ∈ (dev 1).l2, e.line = 16 → e.valid.getLsbD 1 = false :=
  ⟨by decide +kernel, by decide +kernel, ⟨⟨16, 2, 15, 0, 0, false⟩, by decide +kernel⟩, by decide +kernel⟩
theorem witness_errors : HomeOpen 0x20010 16 (devL2 2 [⟨65, 0x20000, false, false⟩]) ∧ (devL2 2 [⟨65, 0x20000, false, false⟩]).found = [] ∧
    (devL2 2 [⟨65, 0x20000, false, false⟩]).latent = [⟨4 * 16 + 1, 0x20010 / 128 * 128, false, false⟩] ∧
    (devL2 0).l2.find? (fun e => e.line = 16) = some ⟨16, 2, 15, 0, 0, false⟩ ∧ CleanLine 16 (devL2 0) ∧ (l2Ways (devL2 0) 16).filter (fun w => w ≠ 2) ≠ [] ∧
    l2Ways (devL2 0) 16 ≠ [] ∧ (devL2 2).l2.find? (fun e => e.line = 16) = some ⟨16, 2, 15, 2, 0, false⟩ ∧ (2 : BitVec 4).getLsbD 1 = true :=
  ⟨(homeAt_devCopies []).1, by decide +kernel, by decide +kernel, by decide +kernel, by unfold CleanLine; decide +kernel, by decide +kernel⟩

/-- The device with a reduction window of `.n32` sums over its first MiB (R415), and open entries. -/
def devWindow (es : List RedEntry) : State := { dev 1 with windows := 0x00000000000001000000000000000071 :: List.replicate 15 0, redUnit := es }

theorem witness_reduction_merge : merges (devWindow []) 0x20010 .add .n32 = true ∧ (∀ e ∈ (devWindow []).redUnit, e.pa ≠ 0x20010) ∧ (devWindow []).redUnit.length < 4096 ∧
    (devWindow [⟨0x20010, some 0x810, .add, .n32, 5, 1, 0, [], true, 0, true⟩]).redUnit.find? (fun e => e.pa = 0x20010) = some ⟨0x20010, some 0x810, .add, .n32, 5, 1, 0, [], true, 0, true⟩ := by decide +kernel
theorem witness_reduction_unit : redOk .add .n32 = true ∧ 0x20010 % (tyBits .n32 / 8) = 0 ∧ merges (dev 1) 0x20010 .add .n32 = false ∧
    HomeAt 0x20010 (0x810 / 128) (dev 1) ∧ 0x810 % 128 = 0x20010 % 128 ∧ CleanLine (0x810 / 128) (dev 1) ∧ NoMerged (dev 1) ∧
    meetsPoison (dev 1) 0x20010 (0x810 / 128) (maskRange (0x20010 % 128) 4) = false ∧ (dev 1).retired.contains (0x20010 / 65536) = false ∧
    (devWindow [⟨0x20010, some 0x810, .add, .n32, 5, 1, 0, [], true, 0, true⟩]).redUnit.filter (fun e => e.pa = 0x20010) = [⟨0x20010, some 0x810, .add, .n32, 5, 1, 0, [], true, 0, true⟩] :=
  ⟨by decide +kernel, by decide +kernel, by decide +kernel, homeAt_devCopies [], by decide +kernel, by unfold CleanLine; decide +kernel,
    by unfold NoMerged; decide +kernel, by decide +kernel⟩
theorem witness_window_write : FlushClear 0 (devWindow [⟨0x20010, some 0x810, .add, .n32, 5, 1, 0, [], true, 0, true⟩]) ∧
    windowAt (devWindow []) 0x20010 = (devWindow []).windows[0]? ∧ NoMerged (devWindow []) ∧ NoErrors (devWindow []) ∧
    (∀ c ∈ (devWindow []).copies, c.client ≠ 384) := by
  refine ⟨⟨rfl, by decide +kernel, ?_, fun d hd e he h => absurd ((List.mem_singleton.mp hd).trans (List.mem_singleton.mp he).symm ▸ rfl) h⟩, by decide +kernel, by unfold NoMerged; decide +kernel, by unfold NoErrors; decide +kernel, by decide +kernel⟩
  intro e he _
  rw [List.mem_singleton.mp he]
  exact ⟨0x810, by decide +kernel⟩
theorem witness_host_acknowledgement : CoxAtRest (dev 1) ∧ (aLineCopy 384 .held 1 0).pa = 0x20010 / 128 * 128 ∧ (∀ x ∈ (dev 1).hostAcks, x.pa ≠ 0x20010 / 128 * 128) ∧
    ({ dev 1 with halted := true } : State).halted = true ∧ State.reset.boot ≠ .ready := by
  unfold CoxAtRest; decide +kernel
theorem witness_peer_block : recordFmt .e4m3 = true ∧ recordFmt .e2m1 = true ∧ slotAligned .e4m3 (BitVec.ofNat 57 0x20021) = true ∧ recordFmt .i32 = false ∧
    slotAligned .e4m3 (BitVec.ofNat 57 0x20022) = false ∧ meetsPoison (devPeer 0) 0x20021 16 (maskRange (0x20021 % 128) (recordBytes .e4m3)) = false ∧
    homeCell (devPeer 0).regions 0x20021 = some (128 * 16 + 0x20021 % 128) ∧ InPart 0x20021 0 (devPeer 0) :=
  ⟨by decide +kernel, by decide +kernel, by decide +kernel, by decide +kernel, by decide +kernel, by decide +kernel, by decide +kernel, aRegion, by decide +kernel, by decide +kernel⟩
theorem witness_peer_drains : PeerOpen 2 { newConn with state := 3, part := 0, lanes := 8 }
    { dev 1 with conns := (List.replicate 96 newConn).set 2 { newConn with state := 3, part := 0, lanes := 8 } } := by
  unfold PeerOpen; decide +kernel
theorem witness_machine_check : (dev 1).mcWptr - (dev 1).mcCons ≠ 1024 ∧ ({ dev 1 with mcWptr := 1024 } : State).mcWptr - (dev 1).mcCons = 1024 ∧
    (dev 1).heldWrites = [] ∧ (dev 1).commitPend = false ∧ (dev 1).hostAcks = [] ∧ (partOf (dev 1) 0).replay = false ∧ (devCommit 0).commitPend = true := by decide +kernel

theorem witness_gang_save : ∃ l x, ({ devWith (fun g => { g with request := .stopped }) with launches := [aLaunch] } : State).launches.find? (fun y => y.id = l.id) = some l ∧
    l.cor = false ∧ l.spans.filter (fun y => y.st == .placed && y.num = x.num) = [x] ∧
    (allGroups { devWith (fun g => { g with request := .stopped }) with launches := [aLaunch] }).filter (inGang l.id x.num) ≠ [] ∧
    (∀ g ∈ allGroups { devWith (fun g => { g with request := .stopped }) with launches := [aLaunch] }, inGang l.id x.num g = true → g.request = .stopped ∧ g.posted = []) ∧
    (allGroups { dev 1 with launches := [aLaunch] }).any (fun g => inGang l.id x.num g && !(g.request == .stopped)) = true :=
  ⟨aLaunch, ⟨0, 0, .placed, 0, [], false⟩, by decide +kernel⟩
/-- The device with a stopped gang, whose team has no engine operation. -/
def devStopped : State := { devWith (fun g => { g with request := .stopped }) with launches := [aLaunch] }

theorem saveReady_devStopped : SaveReady aLaunch ⟨0, 0, .placed, 0, [], false⟩ devStopped ∧ ∀ g ∈ devStopped.cur :: devStopped.groups, g.request ≠ .pending := by
  refine ⟨⟨by decide +kernel, ⟨rfl, rfl⟩, by decide +kernel, fun c hc => absurd hc (by simp [devStopped, devWith, dev, State.reset]), fun tm _ _ _ =>
    ⟨fun k hk => absurd hk (by simp [devStopped, devWith, dev, State.reset]), fun c hc => absurd hc (by simp [devStopped, devWith, dev, State.reset])⟩⟩, by decide +kernel⟩
theorem witness_record_in_host_window : ∀ i m, i < 3 →
    translate (coxWho 1 0) .store (0x180000000000040 + BitVec.ofNat 57 i) { dev 1 with tlb1 := someTlb.map (fun e => (385, e.2)), hostMem := m } =
      ({ dev 1 with tlb1 := someTlb.map (fun e => (385, e.2)), hostMem := m }, .ok (.host (0x50040 + i))) := by
  intro i m hi
  have h : i = 0 ∨ i = 1 ∨ i = 2 := by omega
  rcases h with rfl | rfl | rfl <;> rfl
theorem witness_group_record : (aGroup 1).shadow.sregs.length = 8 ∧ (aGroup 1).arch.stack.length ≤ 32 ∧ (aGroup 1).queues.length = 16 ∧ (aGroup 1).crew = none := by decide +kernel

/-- The device with a group of no live lane; and without a group, its team alone. -/
def devDone : State := devWith (fun g => { g with arch := { g.arch with live := 0, em := 0 } })
/-- The team alone. -/
def devAlone : State := { dev 1 with cur := noGroup, launches := [aLaunch] }

theorem witness_retirement : canRetire devDone.cur = true ∧ devDone.cur.posted = [] ∧ (dev 1).cur.arch.live ≠ 0 ∧ teamAt devAlone 0 0 = some aTeam ∧ teamReady devAlone aTeam = true ∧
    teamReady (dev 1) aTeam = false := by decide +kernel

/-- The device with queue 0 changed. -/
def devQ (f : Queue → Queue) : State := { dev 1 with queues := f newQueue :: List.replicate 31 newQueue }

theorem witness_queue_registers : (devQ id).queues.length = 32 ∧ (devQ id).parts.length = 8 ∧ (queueAt (devQ id) 0).part < 8 ∧ (queueAt (devQ id) 0).state ≠ 3 ∧
    (queueAt (devQ id) 0).submit ≤ (7 : Word).toNat % 2 ^ 48 ∧ (7 : Word).toNat % 2 ^ 48 ≤ (queueAt (devQ id) 0).cpl + 2 ^ (queueAt (devQ id) 0).size ∧
    (queueAt (devQ id) 0).cpl + 2 ^ (queueAt (devQ id) 0).size < (99 : Word).toNat % 2 ^ 48 ∧ (queueAt (devQ (fun k => { k with state := 3 })) 0).state = 3 ∧
    (0x2004 : Word).getLsbD 13 = true ∧ 1 ≤ (0x2004 : Word).toNat % 2 ^ 5 ∧ (0x2004 : Word).toNat % 2 ^ 5 ≤ 16 ∧ (devQ id).boot = .ready ∧ (queueAt (devQ id) 0).kept = [] ∧
    (0x2000 : Word).toNat % 2 ^ 5 = 0 ∧ (queueAt (devQ (fun k => { k with en := true })) 0).en = true ∧ (4 : Word).getLsbD 13 = false := by decide +kernel

/-- The device with a packet of some words at the head of queue 0, whose ring is in host memory; ASID 1 has an entry, and the Cox has its
pages 0 and the host page in its TLB; a kernel header stands at address 0 (R230). -/
def devPacket (n : Nat) (ws : List Word) (f : Queue → Queue := id) : State :=
  { devQ (fun k => f { k with host := true, asid := 1, en := true, state := 1, submit := n }) with
    hostMem := tsetList 0 [] 0 (ws.flatMap (fun w => leBytes 8 w.toNat)),
    mem := tsetList 0 [(16, 1)] 0x400 (leBytes 8 0x4B480001 ++ leBytes 8 0 ++ leBytes 8 1),
    tlb1 := someTlb ++ someTlb.map (fun e => (385, e.2)) }

/-- The units of the packet at the head of queue 0. -/
def headUnits (n : Nat) (s : State) : State × List Byte :=
  let r := readUnits (queueAt s 0) n (queueAt s 0).next s
  (r.1, r.2.getD [])
/-- Nothing of them waits to be read. -/
def headReads (n : Nat) (s : State) : Bool := (readUnits (queueAt s 0) n (queueAt s 0).next s).2.isSome
/-- Their words. -/
def headWords (n : Nat) (s : State) : List Word := wordsFrom (8 * n) (headUnits n s).2

/-- What the taking of a packet asks, as a check. -/
def takes (n : Nat) (s : State) : Bool :=
  let k := queueAt s 0
  (decide (s.queues.length = 32) && k.en && decide (k.state = 1) && !k.refused && headReads 1 s && headReads n s) &&
  decide (k.next < k.submit ∧ k.next + n ≤ k.submit ∧ n ≤ 2 ^ k.size ∧ k.next % 2 ^ k.size + n ≤ 2 ^ k.size) &&
  decide ((headUnits 1 s).1.queues = s.queues ∧ (pword (wordsFrom 1 (headUnits 1 s).2) 0).toNat / 2 ^ 4 % 2 ^ 2 + 1 = n) &&
  !(badPacket k.admin (headWords n s) n) && k.pkts.all (fun p => p.seq != k.next) && decide ((headUnits n s).1.queues = s.queues)

theorem packetTaken_of_takes (n : Nat) (s : State) (h : takes n s = true) : PacketTaken 0 n (headWords n s) (headUnits n s).2 s (headUnits n s).1 := by
  have read : ∀ m, headReads m s = true → readUnits (queueAt s 0) m (queueAt s 0).next s = ((headUnits m s).1, some (headUnits m s).2) := by
    intro m hm
    obtain ⟨bs, hb⟩ := Option.isSome_iff_exists.mp hm
    exact Prod.ext rfl (by simp [headUnits, hb])
  simp only [takes, Bool.and_eq_true, decide_eq_true_eq, Bool.not_eq_true', List.all_eq_true, bne_iff_ne] at h
  obtain ⟨⟨⟨⟨⟨⟨⟨⟨⟨⟨h1, h2⟩, h3⟩, h4⟩, h5⟩, h0⟩, h6, h7, h8, h9⟩, h10, h11⟩, h12⟩, h13⟩, h14⟩ := h
  exact ⟨⟨by decide, h1, h2, h3, h4⟩, h6, h7, h8, h9, ⟨_, _, read 1 h5, h10, h11⟩, read n h0, rfl, h12, h13, h14⟩

/-- Headers: CONFIG of pipeline 3; BIND of one stream for pipeline 3; WAIT for 5 at an address; SIGNAL of 7 there; LAUNCH; TIMED. -/
def configWords : List Word := [3, 3, 9, 0x40000]
/-- A BIND of one sink stream. -/
def bindWords : List Word := [2, 0, 0x1000, 0x26000000004]
/-- A WAIT that the 8 bytes at an address equal 5. -/
def waitWords (a : Word) : List Word := [4, a, 5, 1]
/-- A SIGNAL that adds 7. -/
def signalWords (a : Word) : List Word := [5, a, 7, 1]
/-- A LAUNCH of one group on die 0 under an ASID. -/
def launchWords (asid : Word) : List Word := [1, 64, 0, 0x80000, asid, 0, 0, 0]

theorem witness_pad : takes 1 (devPacket 1 []) = true ∧ kindOf (headWords 1 (devPacket 1 [])) = 0 := by decide +kernel
theorem witness_config : takes 1 (devPacket 1 configWords) = true ∧ kindOf (headWords 1 (devPacket 1 configWords)) = 3 := by decide +kernel
theorem witness_bind : takes 1 (devPacket 1 bindWords) = true ∧ kindOf (headWords 1 (devPacket 1 bindWords)) = 2 ∧
    (∀ x ∈ ((bindEntries (headWords 1 (devPacket 1 bindWords)) 4).take 1).map streamFields,
      (queueAt (devPacket 1 bindWords (fun k => { k with pipes := [⟨3, 0, 0, 0, 0, 0, 1⟩] })) 0).pipes.any (fun e => e.pipe == x.pipe) = true ∧
      (queueAt (devPacket 1 bindWords) 0).pipes.any (fun e => e.pipe == x.pipe) = false) := by decide +kernel

/-- A packet after it is taken. -/
def accepted (n : Nat) (s : State) : State := acceptPkt 0 n (headUnits n s).2 (headUnits n s).1
/-- The condition of the WAIT at the head. -/
def headWait (s : State) : State × Option Bool :=
  checkWait 0 0 (pword (headWords 1 s) 1, pword (headWords 1 s) 2, (pword (headWords 1 s) 3).toNat % 2 ^ 4) (accepted 1 s)

theorem witness_wait : takes 1 (devPacket 1 (waitWords 0x180000000000100)) = true ∧ kindOf (headWords 1 (devPacket 1 (waitWords 0x180000000000100))) = 4 ∧
    (headWait (devPacket 1 (waitWords 0x180000000000100))).2 = some false ∧ (headWait (devPacket 1 (waitWords 0x180000000000100))).1.queues =
      (setQueue 0 (fun k => { k with seen := 0 }) (accepted 1 (devPacket 1 (waitWords 0x180000000000100)))).queues ∧
    (headWait (devPacket 1 (waitWords 0x1FF000000000000))).2 = none ∧ (headWait (devPacket 1 [4, 0, 0, 5])).2 = some true := by decide +kernel
theorem witness_wait_again : ∃ s : State, (queueAt s 0).waits = some (0, 5, 5) ∧ (queueAt s 0).state = 2 ∧ (checkWait 0 ((queueAt s 0).next - 1) (0, 5, 5) s).2 = some false ∧
    (checkWait 0 ((queueAt s 0).next - 1) (0, 5, 5) s).1.queues = s.queues ∧ s.queues.length = 32 ∧ (checkWait 0 0 (0, 0, 5) s).2 = some true :=
  ⟨devQ (fun k => { k with en := true, state := 2, waits := some (0, 5, 5), next := 1, submit := 1 }), by decide +kernel⟩
theorem witness_wait_target : ∃ s2, coxTarget (queueAt (devPacket 1 []) 0) .load 0x180000000000100 (devPacket 1 []) = (s2, .ok (.host 0x50100)) :=
  ⟨_, pair_snd _ _ (by decide +kernel)⟩

/-- The SIGNAL at the head handed on: it is pending, and has still to act. -/
def handed (s : State) : State :=
  setQueue 0 (fun k => { k with pkts := k.pkts.map (fun p => if p.seq = 0 then { p with signal := some ((pword (headWords 1 s) 3).toNat % 4, pword (headWords 1 s) 1, (pword (headWords 1 s) 2).toNat) } else p) }) (accepted 1 s)
/-- The target of the SIGNAL at the head. -/
def headSignal (s : State) : State × Xlat := coxTarget (queueAt s 0) .atomic (pword (headWords 1 s) 1) (handed s)

theorem witness_signal : takes 1 (devPacket 1 (signalWords 0x180000000000100)) = true ∧ kindOf (headWords 1 (devPacket 1 (signalWords 0x180000000000100))) = 5 ∧
    (headSignal (devPacket 1 (signalWords 0x180000000000100))).2 = .ok (.host 0x50100) ∧
    (headSignal (devPacket 1 (signalWords 0x180000000000100))).1.hostAcks = [] ∧ (headUnits 1 (devPacket 1 (signalWords 0))).1.heldWrites = [] ∧
    (headSignal (devPacket 1 (signalWords 0x180000000000100))).1.heldWrites = [] ∧
    (headSignal (devPacket 1 (signalWords 0x180000000000100))).1.queues = (handed (devPacket 1 (signalWords 0x180000000000100))).queues ∧
    (headSignal (devPacket 1 (signalWords 0x1FF000000000000))).2 = .fault 1 ∧ (headUnits 1 (devPacket 1 (signalWords 0))).1.hostAcks = [] ∧
    (headUnits 1 (devPacket 1 (signalWords 0))).1.redUnit = [] := by decide +kernel

/-- The launch of the packet at the head and the answer to its checks. -/
def headLaunch (s : State) : Launch := launchOf 0 0 0 s.gids none (headWords 1 s)

theorem witness_launch : takes 1 (devPacket 1 (launchWords 1)) = true ∧ kindOf (headWords 1 (devPacket 1 (launchWords 1))) = 1 ∧
    (checkLaunch (headLaunch (devPacket 1 (launchWords 1))) (accepted 1 (devPacket 1 (launchWords 1)))).2 = some none ∧
    (checkLaunch (headLaunch (devPacket 1 (launchWords 1))) (accepted 1 (devPacket 1 (launchWords 1)))).1.queues = (accepted 1 (devPacket 1 (launchWords 1))).queues ∧
    (asidEntry (headLaunch (devPacket 1 (launchWords 2))).asid 0 (accepted 1 (devPacket 1 (launchWords 2)))).2 = some false ∧
    (asidEntry (headLaunch (devPacket 1 (launchWords 1))).asid 0 (accepted 1 (devPacket 1 (launchWords 1)))).2 = some true ∧
    takes 1 { devPacket 1 (launchWords 1) with commitPend := true } = true ∧
    (checkLaunch (headLaunch (devPacket 1 (launchWords 1))) (accepted 1 { devPacket 1 (launchWords 1) with commitPend := true })).2 = none ∧
    (launchOf 0 0 0 0 none [1, 60, 0, 0x80000, 1]).entry.toNat % 64 ≠ 0 := by decide +kernel
/-- A co-resident LAUNCH of nine clusters of twelve cores on die 0, which has 96. -/
def bigWords : List Word := [1, 64, 0, 0x40000088160, 1, 0, 0, 0]

theorem witness_launch_not_coresidable : shapeOk (headLaunch (devPacket 1 bigWords)) = true ∧ (headLaunch (devPacket 1 bigWords)).cor = true ∧
    diesOk (asidEntry 1 0 (accepted 1 (devPacket 1 bigWords))).1 (headLaunch (devPacket 1 bigWords)) = true ∧
    ((readHeader true 1 0 64 (asidEntry 1 0 (accepted 1 (devPacket 1 bigWords))).1).2.bind id).any (headerFits (headLaunch (devPacket 1 bigWords))) = true ∧
    spansFit (accepted 1 (devPacket 1 bigWords)) (headLaunch (devPacket 1 bigWords)) = false ∧
    (checkLaunch (headLaunch (devPacket 1 bigWords)) (accepted 1 (devPacket 1 bigWords))).2 = some (some 3) := by decide +kernel
theorem witness_timed : takes 2 (devPacket 2 ([0x16, 1000, 10, 0, 0, 0, 0, 0] ++ launchWords 1)) = true ∧
    kindOf (headWords 2 (devPacket 2 ([0x16, 1000, 10, 0, 0, 0, 0, 0] ++ launchWords 1))) = 6 ∧ inStakeboat (devPacket 2 ([0x16, 1000, 10, 0, 0, 0, 0, 0] ++ launchWords 1)) < 64 := by
  decide +kernel
theorem witness_queue_faults : IsPacket 0 (.padPkt 0) ∧ (queueAt (devQ id) 0).en = false ∧ (queueAt (devPacket 1 [0x30]) 0).next < (queueAt (devPacket 1 [0x30]) 0).submit ∧
    2 ^ (queueAt (devPacket 1 [0x30] (fun k => { k with size := 1 })) 0).size < (pword (wordsFrom 1 (headUnits 1 (devPacket 1 [0x30])).2) 0).toNat / 2 ^ 4 % 2 ^ 2 + 1 ∧
    (queueAt (devPacket 1 [0x30]) 0).submit < (queueAt (devPacket 1 [0x30]) 0).next + 4 ∧ (headUnits 1 (devPacket 1 [0x30])).1.queues = (devPacket 1 [0x30]).queues ∧
    badPacket false (headWords 1 (devPacket 1 [8])) 1 = true := ⟨Or.inl rfl, by decide +kernel⟩
theorem witness_ring_end : ∃ k : Queue, 4 ≤ 2 ^ k.size ∧ k.next + 4 ≤ k.submit ∧ 2 ^ k.size < k.next % 2 ^ k.size + 4 := ⟨{ newQueue with next := 14, submit := 18 }, by decide +kernel⟩

/-- The device with a launch whose span waits; and one that fits nowhere. -/
def devWaiting (h : Nat) : State := { devAlone with teams := [], launches := [{ aLaunch with queue := 0, h := h, spans := [⟨0, 0, .waiting, 0, [], false⟩] }] }

theorem witness_placement : coxIdle (devWaiting 1) = true ∧ (devWaiting 1).launches.Pairwise (fun y z => y.id ≠ z.id) ∧ coxIdle { dev 1 with commitPend := true } = false ∧ (devWaiting 1).latent = [] ∧ (devWaiting 1).found = [] ∧
    candidates (dev 1) 0 = [] ∧ (∃ c, candidates (devWaiting 1) 0 = [c] ∧ c.launch = 1 ∧ c.spans.contains 0 = true) ∧
    packSpan (devWaiting 1) { aLaunch with queue := 0, h := 1, spans := [⟨0, 0, .waiting, 0, [], false⟩] } ⟨0, 0, .waiting, 0, [], false⟩ = some [[0]] ∧
    packSpan (devWaiting 9) { aLaunch with queue := 0, h := 9, spans := [⟨0, 0, .waiting, 0, [], false⟩] } ⟨0, 0, .waiting, 0, [], false⟩ = none :=
  ⟨by decide +kernel, by decide +kernel, by decide +kernel, rfl, rfl, by decide +kernel, ⟨⟨1, [0], 0⟩, by decide +kernel⟩, by decide +kernel, by decide +kernel⟩
theorem witness_timed_launch : ∃ s : State, ∃ l, s.launches.find? (fun x => x.id = 1 && x.held) = some l ∧ l.timed = some (1000, 10) ∧ (partOf s l.part).record = false :=
  ⟨{ dev 1 with launches := [{ aLaunch with timed := some (1000, 10), held := true, started := false }] }, _, rfl, rfl, rfl⟩
theorem witness_timed_start : ∃ s : State, ∃ l, s.launches.find? (fun x => x.id = 1 && !x.started && !x.held) = some l ∧ l.timed = some (1000, 10) :=
  ⟨{ dev 1 with launches := [{ aLaunch with timed := some (1000, 10), started := false }] }, _, rfl, rfl⟩
theorem witness_queue_reset : (queueAt (devPacket 1 []) 0).host = true ∧ (devPacket 1 []).heldWrites = [] ∧ (devPacket 1 []).hostAcks = [] := by decide +kernel
theorem witness_signal_waits : takes 1 { devPacket 1 (signalWords 0) with hostAcks := [aLineCopy 384 .held 1 0] } = true ∧
    (headUnits 1 { devPacket 1 (signalWords 0) with hostAcks := [aLineCopy 384 .held 1 0] }).1.hostAcks ≠ [] ∧
    (headUnits 1 { devPacket 1 (signalWords 0) with hostAcks := [aLineCopy 384 .held 1 0] }).1.redUnit = [] := by decide +kernel
theorem witness_status_held : ({ devPacket 1 [] with heldWrites := [.release] } : State).heldWrites ≠ [] ∧ takes 1 { devPacket 1 [] with heldWrites := [.release] } = true ∧
    (partOf (devPacket 1 []) 0).replay = false ∧ (partOf (devPacket 1 []) 0).record = false := by decide +kernel
theorem witness_unit_waits : (queueAt (devQ (fun k => { k with en := true, state := 1, submit := 1 })) 0).host = false ∧
    coxWaits { devQ (fun k => { k with en := true, state := 1, submit := 1 }) with commitPend := true } 0 = true := by decide +kernel

/-- An administrative queue with a PART packet at its head, for partition 1. -/
def devPart (n : Nat) (ws : List Word) : State := devPacket n ws (fun k => { k with admin := true })

/-- A PART packet is taken, as a check. -/
def takesPart (op n : Nat) (s : State) : Bool :=
  takes n s && decide (kindOf (headWords n s) = 7 ∧ (pword (headWords n s) 1).toNat % 2 ^ 3 = op ∧ (pword (headWords n s) 1).toNat / 2 ^ 4 % 2 ^ 3 = 1 ∧
    (headUnits n s).1.parts.length = 8)

theorem partTaken_of_takesPart (op n : Nat) (s : State) (h : takesPart op n s = true) : PartTaken 0 op 1 n (headWords n s) s (accepted n s) := by
  simp only [takesPart, Bool.and_eq_true, decide_eq_true_eq] at h
  exact ⟨_, _, packetTaken_of_takes n s h.1, rfl, h.2.1, h.2.2.1, h.2.2.2.1.symm, h.2.2.2.2⟩

/-- DEFINE of engine 5 alone, which is idle, and of core 0, where the group runs, which is not. -/
def defineWords (cores engines : Word) : List Word := [0x27, 0x10, 0x1000, 0x2000, 0x3000, 0x400, 0, 0, cores, 0, 0, 0, 0, 0, engines]

theorem witness_define : takesPart 0 3 (devPart 3 (defineWords 0 0x20)) = true ∧ takesPart 0 3 (devPart 3 (defineWords 1 0)) = true ∧
    allIdle (accepted 3 (devPart 3 (defineWords 0 0x20))) 1 [] [] [5] [] = true ∧ allIdle (accepted 3 (devPart 3 (defineWords 1 0))) 1 [0] [] [] [] = false := by decide +kernel
theorem witness_no_errors_define : (accepted 3 (devPart 3 (defineWords 0 0x20))).latent = [] ∧ (accepted 3 (devPart 3 (defineWords 0 0x20))).found = [] := by decide +kernel
theorem witness_set_dissolve : takesPart 1 1 (devPart 1 [7, 0x11, 2000, 0x1408]) = true ∧ takesPart 3 1 (devPart 1 [7, 0x13]) = true ∧
    allIdle (accepted 1 (devPart 1 [7, 0x13])) 0 [] [] [] [] = true ∧
    takesPart 3 1 { devPart 1 [7, 0x13] with coreOwner := [(0, 1)] } = true ∧ allIdle (accepted 1 { devPart 1 [7, 0x13] with coreOwner := [(0, 1)] }) 0 [0] [] [] [] = false := by decide +kernel
theorem witness_recovery : takesPart 2 1 (devPart 1 [7, 0x12]) = true ∧ takesPart 4 1 (devPart 1 [7, 0x14, 1]) = true ∧ takesPart 5 1 (devPart 1 [7, 0x15, 1]) = true ∧
    takesPart 6 1 (devPart 1 [7, 0x16, 1]) = true ∧ (accepted 1 (devPart 1 [7, 0x14, 1])).launches.Pairwise (fun x y => x.id ≠ y.id) ∧ (accepted 1 (devPart 1 [7, 0x12])).latent = [] ∧
    (accepted 1 (devPart 1 [7, 0x12])).found = [] := by decide +kernel

/-- A partition 0 with its controls changed. -/
def devParts (f : Part → Part) : State := { dev 1 with parts := f newPart :: List.replicate 7 newPart, launches := [{ aLaunch with save := 0x1000 }] }

/-- A ring of the recorder whose record has a kind, an index and a length. -/
def devRing (kind idx n : Nat) : State :=
  { devParts (fun p => { p with replay := true, recBase := 0, recSize := 4096 }) with
    hostMem := tsetList 0 [] 0 (leBytes 8 (kind + 2 ^ 8 * idx + 2 ^ 16 * n)), queues := { newQueue with en := true, host := true, state := 1 } :: List.replicate 31 newQueue }

theorem witness_watchdog_replay : (devParts (fun p => { p with watchdog := 5 })).cur.placed = true ∧
    ((devParts (fun p => { p with watchdog := 5 })).launches.find? (fun y => y.id = 1)).map (fun l => l.save) = some 0x1000 ∧
    (devParts (fun p => { p with watchdog := 5 })).launches.Pairwise (fun x y => x.id ≠ y.id) ∧
    (partOf (devParts (fun p => { p with watchdog := 5 })) 0).watchdog ≠ 0 ∧ (partOf (devParts id) 0).watchdog = 0 ∧ (partOf (devParts id) 0).replay = false ∧
    (partOf (devRing 4 0 8) 0).replay = true ∧ (partOf (devRing 4 0 8) 0).recSize ≠ 0 ∧ (devRing 4 0 8).parts.length = 8 ∧
    leVal (ringRead (devRing 4 0 8) (partOf (devRing 4 0 8) 0) 0 8) % 2 ^ 8 = 4 ∧ leVal (ringRead (devRing 1 0 64) (partOf (devRing 1 0 64) 0) 0 8) % 2 ^ 8 = 1 ∧
    (queueAt (devRing 1 1 64) 1).en = false ∧ leVal (ringRead (devRing 2 0 8) (partOf (devRing 2 0 8) 0) 0 8) % 2 ^ 8 = 2 ∧
    leVal (ringRead (devRing 0 0 8) (partOf (devRing 0 0 8) 0) 0 8) % 2 ^ 8 = 0 ∧
    (queueAt (devRing 1 0 64) 0).submit + 64 / 64 ≤ (queueAt (devRing 1 0 64) 0).cpl + 2 ^ (queueAt (devRing 1 0 64) 0).size := by decide +kernel
/-- The ring of the recorder holds an interrupt of vector 5. -/
def devRingInterrupt : State :=
  { devRing 4 0 8 with hostMem := tsetList 0 [] 0 (leBytes 8 (4 + 2 ^ 16 * 8) ++ leBytes 8 0 ++ leBytes 8 5) }

theorem witness_replay_interrupt : (nextOf (devRing 2 0 8) (partOf (devRing 2 0 8) 0) 4 256 0).isNone = true ∧ (partOf (devRing 2 0 8) 0).heldInts = [] ∧
    (partOf (devRing 2 0 8) 0).record = false ∧ (nextOf devRingInterrupt (partOf devRingInterrupt 0) 4 256 0).map (fun x => leVal x.2.1) = some 5 := by
  decide +kernel

/-- Every waiter is still before the first tick. -/
theorem still_at_first {s : State} {p : Nat} {w : Waiter} (h : s.tick = 0) (hs : (partOf s p).still = []) (hw : w ∈ waitersOf s p) : w ∈ stillWaiters s p := by
  simp only [stillWaiters, List.mem_filter, hw, true_and, watch, hs, h, List.any_map, List.any_eq_true]
  exact ⟨w, hw, by simp⟩

/-- The device with a group at a team barrier. -/
def devAtBarrier : State := { devParts id with cur := { aGroup 1 with wait := some (.bar .team) } }

theorem witness_umpire_reports : ∃ w ∈ stillWaiters devAtBarrier 0, digest w ∉ (partOf devAtBarrier 0).reported := by
  obtain ⟨w, hw, -⟩ : ∃ w ∈ waitersOf devAtBarrier 0, w.kind = 5 := by decide +kernel
  exact ⟨w, still_at_first rfl rfl hw, by simp [devAtBarrier, devParts, partOf, newPart]⟩
theorem witness_umpire : (∀ w ∈ stillWaiters (devParts id) 0, digest w ∈ (partOf (devParts id) 0).reported) ∧ (partOf (devParts id) 0).rpSeq < 2 ^ 64 ∧
    (partOf (devParts id) 0).uexp < 32 ∧ (aGroup 1).crew = none ∧ ({ aGroup 1 with wait := some (.tag true [4]) } : Group).wait = some (.tag true (4 :: [])) := by
  refine ⟨fun w hw => ?_, by decide +kernel⟩
  have h : w ∈ waitersOf (devParts id) 0 := List.mem_of_mem_filter hw
  exact absurd (show waitersOf (devParts id) 0 = [] by decide +kernel) (List.ne_nil_of_mem h)

/-- A device whose connection group 0 is in a state. -/
def devConn (f : Conn → Conn) : State := { dev 1 with conns := f newConn :: List.replicate 95 newConn }

theorem witness_connection : (devConn id).conns.length = 96 ∧ (connAt (devConn id) 0).state = 0 ∧ (connAt (devConn id) 0).pport ≤ 11 ∧
    11 < (connAt (devConn (fun c => { c with pport := 12 })) 0).pport ∧ (connAt (devConn (fun c => { c with state := 1 })) 0).state = 1 ∧
    (connAt (devConn (fun c => { c with state := 2, errth := 3, errcnt := 3, lanes := 8 })) 0).errth ≤ 3 ∧ (connAt (devConn (fun c => { c with state := 2, lanes := 1 })) 0).lanes ≤ 1 ∧
    (connAt (devConn (fun c => { c with state := 3 })) 0).state = 3 ∧ (connAt (devConn (fun c => { c with state := 4 })) 0).state = 4 := by decide +kernel
theorem witness_connection_in_boot : State.reset.boot ≠ .ready ∧ State.reset.conns.length = 96 := by decide +kernel
theorem witness_clock_step : ∃ x ∈ aLaunch.spans, x.st = .placed ∨ x.st = .saved ∨ x.st = .parked := ⟨_, List.mem_singleton_self _, Or.inl rfl⟩
theorem witness_window : (dev 1).boot = .ready ∧ (dev 1).shadowRegions.length = 16 ∧ (1 : Word).getLsbD 0 = true ∧ (0 : Word).getLsbD 12 = false ∧ 12 % 8 ≠ 0 ∧ (dev 1).mcCons ≤ (0 : Word).toNat ∧
    (0 : Word).toNat ≤ (dev 1).mcWptr ∧ (dev 1).mcWptr < (1 : Word).toNat ∧ (0 : Word).toNat < ({ dev 1 with mcCons := 1 } : State).mcCons := by decide +kernel

/-- A blob that the boot accepts. -/
def aBlob : Blob := ⟨true, 7, [4, 5, 6, 8], [], 0x10000, 4096⟩

/-- The device in its boot, with a word of the firmware image written. -/
def devBoot : State := { State.reset with coxSram := [(0, 1)] }

theorem witness_boot : (dev 1).boot ≠ .off ∧ ({ State.reset with boot := .off } : State).boot = .off ∧ devBoot.boot = .boot ∧ devBoot.halted = false ∧
    devBoot.coxSram ≠ [] ∧ (∀ x ∈ devBoot.temps, x < 1000) ∧ (∃ x ∈ ({ devBoot with temps := [0, 1100, 0, 0] } : State).temps, 1100 ≤ x) ∧ State.reset.coxSram = [] ∧
    blobOk aBlob = true ∧ blobOk { aBlob with signed := false } = false := by decide +kernel
theorem witness_fatal : (dev 1).boot = .ready ∧ (dev 1).halted = false ∧ ({ dev 1 with halted := true } : State).boot = .ready ∧
    homeCell ({ dev 1 with halted := true, dumpBase := 0x10000, dumpSize := 4096 } : State).regions (0x10000 + 4) = some 0x404 ∧ (dev 1).copies = [] ∧
    (dev 1).temps.length = 4 ∧ (dev 1).temps.getD 3 0 < 1000 ∧ (dev 1).parts.length = 8 ∧ ({ dev 1 with halted := true } : State).sched = [] := by decide +kernel

theorem witness_reset_step : State.reset.tablesOk = true ∧ State.reset.sizesOk = true ∧ State.reset.sched = [] ∧ State.reset.cur.placed = false := by decide +kernel
theorem witness_encode : ∃ w, encode .always (.saddImm 6 6 4) = some w ∧ (Instr.saddImm 6 6 4).wf = true ∧ guardOk .always (.saddImm 6 6 4) = true ∧
    decode w = .ok .always (.saddImm 6 6 4) 4 := ⟨_, rfl, by decide +kernel⟩
theorem witness_step_decoded : (devCode ldWord 0x100 none []).sched = [] ∧ (devCode ldWord 0x100 none []).halted = false ∧ duty (devCode ldWord 0x100 none []) = none ∧ (devCode ldWord 0x100 none []).cur.placed = true ∧
    mayIssue (devCode ldWord 0x100 none []) = true ∧ (fetch (beforeFetch (devCode ldWord 0x100 none []))).2 = .instr .always (.ld .none .b32 5 ⟨2, none⟩) 8 ∧
    reaches (dev 1) .deviceReset = true ∧ reaches State.reset (.padPkt 0) = false ∧ dueRound (devCode ldWord 0x100 none []) = none ∧
    duty { dev 1 with roundDue := [0] } = none ∧ dueRound { dev 1 with roundDue := [0] } = some 0 ∧ causesRound (.teamRetire 0 0) = true := by decide +kernel

/-- Where a fetch answers a trap. -/
def fetchTraps (s : State) : Bool := match (fetch s).2 with
  | .trap x => x.cause == .illegal && x.sub == 2
  | _ => false
/-- The device with its group's pc at 28, where 8 bytes cross a block of 32. -/
def devCross : State :=
  { devWith (fun g => { g with arch := { g.arch with pc := 28 } }) with mem := tsetList 0 [] 0x41C (leBytes 8 ldWord) }

/-- The fetch of the device with an `ld` at its pc reads line 8 of device memory, uncached. -/
theorem witness_fetch_cell : (translateP (whoOf (devCode ldWord 0x100 none []).cur) .fetch 0 (devCode ldWord 0x100 none [])) =
      (devCode ldWord 0x100 none [], .ok (.dev 0x10000 true)) ∧ homeCell (devCode ldWord 0x100 none []).regions 0x10000 = some 0x400 ∧
    lineBusy (devCode ldWord 0x100 none []) 8 = false ∧ (checkSectors 8 1 (devCode ldWord 0x100 none [])).cur.placed = true ∧
    cellPoisoned (checkSectors 8 1 (devCode ldWord 0x100 none [])) 0x400 1 = false ∧
    jumpsAstray (memWord (checkSectors 8 1 (devCode ldWord 0x100 none [])) 0x10000) (checkSectors 8 1 (devCode ldWord 0x100 none [])) = false ∧
    sectorsOf (maskRange (0x400 % 128) 1) = 1 ∧ (checkSectors 8 1 (devCode ldWord 0x100 none [])).icache = [] := by decide +kernel
theorem witness_straddle : (translateP (whoOf devCross.cur) .fetch 28 devCross).2 = .ok (.dev 0x1001C true) ∧ mayIssue devCross = true ∧
    fetchTraps (beforeFetch devCross) = true ∧ 32 < devCross.cur.arch.pc.toNat % 32 + lenBytes (lenCode (BitVec.ofNat 128 (leVal (peekBytes devCross 0x1001C 4)))) := by
  decide +kernel

-- The values that an instruction's entry does not accept (R54): for each check, a term that it refuses.
theorem test_wf_scalar : (Instr.sshlLit 1 2 64).wf = false ∧ (Instr.sshrN64Lit 1 2 64).wf = false ∧ (Instr.sshrI64Lit 1 2 0xFFFFFFFF).wf = false ∧
    (Instr.scmpI64 .un 1 2 3).wf = false ∧ (Instr.scmpN64 .un 1 2 3).wf = false ∧ (Instr.scmpI64Imm .un 1 2 3).wf = false ∧ (Instr.scmpN64Imm .un 1 2 3).wf = false ∧
    (Instr.scmpI64Lit .un 1 2 3).wf = false ∧ (Instr.scmpN64Lit .un 1 2 3).wf = false := by decide +kernel
theorem test_wf_integer_types : (Instr.iadd .f32 false 1 2 3).wf = false ∧ (Instr.isubLit .b32 true 1 2 3).wf = false ∧ (Instr.imul .i16 1 2 3).wf = false ∧
    (Instr.imulhLit .n8 1 2 3).wf = false ∧ (Instr.iabs .n32 1 2).wf = false ∧ (Instr.ineg .n64 2 4).wf = false ∧ (Instr.vAnd .i32 1 2 3).wf = false ∧
    (Instr.vOrLit .n32 1 2 3).wf = false ∧ (Instr.vNot .b16 1 2).wf = false ∧ (Instr.shl .i32 1 2 3).wf = false ∧ (Instr.shr .b32 1 2 3).wf = false ∧
    (Instr.icmp .b32 .eq 1 2 3).wf = false ∧ (Instr.icmp .i32 .un 1 2 3).wf = false ∧ (Instr.icmpLit .i32 .un 1 2 3).wf = false ∧ (Instr.sel .i32 1 2 3 4).wf = false ∧
    (Instr.movLit .i32 1 2).wf = false ∧ (Instr.imad .b32 1 2 3 4).wf = false ∧ (Instr.dot4 .i32 false 1 2 3 4).wf = false := by decide +kernel
theorem test_wf_pairs : (Instr.iadd .i64 false 2 4 5).wf = false ∧ (Instr.iadd .i64 false 3 4 6).wf = false ∧ (Instr.iaddLit .n64 true 2 5 1).wf = false ∧
    (Instr.iabs .i64 1 2).wf = false ∧ (Instr.vXor .b64 2 3 4).wf = false ∧ (Instr.shlLit .b64 1 2 3).wf = false ∧ (Instr.clz .b64 1 2).wf = false ∧
    (Instr.icmp .i64 .eq 1 3 2).wf = false ∧ (Instr.icmpLit .n64 .eq 1 3 2).wf = false ∧ (Instr.sel .b64 1 3 2 4).wf = false ∧ (Instr.movLit .b64 1 2).wf = false ∧
    (Instr.imad .i64 2 4 6 7).wf = false ∧ (Instr.ld .none .b64 5 ⟨2, none⟩).wf = false ∧ (Instr.stOff .none .b64 5 ⟨2, none⟩ 8).wf = false ∧
    (Instr.acas .device .b64 2 ⟨2, none⟩ 0 4 5).wf = false ∧ (Instr.red .add .device .i64 ⟨2, none⟩ 0 5).wf = false ∧ (Instr.ainc .device .n64 5 ⟨2, none⟩ 0).wf = false := by
  decide +kernel
theorem test_wf_floating : (Instr.fadd .i32 .rn 1 2 3).wf = false ∧ (Instr.faddLit .f16 .rn 1 2 0x10000).wf = false ∧ (Instr.ffma .tap32 .rn 1 2 3 4).wf = false ∧
    (Instr.fmin .e4m3 1 2 3).wf = false ∧ (Instr.fmaxLit .bf16 1 2 0x10000).wf = false ∧ (Instr.fabs .i32 1 2).wf = false ∧ (Instr.fcmp .i32 .eq 1 2 3).wf = false ∧
    (Instr.fcmpLit .f16 .eq 1 2 0x10000).wf = false ∧ (Instr.frnd .i32 .rn 1 2).wf = false ∧ (Instr.tadd .f32 1 2 3).wf = false ∧ (Instr.tmulLit .tap8 1 2 256).wf = false ∧
    (Instr.tfma .f32 1 2 3 4).wf = false ∧ (Instr.tcmp .tap8 .un 1 2 3).wf = false ∧ (Instr.tcmp .f32 .eq 1 2 3).wf = false ∧ (Instr.tcmpLit .tap16 .eq 1 2 0x10000).wf = false ∧
    (Instr.fclass .i32 1 2).wf = false ∧ (Instr.fsgn .n32 1 2 3).wf = false := by decide +kernel
theorem test_wf_conversions : (Instr.cvt .rn false .f32 .f32 1 2).wf = false ∧ (Instr.cvt .rz false .i32 .n32 1 2).wf = false ∧ (Instr.cvt .rn false .b32 .f32 1 2).wf = false ∧
    (Instr.cvt .rn false .i64 .f32 1 2).wf = false ∧ (Instr.cvtsr false .i32 .f32 1 2 3).wf = false ∧ (Instr.cvtsr false .f16 .i64 1 3 4).wf = false ∧
    (Instr.pk2 .rn false .f32 .f32 1 2).wf = false ∧ (Instr.pk2 .rn false .f16 .i64 1 2).wf = false ∧ (Instr.pk4 .rn false .e4m3 .f32 1 253).wf = false ∧
    (Instr.pk8 .rn false .e4m3 .f32 1 2).wf = false ∧ (Instr.upk2 .rn false .f32 .f16 255 2).wf = false ∧ (Instr.upk4 .rz false .i32 .i8 1 2).wf = false ∧
    (Instr.upk8 .rn false .f32 .e2m1 249 2).wf = false := by decide +kernel
theorem test_wf_others : (Instr.vote .any 8 1).wf = false ∧ (Instr.redl .add .b32 1 2).wf = false ∧ (Instr.scan true .xor .i32 1 2).wf = false ∧ (Instr.lpartLit 3).wf = false ∧
    (Instr.ldOff .none .i32 1 ⟨2, none⟩ 4).wf = false ∧ (Instr.bmode 48 .fifo).wf = false ∧ (Instr.aadd .device .b32 1 ⟨2, none⟩ 0 2).wf = false ∧
    (Instr.amin .device .f32 1 ⟨2, none⟩ 0 2).wf = false ∧ (Instr.axor .device .i32 1 ⟨2, none⟩ 0 2).wf = false ∧ (Instr.ainc .device .i32 1 ⟨2, none⟩ 0).wf = false ∧
    (Instr.red .min .device .f32 ⟨2, none⟩ 0 2).wf = false ∧ (Instr.bacc .device .f16 .e4m3 ⟨2, none⟩ 0 1 2).wf = false ∧ (Instr.baccMem .device .e4m3 .f32 ⟨2, none⟩ 0 2).wf = false ∧
    (Instr.bld .device .i8 1 2 ⟨2, none⟩ 0).wf = false ∧ (Instr.bcvt .e4m3 .f16 1 2 3).wf = false ∧ (Instr.mma true .f16 0 1 2 3 4).wf = false ∧
    (Instr.mma false .f32 0 1 2 3 4).wf = false ∧ (Instr.crewEnter 1 0).wf = false ∧ (Instr.crewEnter 1 33).wf = false ∧ (Instr.qdef 0 1 17).wf = false ∧
    (Instr.qdef 0 250 16).wf = false ∧ (Instr.qadvH 0 0).wf = false ∧ (Instr.qadvT 0 17).wf = false ∧ (Instr.qwait true 0 0).wf = false ∧ (Instr.enq 1 4).wf = false ∧
    (Instr.srRd 1 0x030).wf = false ∧ (Instr.srWr 0x001 1).wf = false ∧ (Instr.fifoConfigWrite 48 1).wf = false := by decide +kernel

/-- The group that issues after one step from reset with an instruction's bits where it is fetched; s1 is set first, s2 too. -/
def ranWith (nbits w : Nat) (a b : Word) : Option Group :=
  let s := State.reset.withFetchWord nbits w
  match step { s with cur := { s.cur with tvec := 0x200, arch := { s.cur.arch with sregs := [(1, a), (2, b)] } } } with
  | .next t => some t.cur
  | _ => none
/-- Its pc after that step. -/
def pcAfter (nbits w : Nat) (a : Word := 0) (b : Word := 0) : Option VAddr := (ranWith nbits w a b).map (fun g => g.arch.pc)
/-- A scalar register after that step. -/
def scalarAfter (nbits w : Nat) (r : Nat) (a : Word := 0) (b : Word := 0) : Option Word := (ranWith nbits w a b).map (fun g => tget 0 g.arch.sregs r)

-- What one step leaves, by hand from the rules cited.
/-- R240: a sum wraps; R28: the source registers stand at their fields. -/
theorem test_sadd_wraps : scalarAfter 32 0x08105C08 1 0xFFFFFFFFFFFFFFFF 2 = some 1 ∧ pcAfter 32 0x08105C08 = some 4 := by decide +kernel
/-- R240: the second source is taken from the first. -/
theorem test_ssub_in_order : scalarAfter 32 0x08105C10 1 5 7 = some 0xFFFFFFFFFFFFFFFE := by decide +kernel
/-- R22, R271: bra 0x3fffa goes back by 24 bytes. -/
theorem test_bra_back : pcAfter 32 0xFFFE9CC4 = some 0x1FFFFFFFFFFFFE8 := by decide +kernel
/-- R271: call 14 links A + 4 in s63 and goes to A + 4 times 14. -/
theorem test_call_links : pcAfter 32 0x00039CC8 = some 56 ∧ scalarAfter 32 0x00039CC8 63 = some 4 := by decide +kernel
/-- R243: smov s5, 0x801 sign-extends its 12 bits. -/
theorem test_smov_extends : scalarAfter 32 0x80115CB4 5 = some 0xFFFFFFFFFFFFF801 := by decide +kernel
/-- R241: an integer division by zero gives all ones and goes on. -/
theorem test_division_by_zero : scalarAfter 32 0x08105C38 1 9 0 = some 0xFFFFFFFFFFFFFFFF ∧ pcAfter 32 0x08105C38 9 0 = some 4 := by decide +kernel
/-- R279, R349: a reserved opcode enters the trap vector with cause 1, sub-cause 3 and MASK. -/
theorem test_illegal_enters : (ranWith 32 0 0 0).map (fun g => (g.arch.pc, g.tcause)) = some (0x200, 0x200030001) := by decide +kernel

end Sys2Proof.Tests
end

section
/-! The moulds of register-only instructions (R14, R236, R237, R239, R242): what a scalar operation and a scalar compare
write where a lane is active, and that every mould only advances where none is. -/
namespace Sys2Proof.Proofs
open Sys2Proof Sys2Proof.Machine Sys2Proof.Claims
variable {s : State}

/-- Equal memories and tags read alike. -/
theorem sameBytes_of_eq {s t : State} (h1 : t.mem = s.mem := by simp) (h2 : t.hostMem = s.hostMem := by simp)
    (h3 : t.peerMem = s.peerMem := by simp) (h4 : t.smem = s.smem := by simp) (h5 : t.tags = s.tags := by simp) :
    SameBytes s t := fun a => by
  rw [h1, h2, h3, h4, h5]
  exact ⟨rfl, rfl, rfl, rfl, rfl⟩

theorem noFlagTrap_zero (s : State) : NoFlagTrap (fun _ => 0) s := fun f l _ _ _ h => by simp at h

/-- Where no enabled flag is raised, or traps are masked, no lane traps (R237, R350). -/
theorem trapLanes_of_noFlagTrap {fl : Nat → FlagSet} (h : NoFlagTrap fl s) : trapLanes (active s) fl s.cur = 0 :=
  trapLanes_eq_zero _ _ _ fun f l hf hl ha hr => by
    unfold enabledIn
    split
    · simp
    · next hm => exact (h f l hf hl ha hr).resolve_left hm

/-- A state whose `ffl` is the accrued table has accrued the flags (R237). -/
theorem flagsAccrue_of_ffl {fl : Nat → FlagSet} {t : State} (h : t.cur.arch.ffl = accrueTbl (active s) fl s.cur.arch.ffl) :
    FlagsAccrue fl s t := fun f l hf hl => by
  rw [flagAt, flagAt, laneOn, h, tget_accrueTbl, if_pos hf, BitVec.getLsbD_or, getLsbD_raisedIn, decide_eq_true hl, Bool.true_and]

theorem flagsAccrue_zero {t : State} (h : t.cur.arch.ffl = s.cur.arch.ffl) : FlagsAccrue (fun _ => 0) s t :=
  fun f l _ _ => by simp [flagAt, h]

/-- An instruction that moves past n bytes does nothing else. -/
theorem advanced_advance (n : Nat) (s : State) : Advanced n s (advance n s) := ⟨rfl, sameBytes_of_eq⟩

@[simp] theorem getS_advance (n : Nat) (r : SReg) (s : State) : getS (advance n s) r = getS s r := rfl
@[simp] theorem getS_accrue (act : Mask) (fl : Nat → FlagSet) (r : SReg) (s : State) : getS (accrue act fl s) r = getS s r := rfl
@[simp] theorem getP_advance (n : Nat) (p : PReg) (s : State) : getP (advance n s) p = getP s p := rfl

/-- A scalar operation with an active lane writes its result (R239). -/
theorem scalarOp_writes (n : Nat) (d : SReg) (v : Word) (fl : FlagSet) (ha : active s ≠ 0) (hf : NoFlagTrap (fun _ => fl) s) :
    ScalarWritten n d v fl s (scalarOp n d v fl s) := by
  have hget (r : SReg) : getS (advance n (setS d v (accrue (active s) (fun _ => fl) s))) r = if r = d then v else getS s r := by
    rw [getS_advance, getS_setS, getS_accrue]
  rw [scalarOp_go n d v fl s ha (trapLanes_of_noFlagTrap hf)]
  exact { only := by simp only [OnlyRegs, advance, updCur, setS, updArch, accrue]
          dest := by rw [hget, if_pos rfl]
          others := fun r hr => by rw [hget, if_neg hr]
          flags := flagsAccrue_of_ffl (by simp only [advance, updCur, setS, updArch, accrue])
          bytes := sameBytes_of_eq }

/-- A scalar operation without an active lane only advances (R14, R239). -/
theorem scalarOp_none (n : Nat) (d : SReg) (v : Word) (fl : FlagSet) (ha : active s = 0) : Advanced n s (scalarOp n d v fl s) := by
  rw [scalarOp, onceForGroup_none n ha]
  exact advanced_advance n s

/-- A scalar compare with an active lane writes one truth value in all 32 lanes (R242). -/
theorem scalarCmp_writes (n : Nat) (p : PReg) (r : Bool) (ha : active s ≠ 0) :
    PredicateWritten n p (fun _ => true) (fun _ => r) (fun _ => 0) s (scalarCmp n p r s) := by
  have hget (q : PReg) : getP (advance n (setP allLanes p (if r then allLanes else 0) s)) q =
      if q = p ∧ p ≠ 7 then (getP s p &&& ~~~allLanes) ||| ((if r then allLanes else 0) &&& allLanes) else getP s q := by
    rw [getP_advance, getP_setP]
  have hlane (l : Nat) (hl : l < 32) : allLanes.getLsbD l = true := by
    rw [show allLanes = BitVec.allOnes 32 from rfl, BitVec.getLsbD_allOnes, decide_eq_true hl]
  rw [scalarCmp, onceForGroup_go n ha]
  exact { only := by rw [setP_eq]; rfl
          dest := fun hp l hl => by
            rw [hget, if_pos ⟨rfl, hp⟩]
            cases r <;> simp [hl, hlane l hl]
          always := by
            rw [hget, if_neg fun h => h.2 h.1.symm]
            rfl
          others := fun q hq => by rw [hget, if_neg fun h => hq h.1]
          flags := flagsAccrue_zero (by rw [setP_eq]; rfl)
          bytes := sameBytes_of_eq }

/-- A vector instruction without an active lane only advances, in SIMT mode with its registers in the allotment (R14, R231). -/
theorem vectorOp_none (n : Nat) (named ds : List Nat) (val : Nat → Nat → LaneWord) (fl : Nat → FlagSet) (hc : s.cur.crew = none)
    (hr : ∀ r ∈ named, r < s.cur.allot) (ha : active s = 0) : Advanced n s (vectorOp n named ds val fl s) := by
  rw [vectorOp, notCrew_go (by simp [inCrew, hc]), regCheck_go named s _ hr, onceForGroup_none n ha]
  exact advanced_advance n s

end Sys2Proof.Proofs
end

section
/-! Scalar arithmetic, shifts, compares, moves and counts (R239, R240, R242, R243): each form is the scalar mould on its
operation. -/
namespace Sys2Proof.Proofs
open Sys2Proof Sys2Proof.Machine Sys2Proof.Claims

/-- A choice by `≤` is the choice by `<` where it does not matter at equality. -/
theorem ite_le_eq_ite_lt {α β : Type} [LinearOrder α] {a b : α} {u v : β} (h : a = b → u = v) :
    (if a ≤ b then u else v) = if a < b then u else v := by
  rcases lt_trichotomy a b with hlt | heq | hgt
  · rw [if_pos hlt.le, if_pos hlt]
  · rw [h heq, ite_self, ite_self]
  · rw [if_neg hgt.not_ge, if_neg hgt.not_gt]

theorem minS_eq (x y : Word) : minS x y = if x.slt y then x else y := by
  simp only [minS, BitVec.slt_iff_toInt_lt]
  exact ite_le_eq_ite_lt BitVec.eq_of_toInt_eq
theorem maxS_eq (x y : Word) : maxS x y = if x.slt y then y else x := by
  simp only [maxS, BitVec.slt_iff_toInt_lt]
  exact ite_le_eq_ite_lt fun h => (BitVec.eq_of_toInt_eq h).symm
theorem minU_eq (x y : Word) : minU x y = if x.ult y then x else y := by
  simp only [minU, BitVec.ult_iff_toNat_lt]
  exact ite_le_eq_ite_lt BitVec.eq_of_toNat_eq
theorem maxU_eq (x y : Word) : maxU x y = if x.ult y then y else x := by
  simp only [maxU, BitVec.ult_iff_toNat_lt]
  exact ite_le_eq_ite_lt fun h => (BitVec.eq_of_toNat_eq h).symm

/-- The three forms of a scalar operation are the scalar mould on its operand values. -/
structure ExecScalar (f : ScalarForms) (widen : BitVec 6 → Word) (fl : Word → Word → FlagSet) : Prop where
  reg : ∀ d a b s, exec (f.reg d a b) s = .next (scalarOp 4 d (f.op (getS s a) (getS s b)) (fl (getS s a) (getS s b)) s)
  imm : ∀ d a i s, exec (f.imm d a i) s = .next (scalarOp 4 d (f.op (getS s a) (widen i)) (fl (getS s a) (widen i)) s)
  lit : ∀ d a k s, exec (f.lit d a k) s =
    .next (scalarOp 12 d (f.op (getS s a) (k.signExtend 64)) (fl (getS s a) (k.signExtend 64)) s)

/-- What is the mould writes its result in every form, where a lane is active. -/
theorem ExecScalar.formsRun {f : ScalarForms} {widen : BitVec 6 → Word} {fl : Word → Word → FlagSet} (h : ExecScalar f widen fl) :
    FormsRun f widen fl := fun d a s =>
  ⟨fun b ha hf => ⟨_, h.reg d a b s, scalarOp_writes _ _ _ _ ha hf⟩,
   fun i ha hf => ⟨_, h.imm d a i s, scalarOp_writes _ _ _ _ ha hf⟩,
   fun k ha hf => ⟨_, h.lit d a k s, scalarOp_writes _ _ _ _ ha hf⟩⟩

theorem execScalar_signed : ∀ f ∈ scalarSigned, ExecScalar f (fun i => i.signExtend 64) (fun _ _ => 0) := by
  have hmin : (fun x y : Word => if x.slt y then x else y) = minS := by funext x y; rw [minS_eq]
  have hminU : (fun x y : Word => if x.ult y then x else y) = minU := by funext x y; rw [minU_eq]
  have hmax : (fun x y : Word => if x.slt y then y else x) = maxS := by funext x y; rw [maxS_eq]
  have hmaxU : (fun x y : Word => if x.ult y then y else x) = maxU := by funext x y; rw [maxU_eq]
  intro f hf
  rw [scalarSigned, hmin, hminU, hmax, hmaxU] at hf
  fin_cases hf <;> exact ⟨fun _ _ _ _ => rfl, fun _ _ _ _ => rfl, fun _ _ _ _ => rfl⟩

theorem execScalar_shifts : ∀ f ∈ scalarShifts, ExecScalar f (fun i => i.setWidth 64) (fun _ _ => 0) := by
  intro f hf
  rw [scalarShifts] at hf
  fin_cases hf <;> exact ⟨fun _ _ _ _ => rfl, fun _ _ _ _ => rfl, fun _ _ _ _ => rfl⟩

/-- An instruction that is the scalar mould without a flag writes its result. -/
theorem completes_scalarOp {i : Instr} {s : State} {n : Nat} {d : SReg} {v : Word} (ha : active s ≠ 0)
    (h : exec i s = .next (scalarOp n d v 0 s)) : Completes i s (ScalarWritten n d v 0 s) :=
  ⟨_, h, scalarOp_writes n d v 0 ha (noFlagTrap_zero s)⟩

/-- An instruction that is the mould of a scalar compare writes its predicate. -/
theorem completes_scalarCmp {i : Instr} {s : State} {n : Nat} {p : PReg} {r : Bool} (ha : active s ≠ 0)
    (h : exec i s = .next (scalarCmp n p r s)) :
    Completes i s (PredicateWritten n p (fun _ => true) (fun _ => r) (fun _ => 0) s) :=
  ⟨_, h, scalarCmp_writes n p r ha⟩

theorem scalarCompare : ScalarCompare := fun _ _ _ _ ha =>
  ⟨fun _ => completes_scalarCmp ha rfl, fun _ => completes_scalarCmp ha rfl, fun _ => completes_scalarCmp ha rfl,
   fun _ => completes_scalarCmp ha rfl, fun _ => completes_scalarCmp ha rfl, fun _ => completes_scalarCmp ha rfl⟩

theorem indexValue_eq (g : Group) (x : IndexReg) : indexValue g x = indexOfGroup g.idx x := by cases x <;> rfl

theorem scalarMovesAndCounts : ScalarMovesAndCounts := fun _ s ha =>
  ⟨fun _ => completes_scalarOp ha rfl, fun _ => completes_scalarOp ha rfl,
   fun x => completes_scalarOp ha (by rw [← indexValue_eq]; rfl), fun _ => completes_scalarOp ha rfl,
   fun _ => completes_scalarOp ha rfl, fun _ => completes_scalarOp ha rfl,
   fun _ => completes_scalarOp ha rfl, fun _ => completes_scalarOp ha rfl⟩

/-- Settles O1: every form is the scalar mould (or the mould of a compare) on its operand values, and the mould writes its
result once for the group where a lane is active. -/
theorem scalarInstructions : Obligations.ScalarInstructions :=
  ⟨fun f hf => (execScalar_signed f hf).formsRun, fun f hf => (execScalar_shifts f hf).formsRun,
   scalarCompare, scalarMovesAndCounts⟩

end Sys2Proof.Proofs
end

section
/-! Instructions without an active lane (R14, R239, R268): each two-source form is a mould, and the moulds then only advance. -/
namespace Sys2Proof.Proofs
open Sys2Proof Sys2Proof.Machine Sys2Proof.Claims

/-- The three forms of an operation are the scalar mould, whatever they write. -/
structure ScalarMould (f : ScalarForms) : Prop where
  reg : ∀ d a b s, ∃ v fl, exec (f.reg d a b) s = .next (scalarOp 4 d v fl s)
  imm : ∀ d a i s, ∃ v fl, exec (f.imm d a i) s = .next (scalarOp 4 d v fl s)
  lit : ∀ d a k s, ∃ v fl, exec (f.lit d a k) s = .next (scalarOp 12 d v fl s)

theorem ExecScalar.mould {f : ScalarForms} {widen : BitVec 6 → Word} {fl : Word → Word → FlagSet} (h : ExecScalar f widen fl) :
    ScalarMould f :=
  ⟨fun d a b s => ⟨_, _, h.reg d a b s⟩, fun d a i s => ⟨_, _, h.imm d a i s⟩, fun d a k s => ⟨_, _, h.lit d a k s⟩⟩

theorem scalarMould_div : ∀ f ∈ scalarDivSigned ++ scalarDivUnsigned, ScalarMould f := by
  intro f hf
  simp only [scalarDivSigned, scalarDivUnsigned, List.cons_append, List.nil_append] at hf
  fin_cases hf <;> exact ⟨fun _ _ _ _ => ⟨_, _, rfl⟩, fun _ _ _ _ => ⟨_, _, rfl⟩, fun _ _ _ _ => ⟨_, _, rfl⟩⟩

theorem scalarMould_all : ∀ f ∈ scalarSigned ++ scalarShifts ++ scalarDivSigned ++ scalarDivUnsigned, ScalarMould f := by
  intro f hf
  rw [List.append_assoc, List.mem_append, List.mem_append] at hf
  rcases hf with (hf | hf) | hf
  · exact (execScalar_signed f hf).mould
  · exact (execScalar_shifts f hf).mould
  · exact scalarMould_div f hf

/-- Both forms of a two-source operation on a type are the lane-by-lane mould on that operation. -/
structure ExecVector (t : Ty) (f : VectorForms) : Prop where
  reg : ∀ d a b s, exec (f.reg d a b) s = .next (vecBin 8 t d a b f.op s)
  lit : ∀ d a k s, exec (f.lit d a k) s = .next (vecLit t d a k f.op s)

theorem execVector_integer (t : Ty) (sat : Bool) : ∀ f ∈ integerForms t sat, ExecVector t f := by
  intro f hf
  rw [integerForms] at hf
  fin_cases hf <;> exact ⟨fun _ _ _ _ => rfl, fun _ _ _ _ => rfl⟩

theorem execVector_float (t : Ty) (rnd : Rnd) : ∀ f ∈ floatForms t rnd, ExecVector t f := by
  intro f hf
  rw [floatForms] at hf
  fin_cases hf <;> exact ⟨fun _ _ _ _ => rfl, fun _ _ _ _ => rfl⟩

theorem execVector_tapered (t : Ty) : ∀ f ∈ taperedForms t, ExecVector t f := by
  intro f hf
  rw [taperedForms] at hf
  fin_cases hf <;> exact ⟨fun _ _ _ _ => rfl, fun _ _ _ _ => rfl⟩

/-- Settles O8: every form is a mould, and a mould without an active lane only advances. -/
theorem noActiveLaneAdvances : Obligations.NoActiveLaneAdvances := by
  intro s hc ha
  refine ⟨fun f hf d a => ?_, fun t sat rnd f hf d a => ?_⟩
  · have h := scalarMould_all f hf
    refine ⟨fun b => ?_, fun i => ?_, fun k => ?_⟩
    · obtain ⟨v, fl, he⟩ := h.reg d a b s
      exact ⟨_, he, scalarOp_none 4 d v fl ha⟩
    · obtain ⟨v, fl, he⟩ := h.imm d a i s
      exact ⟨_, he, scalarOp_none 4 d v fl ha⟩
    · obtain ⟨v, fl, he⟩ := h.lit d a k s
      exact ⟨_, he, scalarOp_none 12 d v fl ha⟩
  · have h : ExecVector t f := by
      rw [List.mem_append, List.mem_append] at hf
      rcases hf with (hf | hf) | hf
      · exact execVector_integer t sat f hf
      · exact execVector_float t rnd f hf
      · exact execVector_tapered t f hf
    exact ⟨fun b hr => ⟨_, h.reg d a b s, vectorOp_none 8 _ _ _ _ hc hr ha⟩,
      fun k hr => ⟨_, h.lit d a k s, vectorOp_none 12 _ _ _ _ hc hr ha⟩⟩

end Sys2Proof.Proofs
end

section
/-! What the homes, the L1s and the Cox leave as it is when they serve a request where no error is waiting (R97 to R109, R419):
teams, banks, launches and the places of the groups; a group without an incomplete fence only has its monitor triggered. -/
namespace Sys2Proof.Proofs
open Sys2Proof Sys2Proof.Machine Sys2Proof.Claims

/-- A group that notices of lines have reached: the same group at the same place, and without an incomplete fence changed in
its monitor alone (R132, R179). -/
structure GroupKept (g h : Group) : Prop where
  gid : h.gid = g.gid
  placed : h.placed = g.placed
  core : h.core = g.core
  pipe : h.pipe = g.pipe
  blk : h.blk = g.blk
  nblk : h.nblk = g.nblk
  still : g.fence = none → h = { g with mon := h.mon }

theorem GroupKept.refl (g : Group) : GroupKept g g := ⟨rfl, rfl, rfl, rfl, rfl, rfl, fun _ => rfl⟩

theorem GroupKept.trans {g h k : Group} (a : GroupKept g h) (b : GroupKept h k) : GroupKept g k where
  gid := b.gid.trans a.gid
  placed := b.placed.trans a.placed
  core := b.core.trans a.core
  pipe := b.pipe.trans a.pipe
  blk := b.blk.trans a.blk
  nblk := b.nblk.trans a.nblk
  still := fun hf => by
    have hh := a.still hf
    have hk := b.still (by rw [hh]; exact hf)
    rw [hk, hh]

theorem groupKept_rollback {g : Group} (hf : g.fence ≠ none) : GroupKept g (rollback g) := by
  unfold rollback
  split
  · exact .refl g
  · exact ⟨rfl, rfl, rfl, rfl, rfl, rfl, fun h => absurd h hf⟩

theorem groupKept_triggerOn (line : Nat) (g : Group) : GroupKept g (triggerOn line g) := ⟨rfl, rfl, rfl, rfl, rfl, rfl, fun _ => rfl⟩

theorem groupKept_rolledBy (line : Nat) (g : Group) : GroupKept g (rolledBy line g) := by
  unfold rolledBy
  split
  · next h => exact groupKept_rollback fun hf => by simp [hf] at h
  · exact .refl g

theorem groupKept_noticed (core line : Nat) (g : Group) : GroupKept g (noticed core line g) := by
  unfold noticed
  split
  · exact (groupKept_triggerOn line g).trans (groupKept_rolledBy line _)
  · exact .refl g

theorem groupKept_unseenBy (w : Option Group) (line : Nat) (g : Group) : GroupKept g (unseenBy w line g) := by
  cases hf : g.fence with
  | none =>
    rw [unseenBy, hf]
    exact .refl g
  | some f =>
    have hne : g.fence ≠ none := by rw [hf]; exact Option.some_ne_none f
    have hroll : GroupKept g (rollback g) := groupKept_rollback hne
    rw [unseenBy, hf]
    dsimp only
    split
    · exact .refl g
    split
    · exact hroll
    split
    · exact .refl g
    split
    · exact hroll
    split
    · exact hroll
    · exact ⟨rfl, rfl, rfl, rfl, rfl, rfl, fun h => absurd h hne⟩

/-- A step of the homes and the Cox: every group is kept, and teams, banks, launches and the absence of errors are. -/
structure HomeStep (s t : State) : Prop where
  groups : ∃ f : Group → Group, (∀ g, GroupKept g (f g)) ∧ t.cur = f s.cur ∧ t.groups = s.groups.map f
  teams : t.teams = s.teams
  banks : t.banks = s.banks
  launches : t.launches = s.launches
  clean : NoErrors s → NoErrors t

namespace HomeStep

/-- An update of fields that no placement looks at. -/
theorem of_eq {s t : State} (hc : t.cur = s.cur := by rfl) (hg : t.groups = s.groups := by rfl) (ht : t.teams = s.teams := by rfl)
    (hb : t.banks = s.banks := by rfl) (hl : t.launches = s.launches := by rfl) (he : NoErrors s → NoErrors t := by exact id) :
    HomeStep s t :=
  ⟨⟨id, GroupKept.refl, hc, by rw [hg, List.map_id]⟩, ht, hb, hl, he⟩

theorem refl (s : State) : HomeStep s s := of_eq

theorem trans {s t u : State} (a : HomeStep s t) (b : HomeStep t u) : HomeStep s u := by
  obtain ⟨f, hf, hfc, hfg⟩ := a.groups
  obtain ⟨k, hk, hkc, hkg⟩ := b.groups
  exact ⟨⟨k ∘ f, fun g => (hf g).trans (hk (f g)), by rw [hkc, hfc]; rfl, by rw [hkg, hfg, List.map_map]⟩,
    b.teams.trans a.teams, b.banks.trans a.banks, b.launches.trans a.launches, b.clean ∘ a.clean⟩

theorem mapGroups {f : Group → Group} (hf : ∀ g, GroupKept g (f g)) (s : State) : HomeStep s (mapGroups f s) :=
  ⟨⟨f, hf, rfl, rfl⟩, rfl, rfl, rfl, id⟩

/-- A fold of such steps is one. -/
theorem foldl {α : Type} {f : State → α → State} (hf : ∀ s x, HomeStep s (f s x)) (xs : List α) (s : State) :
    HomeStep s (xs.foldl f s) := by
  induction xs generalizing s with
  | nil => exact refl s
  | cons x xs ih => exact (hf s x).trans (ih (f s x))

end HomeStep

theorem noErrors_of_filter {s t : State} {p : LatentError → Bool} (hl : t.latent = s.latent.filter p) (hf : t.found = s.found)
    (h : NoErrors s) : NoErrors t := ⟨by rw [hl, h.1]; rfl, hf.trans h.2⟩

variable (s : State)

theorem homeStep_notice (client line : Nat) : HomeStep s (notice client line s) := .mapGroups (groupKept_noticed client line) s

theorem homeStep_storeSeen (core line : Nat) : HomeStep s (storeSeen core line s) := by
  refine HomeStep.mapGroups (fun g => GroupKept.trans (h := if g.core = core then triggerOn line g else g) ?_
    (groupKept_unseenBy _ line _)) s
  split
  · exact groupKept_triggerOn line g
  · exact .refl g

theorem homeStep_readSectors (line : Nat) (sec : BitVec 4) : HomeStep s (readSectors line sec s) :=
  .of_eq (he := fun h => by rwa [readSectors_clean line sec h.1])

theorem homeStep_writeSectors (line : Nat) (m : LineMask) : HomeStep s (writeSectors line m s) :=
  .trans (t := { s with latent := s.latent.filter (fun x => !(errorIn line (wholeSectors m) x)) })
    (.of_eq (he := noErrors_of_filter rfl rfl)) (homeStep_readSectors _ _ _)

theorem homeStep_leaveL2 (e : L2Line) : HomeStep s (leaveL2 e s) :=
  (homeStep_readSectors s e.line e.dirty).trans (.of_eq (he := noErrors_of_filter rfl rfl))

theorem homeStep_l2Touch (line : Nat) (sec : BitVec 4) (owner : Option (BitVec 18)) : HomeStep s (l2Touch line sec owner s) := by
  unfold l2Touch
  dsimp only
  split
  · exact .of_eq
  split
  · exact .of_eq
  split
  · exact .refl s
  · exact (HomeStep.foldl (fun s e => homeStep_leaveL2 s e) _ s).trans (.of_eq)

theorem homeStep_putLine (m : LineMask) (d : LineData) (line : Nat) : HomeStep s (putLine m d line s) :=
  .of_eq

theorem homeStep_setCopy (client line : Nat) (f : Copy → Copy) : HomeStep s (setCopy client line f s) :=
  .of_eq

theorem homeStep_removeCopy (client line : Nat) : HomeStep s (removeCopy client line s) := .of_eq

theorem homeStep_writeBack (m : LineMask) (c : Copy) : HomeStep s (writeBack m c s) := by
  unfold writeBack
  dsimp only
  split
  · exact .refl s
  · exact ((homeStep_writeSectors s _ _).trans (homeStep_putLine _ _ _ _)).trans (homeStep_l2Touch _ _ _ _)

theorem homeStep_takeBack (c : Copy) : HomeStep s (takeBack c s) := by
  have h : HomeStep s (notice c.client c.line (removeCopy c.client c.line (writeBack (BitVec.allOnes 128) c s))) :=
    ((homeStep_writeBack s _ c).trans (homeStep_removeCopy _ _ _)).trans (homeStep_notice _ _ _)
  unfold takeBack
  dsimp only
  split
  · exact h.trans (.of_eq)
  · exact h

theorem homeStep_recallAll (cs : List Copy) : HomeStep s (recallAll cs s) := by
  induction cs generalizing s with
  | nil => exact .refl s
  | cons c cs ih => exact (homeStep_takeBack s c).trans (ih _)

theorem homeStep_evict (c : Copy) : HomeStep s (evict c s) := by
  have h : HomeStep s (removeCopy c.client c.line (writeBack (BitVec.allOnes 128) c s)) :=
    (homeStep_writeBack s _ c).trans (homeStep_removeCopy _ _ _)
  unfold evict
  dsimp only
  split
  · exact h.trans (.of_eq)
  · exact h

theorem homeStep_dropWords (m : LineMask) (c : Copy) : HomeStep s (dropWords m c s) := by
  unfold dropWords
  dsimp only
  split
  · exact .refl s
  · have h1 := homeStep_writeBack s (bytesOf (wordsOf m)) c
    split <;> split
    · exact ((h1.trans (homeStep_removeCopy _ _ _)).trans (homeStep_notice _ _ _)).trans (.of_eq)
    · exact (h1.trans (homeStep_setCopy _ _ _ _)).trans (homeStep_notice _ _ _) |>.trans (.of_eq)
    · exact (h1.trans (homeStep_removeCopy _ _ _)).trans (homeStep_notice _ _ _)
    · exact (h1.trans (homeStep_setCopy _ _ _ _)).trans (homeStep_notice _ _ _)

end Sys2Proof.Proofs
end

section
/-! The homes, the records of the device, translation and the Cox's read of a kernel header as such steps. -/
namespace Sys2Proof.Proofs
open Sys2Proof Sys2Proof.Machine Sys2Proof.Claims
variable (s : State)

theorem homeStep_dropWordsAll (m : LineMask) (cs : List Copy) : HomeStep s (dropWordsAll m cs s) := by
  induction cs generalizing s with
  | nil => exact .refl s
  | cons c cs ih => exact (homeStep_dropWords s m c).trans (ih _)

theorem homeStep_cleanFor (m : LineMask) (cs : List Copy) : HomeStep s (cleanFor m cs s) := by
  induction cs generalizing s with
  | nil => exact .refl s
  | cons c cs ih =>
    refine HomeStep.trans ?_ (ih _)
    split
    · exact .refl s
    · exact (homeStep_writeBack s m c).trans (homeStep_setCopy _ _ _ _)

theorem homeStep_homeServe (line : Nat) (m : LineMask) : HomeStep s (homeServe line m s) :=
  ((homeStep_cleanFor s m _).trans (homeStep_readSectors _ _ _)).trans (homeStep_l2Touch _ _ _ _)

theorem homeStep_homeStore (client line : Nat) (m : LineMask) (d : LineData) (owner : BitVec 18) :
    HomeStep s (homeStore client line m d owner s) :=
  (((((homeStep_recallAll s _).trans (homeStep_dropWordsAll _ _ _)).trans (homeStep_setCopy _ _ _ _)).trans
    (homeStep_writeSectors _ _ _)).trans (homeStep_putLine _ _ _ _)).trans
      ((homeStep_l2Touch _ _ _ _).trans (homeStep_storeSeen _ _ _))

/-! Records of the device and interrupts (R363, R389, R392, R418). -/

theorem homeStep_putPhys (owner : BitVec 18) (a : Nat) (bs : List Byte) : HomeStep s (putPhys owner a bs s) := by
  induction bs generalizing s a with
  | nil => exact .refl s
  | cons b bs ih =>
    refine HomeStep.trans ?_ (ih _ (a + 1))
    split
    · exact .of_eq
    · unfold putByte
      split
      · exact .refl s
      · exact homeStep_homeStore s _ _ _ _ _

theorem homeStep_logEvent (part kind queue code : Nat) (data : Word) : HomeStep s (logEvent part kind queue code data s) := .of_eq

theorem homeStep_ringBytes (base size at_ : Nat) (bs : List Byte) : HomeStep s (ringBytes base size at_ bs s) := by
  induction bs generalizing s at_ with
  | nil => exact .refl s
  | cons b bs ih => exact (HomeStep.of_eq (t := putHost (base + at_ % size) [b] s)).trans (ih _ _)

theorem homeStep_recordWake (part kind port : Nat) (body : List Byte) : HomeStep s (recordWake part kind port body s) := by
  unfold recordWake
  dsimp only
  split
  · exact HomeStep.trans .of_eq (homeStep_ringBytes _ _ _ _ _)
  · exact .refl s

theorem homeStep_raiseInt (part v : Nat) : HomeStep s (raiseInt part v s) :=
  HomeStep.trans .of_eq (homeStep_recordWake _ _ _ _ _)

theorem homeStep_setPart (p : Nat) (f : Part → Part) : HomeStep s (setPart p f s) := .of_eq

theorem homeStep_raiseTurn (part n : Nat) : HomeStep s (raiseTurn part n s) := by
  induction n generalizing s with
  | zero => exact .refl s
  | succ n ih =>
    unfold raiseTurn
    dsimp only
    split
    · exact .refl s
    split
    · exact ((homeStep_setPart s _ _).trans (homeStep_raiseInt _ _ _)).trans (ih _)
    split
    · exact ((homeStep_setPart s _ _).trans (homeStep_raiseInt _ _ _)).trans (ih _)
    · exact .refl s

theorem homeStep_interrupt (part v : Nat) : HomeStep s (interrupt part v s) := by
  unfold interrupt
  dsimp only
  split
  · exact (homeStep_setPart s _ _).trans (homeStep_raiseTurn _ _ _)
  · exact homeStep_raiseInt s part v

theorem homeStep_doHeld_interrupt (part v : Nat) : HomeStep s (doHeld (.interrupt part v) s) := by
  rw [doHeld]
  split
  · exact homeStep_interrupt s part v
  · exact .of_eq

theorem homeStep_machineCheck (w0 : Word) (pa : Nat) (kv : Bool) (part : Nat) (asid : BitVec 16) :
    HomeStep s (machineCheck w0 pa kv part asid s) := by
  unfold machineCheck machineCheckAt
  dsimp only
  split
  · exact .of_eq
  · refine HomeStep.trans ?_ (homeStep_doHeld_interrupt _ _ _)
    refine HomeStep.trans ?_ (homeStep_logEvent _ _ _ _ _ _)
    exact HomeStep.trans .of_eq (homeStep_putPhys _ _ _ _)

theorem homeStep_noRegionCheck (pa part : Nat) : HomeStep s (noRegionCheck pa part s) := homeStep_machineCheck s _ _ _ _ _

theorem homeStep_portPoison (pa line : Nat) : HomeStep s (portPoison pa line s) := homeStep_machineCheck s _ _ _ _ _

variable {s}

/-- Without an error in the memories, a slice's read finds none. -/
theorem homeStep_checkSectors (line : Nat) (sec : BitVec 4) (h : NoErrors s) : HomeStep s (checkSectors line sec s) := by
  rw [checkSectors_clean line sec h.1 h.2]
  exact .refl s

/-! Translation and the Cox's read of a kernel header (R64, R70, R71, R230). -/

theorem homeStep_walkRead (w : Who) (a : Nat) (h : NoErrors s) : HomeStep s (walkRead w a s).1 := by
  have hc := fun line sec => homeStep_checkSectors line sec h
  unfold walkRead
  split
  · split
    · exact .refl s
    · exact homeStep_noRegionCheck s a _
  · dsimp only
    split
    · exact .refl s
    split
    · exact hc _ _
    split
    · exact hc _ _
    · exact (hc _ _).trans (homeStep_homeServe _ _ _)

theorem homeStep_rootOf (w : Who) (gen : BitVec 16) (h : NoErrors s) : HomeStep s (rootOf w gen s).1 := by
  have hread (u : State) (hu : NoErrors u) := homeStep_walkRead w (u.asidBase.toNat + 16 * w.asid.toNat) hu
  have hfree : HomeStep s (nextFree s) := .of_eq
  unfold rootOf
  dsimp only
  split
  · split
    · exact hfree
    · have hr := hread (nextFree s) h
      split <;> next e => rw [e] at hr; exact (hfree.trans hr).trans .of_eq
  · have hr := hread s h
    split <;> next e => rw [e] at hr; exact hr.trans .of_eq

theorem homeStep_fillTlb1 (s : State) (k : AccKind) (core : Nat) (e : TlbEntry) :
    HomeStep s (if ofEngine k then s else fillTlb1 core e s) := by
  split <;> exact .of_eq

theorem homeStep_walk (w : Who) (gen : BitVec 16) (a : VAddr) (lev t : Nat) (ps : List TlbEntry) (h : NoErrors s) :
    HomeStep s (walk w gen a lev t ps s).1 := by
  induction lev generalizing t ps s with
  | zero => exact .refl s
  | succ lev ih =>
    unfold walk
    dsimp only
    split
    · exact ih _ _ h
    · have hr := homeStep_walkRead w (t + 8 * (a.toNat / 2 ^ (12 + 9 * lev) % 512)) h
      split
      · next e => rw [e] at hr; exact hr
      · next e =>
        rw [e] at hr
        split
        · exact hr
        split
        · exact hr
        split
        · exact hr
        · exact hr.trans (ih _ _ (hr.clean h))

theorem homeStep_lookup (w : Who) (k : AccKind) (a : VAddr) (h : NoErrors s) : HomeStep s (lookup w k a s).1 := by
  have hroot := homeStep_rootOf w (tget 0 s.gens w.asid.toNat) h
  unfold lookup
  dsimp only
  split
  · exact .refl s
  split
  · exact homeStep_fillTlb1 s k _ _
  split
  · next e => rw [e] at hroot; exact hroot
  · next u root e =>
    rw [e] at hroot
    have hw := homeStep_walk w (tget 0 s.gens w.asid.toNat) a 5 root [] (hroot.clean h)
    split
    · next ew =>
      rw [ew] at hw
      exact (hroot.trans hw).trans (HomeStep.trans .of_eq (homeStep_fillTlb1 _ k _ _))
    · exact hroot.trans hw

theorem homeStep_translate (w : Who) (k : AccKind) (a : VAddr) (h : NoErrors s) : HomeStep s (Machine.translate w k a s).1 := by
  have hl := homeStep_lookup w k a h
  unfold Machine.translate
  dsimp only
  split
  · exact .refl s
  split
  · exact .refl s
  split
  · exact .refl s
  · split <;> next e => rw [e] at hl; exact hl

theorem homeStep_translateP (w : Who) (k : AccKind) (a : VAddr) (h : NoErrors s) : HomeStep s (translateP w k a s).1 := by
  have ht := homeStep_translate w k a h
  unfold translateP
  split
  · next e =>
    rw [e] at ht
    split <;> exact ht
  · exact ht

theorem homeStep_coxBytes (part a n : Nat) (h : NoErrors s) : HomeStep s (coxBytes part a n s).1 := by
  have hc := fun line sec => homeStep_checkSectors line sec h
  unfold coxBytes
  split
  · exact homeStep_noRegionCheck s a part
  · dsimp only
    split
    · exact (hc _ _).trans (homeStep_portPoison _ _ _)
    · exact (hc _ _).trans (homeStep_homeServe _ _ _)

theorem homeStep_readHeader (waits : Bool) (asid : BitVec 16) (part : Nat) (entry : VAddr) (h : NoErrors s) :
    HomeStep s (readHeader waits asid part entry s).1 := by
  have ht := homeStep_translateP (coxWho asid part) .load (entry - 64) h
  unfold readHeader
  dsimp only
  split
  · exact .refl s
  · split
    · next e =>
      rw [e] at ht
      split
      · exact ht
      · exact ht.trans (homeStep_coxBytes _ _ _ (ht.clean h))
    · next e => rw [e] at ht; exact ht
    · next e => rw [e] at ht; exact ht

theorem homeStep_rolesOf (l : Launch) (h : NoErrors s) : HomeStep s (rolesOf l s).1 := by
  have hr := homeStep_readHeader false l.asid l.part l.entry h
  unfold rolesOf
  split <;> next e => rw [e] at hr; exact hr

end Sys2Proof.Proofs
end

section
/-! What a core's plan for a team rests on (R223, R384): the core's teams, the modes of its banks and its register blocks.
Placing a team on one core leaves the plans of the others. -/
namespace Sys2Proof.Proofs
open Sys2Proof Sys2Proof.Machine Sys2Proof.Claims

/-- What a plan for a core looks at is the same in two states. -/
structure CoreKept (d : Nat) (s t : State) : Prop where
  teams : t.teams.filter (fun x => x.core = d) = s.teams.filter (fun x => x.core = d)
  mode : ∀ b, b < 48 → (Machine.bankOf t d b).mode = (Machine.bankOf s d b).mode
  next : ∀ b, b < 48 → (Machine.bankOf t d b).next = (Machine.bankOf s d b).next
  blocks : blocksUsed t d = blocksUsed s d

theorem CoreKept.refl (d : Nat) (s : State) : CoreKept d s s := ⟨rfl, fun _ _ => rfl, fun _ _ => rfl, rfl⟩

theorem CoreKept.trans {d : Nat} {s t u : State} (a : CoreKept d s t) (b : CoreKept d t u) : CoreKept d s u :=
  ⟨b.teams.trans a.teams, fun n h => (b.mode n h).trans (a.mode n h), fun n h => (b.next n h).trans (a.next n h),
    b.blocks.trans a.blocks⟩

/-- A test of a core's teams reads them alone. -/
theorem any_core_filter (ts : List Team) (d : Nat) (P : Team → Bool) :
    ts.any (fun t => t.core = d && P t) = (ts.filter (fun x => x.core = d)).any P := by
  rw [List.any_filter]

theorem CoreKept.freeSlot {d : Nat} {s t : State} (h : CoreKept d s t) : freeSlot t d = freeSlot s d := by
  simp only [Machine.freeSlot, any_core_filter, h.teams]

theorem CoreKept.bankTakes {d : Nat} {s t : State} (h : CoreKept d s t) {b : Nat} (hb : b < 48) :
    bankTakes t d b = bankTakes s d b := by
  simp only [Machine.bankTakes, bankAlloc, any_core_filter, h.teams, h.mode b hb, h.next b hb]

/-- A run of banks that a plan tries lies within the core's 48 (R79). -/
theorem bankRun_bound {n b : Nat} (hb : b ∈ List.range (49 - n)) {i : Nat} (hi : i < n) : b + i < 48 := by
  rw [List.mem_range] at hb
  omega

theorem CoreKept.bankRun {d : Nat} {s t : State} (h : CoreKept d s t) (smem : Nat) : bankRun t d smem = bankRun s d smem := by
  unfold Machine.bankRun
  dsimp only
  split
  · rfl
  · refine List.find?_congr fun b hb => ?_
    rw [Bool.eq_iff_iff, List.all_eq_true, List.all_eq_true]
    refine forall₂_congr fun i hi => ?_
    rw [h.bankTakes (bankRun_bound hb (List.mem_range.1 hi))]

/-- The plan of a core that is kept is the same. -/
theorem CoreKept.planTeam {d : Nat} {s t : State} (h : CoreKept d s t) (l : Launch) : planTeam t l d = planTeam s l d := by
  simp only [Machine.planTeam, h.freeSlot, h.bankRun, h.blocks]

/-- A plan's extent lies in the core's banks (R79). -/
theorem planTeam_banks {s : State} {l : Launch} {core : Nat} {p : TeamPlan} (h : planTeam s l core = some p) :
    ∀ i, i < banksFor l.smem → p.base / 0x8000 + i < 48 := by
  intro i hi
  unfold planTeam at h
  split at h
  · next b _ _ hb _ =>
    cases h
    unfold bankRun at hb
    dsimp only at hb
    rw [if_neg (by omega)] at hb
    rw [Nat.mul_div_cancel_left b (by norm_num)]
    exact bankRun_bound (List.mem_of_find?_eq_some hb) hi
  · cases h

theorem HomeStep.coreKept {s t : State} (h : HomeStep s t) (d : Nat) : CoreKept d s t := by
  obtain ⟨f, hf, hc, hg⟩ := h.groups
  have hb (b : Nat) : Machine.bankOf t d b = Machine.bankOf s d b := by rw [Machine.bankOf, Machine.bankOf, h.banks]
  refine ⟨by rw [h.teams], fun b _ => by rw [hb], fun b _ => by rw [hb], ?_⟩
  have hplaced : ((fun g : Group => g.placed) ∘ f) = fun g => g.placed := funext fun g => (hf g).placed
  have hcore : ((fun g : Group => decide (g.core = d)) ∘ f) = fun g => decide (g.core = d) := funext fun g => by
    rw [Function.comp_apply, (hf g).core]
  have hplace : ((fun g : Group => (g.pipe, g.blk, g.nblk)) ∘ f) = fun g => (g.pipe, g.blk, g.nblk) := funext fun g => by
    rw [Function.comp_apply, (hf g).pipe, (hf g).blk, (hf g).nblk]
  rw [blocksUsed, blocksUsed, allGroups, allGroups, hc, hg, ← List.map_cons, List.filter_map, hplaced, List.filter_map, hcore,
    List.map_map, hplace]

/-- Teams of a span of a launch come to some cores: what stood there before stays, every new group stands in the entry state,
and the other cores can take what they could. -/
structure Placing (l : Launch) (span : Nat) (cores : List Nat) (s t : State) : Prop where
  groups : ∀ g ∈ t.groups, (∃ h ∈ s.groups, GroupKept h g) ∨ EntryState l g
  teams : ∀ tm ∈ t.teams, tm ∈ s.teams ∨ (tm.launch = l.id ∧ tm.span = span ∧ tm.core ∈ cores)
  stay : ∀ tm ∈ s.teams, tm ∈ t.teams
  others : ∀ d, d ∉ cores → CoreKept d s t
  launches : t.launches = s.launches
  clean : NoErrors s → NoErrors t

/-- A group in the entry state has no fence: a notice leaves it there. -/
theorem entryState_of_kept {l : Launch} {g h : Group} (hk : GroupKept g h) (he : EntryState l g) : EntryState l h := by
  have hf : g.fence = none := by
    obtain ⟨_, _, _, _, _, _, _, _, _, _, _, _, _, _, _, hf, _⟩ := he
    exact hf
  rw [hk.still hf]
  exact he

section
variable {l : Launch} {span : Nat} {cores : List Nat} {s t u : State}

theorem HomeStep.placing (h : HomeStep s t) : Placing l span cores s t where
  groups := by
    obtain ⟨f, hf, _, hg⟩ := h.groups
    intro g hm
    rw [hg] at hm
    obtain ⟨k, hk, rfl⟩ := List.mem_map.1 hm
    exact .inl ⟨k, hk, hf k⟩
  teams := fun tm hm => .inl (h.teams ▸ hm)
  stay := fun tm hm => h.teams.symm ▸ hm
  others := fun d _ => h.coreKept d
  launches := h.launches
  clean := h.clean

theorem Placing.refl (l : Launch) (span : Nat) (cores : List Nat) (s : State) : Placing l span cores s s := (HomeStep.refl s).placing

theorem Placing.trans (a : Placing l span cores s t) (b : Placing l span cores t u) : Placing l span cores s u where
  groups := fun g hm => by
    rcases b.groups g hm with ⟨h, hh, hk⟩ | he
    · rcases a.groups h hh with ⟨k, hkm, hkk⟩ | he
      · exact .inl ⟨k, hkm, hkk.trans hk⟩
      · exact .inr (entryState_of_kept hk he)
    · exact .inr he
  teams := fun tm hm => (b.teams tm hm).elim (a.teams tm) .inr
  stay := fun tm hm => b.stay tm (a.stay tm hm)
  others := fun d hd => (a.others d hd).trans (b.others d hd)
  launches := b.launches.trans a.launches
  clean := b.clean ∘ a.clean

theorem Placing.mono {cores' : List Nat} (hsub : cores ⊆ cores') (a : Placing l span cores s t) : Placing l span cores' s t where
  groups := a.groups
  teams := fun tm hm => (a.teams tm hm).imp_right fun ⟨h1, h2, h3⟩ => ⟨h1, h2, hsub h3⟩
  stay := a.stay
  others := fun d hd => a.others d fun h => hd (hsub h)
  launches := a.launches
  clean := a.clean

theorem Placing.foldl {α : Type} {f : State → α → State} {xs : List α}
    (hf : ∀ s, ∀ x ∈ xs, Placing l span cores s (f s x)) (s : State) : Placing l span cores s (xs.foldl f s) := by
  induction xs generalizing s with
  | nil => exact .refl l span cores s
  | cons x xs ih => exact (hf s x (by simp)).trans (ih (fun s y hy => hf s y (by simp [hy])) (f s x))

/-- A bank of a core changed. -/
theorem placing_setBank (core b : Nat) (f : Bank → Bank) (s : State)
    (hf : (b < 48 ∧ core ∈ cores) ∨ ∀ x, (f x).mode = x.mode ∧ (f x).next = x.next) : Placing l span cores s (setBank core b f s) := by
  have hbank (d n : Nat) (hd : d ∉ cores) (hn : n < 48) : (Machine.bankOf (setBank core b f s) d n).mode = (Machine.bankOf s d n).mode ∧
      (Machine.bankOf (setBank core b f s) d n).next = (Machine.bankOf s d n).next := by
    unfold Machine.bankOf setBank
    rw [tget_tset]
    split
    · next hkey =>
      rcases hf with ⟨hb, hc⟩ | hf
      · exact absurd hc (by rwa [show core = d by omega])
      · rw [Machine.bankOf, hkey]; exact hf _
    · exact ⟨rfl, rfl⟩
  exact ⟨fun g hg => .inl ⟨g, hg, .refl g⟩, fun _ h => .inl h, fun _ h => h,
    fun d hd => ⟨rfl, fun n hn => (hbank d n hd hn).1, fun n hn => (hbank d n hd hn).2, rfl⟩, rfl, id⟩

theorem placing_leaveFifo (core b : Nat) (s : State) : Placing l span cores s (leaveFifo core b s) := by
  have hfifo (c n : Nat) (f : Fifo → Fifo) (s : State) : Placing l span cores s (setFifo c n f s) :=
    placing_setBank c n _ s (.inr fun _ => ⟨rfl, rfl⟩)
  unfold leaveFifo
  dsimp only
  split
  · exact (hfifo _ _ _ _).trans (hfifo _ _ _ _)
  · exact hfifo _ _ _ _

theorem homeStep_leaveCache (core b : Nat) (s : State) : HomeStep s (leaveCache core b s) := .foldl (fun s c => homeStep_evict s c) _ s

theorem homeStep_clearScratch (core b size : Nat) (s : State) : HomeStep s (clearScratch core b size s) := .of_eq

/-- A switch of a core's bank touches no other core (R80). -/
theorem placing_switchBank {core b : Nat} (hb : b < 48) (hc : core ∈ cores) (m : BankMode) (slot : Nat) (s : State) :
    Placing l span cores s (switchBank core b m slot s) := by
  have hset (f : Bank → Bank) (s : State) : Placing l span cores s (setBank core b f s) := placing_setBank core b f s (.inl ⟨hb, hc⟩)
  have hleave : Placing l span cores s (if (Machine.bankOf s core b).mode == .fifo then leaveFifo core b s
      else if (Machine.bankOf s core b).mode == .cache then leaveCache core b s else s) := by
    split
    · exact placing_leaveFifo core b s
    split
    · exact (homeStep_leaveCache core b s).placing
    · exact .refl l span cores s
  unfold switchBank
  dsimp only
  split
  · exact hset _ s
  split
  · exact (hleave.trans (hset _ _)).trans (homeStep_clearScratch _ _ _ _).placing
  · exact hleave.trans (hset _ _)

/-- A new group stands in the entry state (R17, R347). -/
theorem entryState_newGroup (l : Launch) (t : Team) (roles : List RoleEntry) (s1 : Word) (g pipe blk gid seq : Nat) :
    EntryState l (newGroup l t roles s1 g pipe blk gid seq) := by
  have hregs (r : Nat) : tget 0 (newGroup l t roles s1 g pipe blk gid seq).arch.sregs r =
      if r = 0 then l.data.setWidth 64 else if r = 1 then s1 else 0 := by
    show tget 0 (tset 0 (tset 0 [] 0 (l.data.setWidth 64)) 1 s1) r = _
    rw [tget_tset, tget_tset]
    rcases eq_or_ne r 0 with rfl | h0
    · rfl
    rcases eq_or_ne r 1 with rfl | h1
    · rfl
    · rw [if_neg h1.symm, if_neg h0.symm, if_neg h0, if_neg h1]
      rfl
  have htvec : (newGroup l t roles s1 g pipe blk gid seq).tvec.toNat = l.tvec.toNat / 4 * 4 := by
    show ((l.tvec &&& ~~~3#57).setWidth 64).toNat = _
    rw [show (~~~3#57) = BitVec.allOnes 57 <<< 2 from rfl, ← BitVec.shiftLeft_ushiftRight, BitVec.toNat_setWidth,
      BitVec.toNat_shiftLeft, BitVec.toNat_ushiftRight, Nat.shiftRight_eq_div_pow, Nat.shiftLeft_eq]
    omega
  exact ⟨rfl, rfl, rfl, rfl, rfl, rfl, rfl, by rw [hregs, if_pos rfl],
    fun r hr => by rw [hregs, if_neg (by omega), if_neg (by omega)], rfl, rfl, rfl, rfl, rfl, htvec, rfl, rfl, rfl, rfl, rfl⟩

theorem homeStep_acquireDrop (core : Nat) (device : Bool) (s : State) : HomeStep s (acquireDrop core device s) :=
  homeStep_recallAll s _

theorem homeStep_dropFetched (core : Nat) (s : State) : HomeStep s (dropFetched core s) := .of_eq

/-- A list with one more element that a test refuses passes the same. -/
theorem filter_concat_of_false {α : Type} {p : α → Bool} (xs : List α) {x : α} (h : p x = false) :
    (xs ++ [x]).filter p = xs.filter p := by
  rw [List.filter_append, List.filter_singleton, h, cond_false, List.append_nil]

theorem placing_addTeam {tm : Team} (hl : tm.launch = l.id) (hs : tm.span = span) (hc : tm.core ∈ cores) (s : State) :
    Placing l span cores s { s with teams := s.teams ++ [tm] } where
  groups := fun g hg => .inl ⟨g, hg, .refl g⟩
  teams := fun x hx => (List.mem_append.1 hx).imp_right fun h => by rw [List.mem_singleton.1 h]; exact ⟨hl, hs, hc⟩
  stay := fun _ hx => List.mem_append_left _ hx
  others := fun d hd => ⟨filter_concat_of_false _ (decide_eq_false fun h => hd (h ▸ hc)), fun _ _ => rfl, fun _ _ => rfl, rfl⟩
  launches := rfl
  clean := id

theorem placing_addGroup {g : Group} (he : EntryState l g) (hc : g.core ∈ cores) (gids tick : Nat) (s : State) :
    Placing l span cores s (addGroup g { s with gids := gids, tick := tick }) where
  groups := fun h hh => (List.mem_append.1 hh).imp (fun h' => ⟨h, h', .refl h⟩) fun h' => by
    rw [List.mem_singleton.1 h']
    exact he
  teams := fun _ hx => .inl hx
  stay := fun _ hx => hx
  others := fun d hd => ⟨rfl, fun _ _ => rfl, fun _ _ => rfl, by
    rw [blocksUsed, blocksUsed, allGroups, allGroups, List.filter_filter, List.filter_filter]
    refine congrArg (List.map _) (filter_concat_of_false (s.cur :: s.groups) ?_)
    rw [decide_eq_false fun h : g.core = d => hd (h ▸ hc), Bool.false_and]⟩
  launches := rfl
  clean := id

/-- A team of a launch stands on a core, at its place in its cluster (R221, R223). -/
def TeamOn (l : Launch) (span cluster pos core : Nat) (t : State) : Prop :=
  ∃ tm ∈ t.teams, tm.core = core ∧ tm.launch = l.id ∧ tm.span = span ∧ tm.cluster = cluster ∧ tm.pos = pos ∧ tm.asid = l.asid

theorem TeamOn.stays {cluster pos core : Nat} (h : TeamOn l span cluster pos core s) (hp : Placing l span cores s t) :
    TeamOn l span cluster pos core t := by
  obtain ⟨tm, hm, hrest⟩ := h
  exact ⟨tm, hp.stay tm hm, hrest⟩

/-- A core that has a plan for a team takes it (R223). -/
theorem placeTeam_places (roles : List RoleEntry) (cluster pos core : Nat) (hplan : (planTeam s l core).isSome = true) :
    Placing l span [core] s (placeTeam l roles span cluster pos core s) ∧
      TeamOn l span cluster pos core (placeTeam l roles span cluster pos core s) := by
  have hc : core ∈ [core] := List.mem_singleton_self core
  obtain ⟨p, hp⟩ := Option.isSome_iff_exists.1 hplan
  have hbanks : Placing l span [core] s (takeBanks core (p.base / 0x8000) (banksFor l.smem) s) :=
    .foldl (fun s i hi => placing_switchBank (planTeam_banks hp i (List.mem_range.1 hi)) hc _ _ s) s
  have hbase := ((hbanks.trans (homeStep_clearScratch core p.base (256 * l.smem) _).placing).trans
    (homeStep_acquireDrop core true _).placing).trans (homeStep_dropFetched core _).placing
  unfold placeTeam
  rw [hp]
  dsimp only
  generalize dropFetched core _ = u at hbase ⊢
  generalize htm : (⟨core, p.slot, l.asid, _, _, _, _, _, _, _⟩ : Team) = tm
  have hteam : tm.core = core ∧ tm.launch = l.id ∧ tm.span = span ∧ tm.cluster = cluster ∧ tm.pos = pos ∧ tm.asid = l.asid := by
    rw [← htm]
    exact ⟨rfl, rfl, rfl, rfl, rfl, rfl⟩
  have ⟨htc, htl, hts, _⟩ := hteam
  have hcore : tm.core ∈ [core] := by rw [htc]; exact hc
  have hgroups := Placing.foldl (l := l) (span := span) (xs := List.range l.groups) (fun (s : State) (g : Nat) _ =>
    placing_addGroup (entryState_newGroup l tm roles (BitVec.ofNat 64 (localBase + p.base)) g (p.places.getD g (0, 0)).1
      (p.places.getD g (0, 0)).2 (s.gids + 1) (s.tick + 1)) hcore (s.gids + 1) (s.tick + 1) s)
    { u with teams := u.teams ++ [tm] }
  exact ⟨(hbase.trans (placing_addTeam htl hts hcore u)).trans hgroups,
    TeamOn.stays ⟨tm, List.mem_append_right _ (List.mem_singleton_self tm), hteam⟩ hgroups⟩

end
end Sys2Proof.Proofs
end

section
/-! A span on its cores (R220 to R223, R384): the teams of a cluster, the clusters of a span, and the cores that a packing
answers. -/
namespace Sys2Proof.Proofs
open Sys2Proof Sys2Proof.Machine Sys2Proof.Claims

section
variable {l : Launch} {span : Nat} {s t : State}

/-- The first teams of a cluster, on the cores it has been given. -/
def placeRow (l : Launch) (roles : List RoleEntry) (span cluster : Nat) (cs : List Nat) (k : Nat) (s : State) : State :=
  (List.range k).foldl (fun s i => placeTeam l roles span cluster i (cs.getD i 0) s) s

theorem placeRow_succ (roles : List RoleEntry) (cluster : Nat) (cs : List Nat) (k : Nat) :
    placeRow l roles span cluster cs (k + 1) s =
      placeTeam l roles span cluster k (cs.getD k 0) (placeRow l roles span cluster cs k s) := by
  simp only [placeRow, List.range_succ, List.foldl_append, List.foldl_cons, List.foldl_nil]

/-- The teams of a cluster come to distinct cores that each have a plan: each stands at its place. -/
theorem placeRow_places (roles : List RoleEntry) (cluster : Nat) {cs : List Nat} (hnd : cs.Nodup)
    (hplan : ∀ c ∈ cs, (planTeam s l c).isSome = true) : ∀ k, k ≤ cs.length →
    Placing l span (cs.take k) s (placeRow l roles span cluster cs k s) ∧
      ∀ j core, j < k → cs[j]? = some core → TeamOn l span cluster j core (placeRow l roles span cluster cs k s)
  | 0, _ => ⟨.refl l span _ s, fun _ _ h _ => absurd h (Nat.not_lt_zero _)⟩
  | k + 1, hk => by
    obtain ⟨hrow, hon⟩ := placeRow_places roles cluster hnd hplan k (by omega)
    have hget : cs[k]? = some cs[k] := List.getElem?_eq_getElem (by omega)
    have hD : cs.getD k 0 = cs[k] := by rw [List.getD_eq_getElem?_getD, hget]; rfl
    have hnew : cs[k] ∉ cs.take k := fun hm => by
      obtain ⟨i, hi, he⟩ := List.mem_take_iff_getElem.1 hm
      have := hnd.getElem_inj_iff.1 he
      omega
    have hplan' : (planTeam (placeRow l roles span cluster cs k s) l cs[k]).isSome = true := by
      rw [(hrow.others _ hnew).planTeam]
      exact hplan _ (List.getElem_mem _)
    obtain ⟨hteam, hon'⟩ := placeTeam_places (span := span) roles cluster k cs[k] hplan'
    rw [placeRow_succ, hD]
    have htake : cs.take (k + 1) = cs.take k ++ [cs[k]] := by rw [List.take_succ_eq_append_getElem]
    rw [htake]
    refine ⟨(hrow.mono (List.subset_append_left _ _)).trans (hteam.mono (List.subset_append_right _ _)), fun j core hj hcore => ?_⟩
    rcases Nat.lt_succ_iff_lt_or_eq.1 hj with hlt | rfl
    · exact (hon j core hlt hcore).stays hteam
    · rw [hget] at hcore
      cases hcore
      exact hon'

/-- The clusters of a span come to distinct cores that each have a plan (R221, R223). -/
theorem placeClusters_places (roles : List RoleEntry) : ∀ (css : List (List Nat)) (n : Nat) (s : State), css.flatten.Nodup →
    (∀ c ∈ css.flatten, (planTeam s l c).isSome = true) →
    Placing l span css.flatten s (placeClusters l roles span n css s) ∧
      ∀ i j cl core, css[i]? = some cl → cl[j]? = some core → TeamOn l span (n + i) j core (placeClusters l roles span n css s)
  | [], _, s, _, _ => ⟨.refl l span _ s, fun _ _ _ _ h _ => by simp at h⟩
  | cs :: css, n, s, hnd, hplan => by
    rw [List.flatten_cons] at hnd hplan ⊢
    obtain ⟨hndc, hndr, hdisj⟩ := List.nodup_append'.1 hnd
    obtain ⟨hrow, hon⟩ := placeRow_places (span := span) roles n hndc (fun c hc => hplan c (List.mem_append_left _ hc)) cs.length le_rfl
    rw [List.take_length] at hrow
    have hplan' : ∀ c ∈ css.flatten, (planTeam (placeRow l roles span n cs cs.length s) l c).isSome = true := fun c hc => by
      rw [(hrow.others c fun h => hdisj h hc).planTeam]
      exact hplan c (List.mem_append_right _ hc)
    obtain ⟨hrest, hon'⟩ := placeClusters_places roles css (n + 1) _ hndr hplan'
    refine ⟨(hrow.mono (List.subset_append_left _ _)).trans (hrest.mono (List.subset_append_right _ _)), fun i j cl core hi hj => ?_⟩
    cases i with
    | zero =>
      cases hi
      exact (hon j core (List.getElem?_eq_some_iff.1 hj).1 hj).stays hrest
    | succ i =>
      rw [show n + (i + 1) = n + 1 + i by omega]
      exact hon' i j cl core hi hj

end

/-- The cores of a cluster at an origin on the mesh are distinct (R221). -/
theorem nodup_clusterCores {die w h o : Nat} (ho : o ∈ origins w h) : (clusterCores die w h o).Nodup := by
  have hw : w ≤ 12 := by
    unfold origins at ho
    simp only [List.mem_flatMap, List.mem_map, List.mem_filter, Bool.and_eq_true, decide_eq_true_eq] at ho
    obtain ⟨_, _, c, ⟨_, hc, _⟩, _⟩ := ho
    exact (Nat.le_add_left w c).trans hc
  unfold clusterCores
  refine List.nodup_flatMap.2 ⟨fun i _ => List.nodup_range.map_on fun a _ b _ hab => by omega, ?_⟩
  refine List.nodup_range.imp fun {a b} hab c hc hc' => ?_
  obtain ⟨i, hi, rfl⟩ := List.mem_map.1 hc
  obtain ⟨j, hj, he⟩ := List.mem_map.1 hc'
  rw [List.mem_range] at hi hj
  omega

/-- Clusters are packed on distinct cores that each can take a team and that no earlier cluster has (R220, R384). -/
theorem packClusters_places {ok : Nat → Bool} {die w h : Nat} : ∀ {n : Nat} {used : List Nat} {css : List (List Nat)},
    packClusters ok die w h n used = some css → css.flatten.Nodup ∧ ∀ c ∈ css.flatten, ok c = true ∧ c ∉ used
  | 0, _, _, hp => by cases hp; exact ⟨List.nodup_nil, by simp⟩
  | n + 1, used, css, hp => by
    unfold packClusters at hp
    split at hp
    · cases hp
    · next o ho =>
      obtain ⟨r, hr, rfl⟩ := Option.map_eq_some_iff.1 hp
      obtain ⟨hnd, hfree⟩ := packClusters_places hr
      have hcs := List.find?_some ho
      rw [List.all_eq_true] at hcs
      rw [List.flatten_cons]
      refine ⟨List.nodup_append'.2 ⟨nodup_clusterCores (List.mem_of_find?_eq_some ho), hnd, fun c hc hc' => ?_⟩, fun c hc => ?_⟩
      · exact (hfree c hc').2 (List.mem_append_right _ hc)
      · rcases List.mem_append.1 hc with hc | hc
        · simpa using hcs c hc
        · exact ⟨(hfree c hc).1, fun hu => (hfree c hc).2 (List.mem_append_left _ hu)⟩

end Sys2Proof.Proofs
end

section
/-! A placement round with one candidate or none (R383 to R386), and the stakeboat's events (R382). -/
namespace Sys2Proof.Proofs
open Sys2Proof Sys2Proof.Machine Sys2Proof.Claims
variable {s : State} {die : Nat} {l : Launch}

/-- What a candidate comes from: a launch of the device, one of whose spans on the die is among the candidate's. -/
theorem candidateOf_eq_some {c : Candidate} (h : candidateOf s die l = some c) :
    c.launch = l.id ∧ ∃ x ∈ l.spans, x.die = die ∧ c.spans.contains x.num = true := by
  unfold candidateOf at h
  split at h
  · cases h
  · next x hx =>
    have hmem : x ∈ l.spans := List.mem_of_find?_eq_some hx
    have hdie : x.die = die := by
      unfold spanOn at hx
      simpa using List.find?_some hx
    have hall : x ∈ (if l.cor then l.spans else [x]) := by
      split
      · exact hmem
      · exact List.mem_singleton_self x
    dsimp only at h
    generalize (if l.cor = true then l.spans else [x]) = all at h hall
    split at h
    · split at h
      · cases h
        exact ⟨rfl, x, hmem, hdie, by simpa using ⟨x, hall, rfl⟩⟩
      · cases h
    · next hst =>
      split at h
      · cases h
        exact ⟨rfl, x, hmem, hdie, by simpa using ⟨x, ⟨hall, by rw [hst]⟩, rfl⟩⟩
      · cases h
    · cases h

theorem mem_arrivalOrder {dies : List Nat} (h : l ∈ arrivalOrder s dies) : l ∈ s.launches := by
  unfold arrivalOrder at h
  rw [List.mem_eraseDups, List.mem_flatMap] at h
  obtain ⟨k, hk, hl⟩ := h
  rcases List.mem_append.1 hl with hl | hl
  · obtain ⟨d, _, hd⟩ := List.mem_flatMap.1 hl
    split at hd
    · exact (List.mem_filter.1 hd).1
    · cases hd
  · rw [List.mem_singleton.1 hl]
    exact hk

theorem mem_candidates {c : Candidate} (h : c ∈ candidates s die) : ∃ k ∈ s.launches, candidateOf s die k = some c := by
  unfold candidates candidatesOn at h
  obtain ⟨p, _, hp⟩ := List.mem_flatMap.1 h
  obtain ⟨k, hk, hc⟩ := List.mem_flatMap.1 (List.mem_filter.1 hp).1
  rw [List.mem_eraseDups] at hc
  obtain ⟨d, hd, he⟩ := List.mem_filterMap.1 hc
  rw [List.mem_singleton.1 hd] at he
  exact ⟨k, mem_arrivalOrder hk, he⟩

/-- Copies of one element count once. -/
theorem eraseDups_cons_of_forall_eq {α : Type} [DecidableEq α] {a : α} {xs : List α} (h : ∀ x ∈ xs, x = a) : (a :: xs).eraseDups = [a] := by
  rw [List.eraseDups_cons, List.filter_eq_nil_iff.2 fun x hx => by simp [h x hx], List.eraseDups_nil]

/-- A die whose candidates have their spans on it alone runs its round alone (R386). -/
theorem jointDies_alone (h : ∀ c ∈ candidates s die, ∀ d ∈ diesOf s c, d = die) (n : Nat) : jointDies s n [die] = [die] := by
  induction n with
  | zero => rfl
  | succ n ih =>
    rw [jointDies]
    have hds : [die].flatMap (fun d => (candidates s d).flatMap (diesOf s)) = (candidates s die).flatMap (diesOf s) := by
      rw [List.flatMap_singleton]
    rw [hds, List.singleton_append, eraseDups_cons_of_forall_eq, ih]
    intro d hd
    obtain ⟨c, hc, hd⟩ := List.mem_flatMap.1 hd
    exact h c hc d hd

/-- The state in which a round of a die alone tries its candidates: none is due there any more. -/
def roundBegun (die : Nat) (s : State) : State := { s with roundDue := s.roundDue.filter (fun d => d ≠ die) }

/-- A round of a die alone: its candidates in turn, and those left are known there. -/
theorem placementRound_alone (h : ∀ c ∈ candidates s die, ∀ d ∈ diesOf s c, d = die) :
    placementRound die s = noteLeft (candidates s die) ((candidates s die).foldl tryCandidate (roundBegun die s)) die := by
  have hdue : (fun d => !([die].contains d)) = fun d : Nat => decide (d ≠ die) := funext fun d => by
    by_cases hd : d = die <;> simp [hd]
  unfold placementRound
  rw [jointDies_alone h]
  dsimp only
  rw [hdue]
  rfl

/-- A round without a candidate (R385). -/
theorem placementRound_none (h : candidates s die = []) : placementRound die s =
    { s with roundDue := s.roundDue.filter (fun d => d ≠ die), known := s.known.filter (fun k => k.1 ≠ die) } := by
  rw [placementRound_alone (by rw [h]; simp), h]
  simp [noteLeft, roundBegun]

/-- Launches of distinct identities: the one found is the only one of its identity. -/
theorem launch_unique (hid : s.launches.Pairwise (fun y z => y.id ≠ z.id)) {y z : Launch} (hy : y ∈ s.launches) (hz : z ∈ s.launches)
    (h : y.id = z.id) : y = z := List.inj_on_of_nodup_map (List.pairwise_map.2 hid) hy hz h

/-- In a round with one candidate of one span, that span is on the die, and no other die shares the candidate. -/
theorem diesOf_candidate {c : Candidate} {x : Span} (hid : s.launches.Pairwise (fun y z => y.id ≠ z.id))
    (hc : c ∈ candidates s die) (hl : s.launches.find? (fun y => y.id = c.launch) = some l)
    (hx : l.spans.filter (fun y => c.spans.contains y.num) = [x]) : ∀ d ∈ diesOf s c, d = die := by
  have hlmem : l ∈ s.launches := List.mem_of_find?_eq_some hl
  have hlid : l.id = c.launch := by simpa using List.find?_some hl
  have honly : ∀ k ∈ s.launches, k.id = c.launch → k = l := fun k hk hkid => launch_unique hid hk hlmem (hkid.trans hlid.symm)
  obtain ⟨k, hk, hof⟩ := mem_candidates hc
  obtain ⟨hkl, y, hy, hydie, hyc⟩ := candidateOf_eq_some hof
  rw [honly k hk hkl.symm] at hy
  have hyx : y ∈ l.spans.filter (fun y => c.spans.contains y.num) := List.mem_filter.2 ⟨hy, hyc⟩
  rw [hx, List.mem_singleton] at hyx
  intro d hd
  obtain ⟨k, hk, hd⟩ := List.mem_flatMap.1 hd
  obtain ⟨hk, hkid⟩ := List.mem_filter.1 hk
  rw [honly k hk (of_decide_eq_true hkid), hx, List.map_singleton, List.mem_singleton] at hd
  rw [hd, ← hyx, hydie]

/-- A candidate of one span that waits: it is placed where the marshal would pack it, and ages where it fits nowhere (R385). -/
theorem tryCandidate_fits {c : Candidate} {x : Span} {cs : List (List Nat)} (hl : s.launches.find? (fun y => y.id = c.launch) = some l)
    (hx : l.spans.filter (fun y => c.spans.contains y.num) = [x]) (hst : x.st = .waiting) (hp : packSpan s l x = some cs) :
    tryCandidate s c = placeSpan l x cs s := by
  have hplan : planSpan s l x = some (.fresh cs) := by simp [planSpan, hst, hp]
  rw [tryCandidate, hl]
  dsimp only
  rw [hx, List.map_singleton, hplan]
  rfl

theorem tryCandidate_ages {c : Candidate} {x : Span} (hl : s.launches.find? (fun y => y.id = c.launch) = some l)
    (hx : l.spans.filter (fun y => c.spans.contains y.num) = [x]) (hst : x.st = .waiting) (hp : packSpan s l x = none) :
    tryCandidate s c = ageSpan l s x := by
  have hplan : planSpan s l x = none := by simp [planSpan, hst, hp]
  rw [tryCandidate, hl]
  dsimp only
  rw [hx, List.map_singleton, hplan]
  rfl

theorem homeStep_roundBegun (die : Nat) (s : State) : HomeStep s (roundBegun die s) := .of_eq

/-- Where the marshal would place a span does not depend on the dies where a round is due. -/
theorem packSpan_roundBegun (x : Span) : packSpan (roundBegun die s) l x = packSpan s l x := by
  have htake : canTake (roundBegun die s) l = canTake s l := funext fun core => by
    rw [canTake, canTake, ((homeStep_roundBegun die s).coreKept core).planTeam]
    rfl
  rw [packSpan, packSpan, htake]

/-- A launch without a time is not late (R382). -/
theorem noteLate_untimed {id : Nat} (h : ∀ y ∈ s.launches, y.id = id → y.timed = none) : noteLate id s = s := by
  unfold noteLate
  split
  · rfl
  · next l hl =>
    rw [h l (List.mem_of_find?_eq_some hl) (by simpa using List.find?_some hl)]

/-- A span of a launch after a change: the spans of its number have been changed. -/
theorem mem_setSpan {id num : Nat} {f : Span → Span} {y : Launch} (hy : y ∈ (setSpan id num f s).launches) :
    ∃ k ∈ s.launches, y.id = k.id ∧ y.timed = k.timed ∧
      (k.id = id → y.spans = k.spans.map (fun x => if x.num = num then f x else x)) := by
  obtain ⟨k, hk, rfl⟩ := List.mem_map.1 hy
  refine ⟨k, hk, ?_⟩
  split
  · exact ⟨rfl, rfl, fun _ => rfl⟩
  · next h => exact ⟨rfl, rfl, fun h' => absurd h' h⟩

/-- Every span of the number in a launch of the identity has been changed. -/
theorem span_of_setSpan {id num : Nat} {f : Span → Span} {y : Launch}
    (hy : y ∈ (setSpan id num f s).launches) (hid : y.id = id) {z : Span} (hz : z ∈ y.spans) (hn : z.num = num) : ∃ x, z = f x := by
  obtain ⟨k, _, hyk, _, hspans⟩ := mem_setSpan hy
  rw [hspans (hyk.symm.trans hid)] at hz
  obtain ⟨x, _, rfl⟩ := List.mem_map.1 hz
  by_cases hx : x.num = num
  · exact ⟨x, if_pos hx⟩
  · rw [if_neg hx] at hn
    exact absurd hn hx

/-- A span placed on distinct cores that each have a plan (R222, R223). -/
theorem placeSpan_places {x : Span} {cs : List (List Nat)} (hclean : NoErrors s) (htimed : ∀ y ∈ s.launches, y.id = l.id → y.timed = none)
    (hnd : cs.flatten.Nodup) (hplan : ∀ c ∈ cs.flatten, (planTeam s l c).isSome = true) :
    ∃ u, placeSpan l x cs s = setSpan l.id x.num placedSpan u ∧ Placing l x.num cs.flatten s u ∧
      ∀ i j cl core, cs[i]? = some cl → cl[j]? = some core → TeamOn l x.num i j core u := by
  have hstart : HomeStep s (startContext l.asid l.part s) := by
    unfold startContext
    split <;> exact .of_eq
  have hread := hstart.trans (homeStep_rolesOf l (hstart.clean hclean))
  have hplan' (c : Nat) (hc : c ∈ cs.flatten) : (planTeam (rolesOf l (startContext l.asid l.part s)).1 l c).isSome = true := by
    rw [(hread.coreKept c).planTeam]
    exact hplan c hc
  obtain ⟨hplaced, hon⟩ := placeClusters_places (span := x.num) (rolesOf l (startContext l.asid l.part s)).2 cs 0 _ hnd hplan'
  have hall := hread.placing.trans hplaced
  refine ⟨_, noteLate_untimed fun y hy hyid => ?_, hall, fun i j cl core hi hj => ?_⟩
  · obtain ⟨k, hk, hyk, hyt, _⟩ := mem_setSpan hy
    rw [hall.launches] at hk
    rw [hyt]
    exact htimed k hk (hyk.symm.trans hyid)
  · have := hon i j cl core hi hj
    rwa [Nat.zero_add] at this

/-- A round with one candidate of one waiting span tries it alone. -/
theorem placementRound_one {c : Candidate} {x : Span} (hid : s.launches.Pairwise (fun y z => y.id ≠ z.id))
    (hc : candidates s die = [c]) (hl : s.launches.find? (fun y => y.id = c.launch) = some l)
    (hx : l.spans.filter (fun y => c.spans.contains y.num) = [x]) :
    placementRound die s = noteLeft [c] (tryCandidate (roundBegun die s) c) die := by
  have halone : ∀ k ∈ candidates s die, ∀ d ∈ diesOf s k, d = die := by
    rw [hc]
    intro k hk
    rw [List.mem_singleton.1 hk]
    exact diesOf_candidate hid (by rw [hc]; exact List.mem_singleton_self c) hl hx
  rw [placementRound_alone halone, hc]
  rfl

/-- A round that finds the Cox idle runs. -/
theorem exec_placementRound (h : coxIdle s = true) : exec (.placementRound die) s = .next (placementRound die s) := by
  show Host.Outcome.next (if coxIdle s = true then placementRound die s else s) = _
  rw [if_pos h]

/-- What a round with one candidate of one waiting span leaves where the span fits (R17, R223, R384). -/
theorem placementRound_fits {c : Candidate} {x : Span} {cs : List (List Nat)} (hclean : NoErrors s)
    (hid : s.launches.Pairwise (fun y z => y.id ≠ z.id)) (hc : candidates s die = [c])
    (hl : s.launches.find? (fun y => y.id = c.launch) = some l) (hx : l.spans.filter (fun y => c.spans.contains y.num) = [x])
    (hst : x.st = .waiting) (htimed : l.timed = none) (hp : packSpan s l x = some cs) :
    ∃ u, placementRound die s = noteLeft [c] (setSpan l.id x.num placedSpan u) die ∧ Placing l x.num cs.flatten s u ∧
      ∀ i j cl core, cs[i]? = some cl → cl[j]? = some core → TeamOn l x.num i j core u := by
  have hbegun := homeStep_roundBegun die s
  have hlaunch : ∀ y ∈ (roundBegun die s).launches, y.id = l.id → y.timed = none := fun y hy hyid => by
    rw [launch_unique hid hy (List.mem_of_find?_eq_some hl) hyid, htimed]
  obtain ⟨hnd, hok⟩ := packClusters_places hp
  have hplan (d : Nat) (hd : d ∈ cs.flatten) : (planTeam (roundBegun die s) l d).isSome = true := by
    have htake := (hok d hd).1
    rw [canTake, Bool.and_eq_true] at htake
    rw [(hbegun.coreKept d).planTeam]
    exact htake.2
  obtain ⟨u, hu, hplacing, hon⟩ := placeSpan_places (x := x) (hbegun.clean hclean) hlaunch hnd hplan
  refine ⟨u, ?_, hbegun.placing.trans hplacing, hon⟩
  rw [placementRound_one hid hc hl hx, tryCandidate_fits (s := roundBegun die s) hl hx hst ((packSpan_roundBegun x).trans hp), hu]

/-- Nothing but the launches and what the marshal notes of its rounds differs. -/
def MarshalOnly (s t : State) : Prop := t = { s with launches := t.launches, roundDue := t.roundDue, known := t.known }

theorem MarshalOnly.sameBytes {s t : State} (h : MarshalOnly s t) : SameBytes s t := by
  rw [h]
  exact sameBytes_of_eq rfl rfl rfl rfl rfl

/-- A round that ages its candidate changes the launches and the marshal's notes alone (R385). -/
theorem marshalOnly_ages (c : Candidate) (l : Launch) (s : State) (die : Nat) (x : Span) :
    MarshalOnly s (noteLeft [c] (ageSpan l (roundBegun die s) x) die) := by
  simp only [MarshalOnly, noteLeft, ageSpan, setSpan, setLaunch, roundBegun]

/-- The rounds of R383 to R386: not begun, without a candidate, and with one that fits or does not. -/
theorem placementRounds : PlacementRounds := by
  refine ⟨fun s die hidle => ?_, fun s die hidle hnone => ?_,
    fun s die c l x hidle hclean hid hc hl hx hst htimed => ⟨fun cs hp => ?_, fun hp => ?_⟩⟩
  · exact ⟨s, congrArg _ (if_neg (by rw [hidle]; exact Bool.false_ne_true)), rfl⟩
  · rw [Completes, exec_placementRound hidle, placementRound_none hnone]
    exact ⟨_, rfl, sameBytes_of_eq rfl rfl rfl rfl rfl, rfl⟩
  · obtain ⟨u, hu, hplacing, hon⟩ := placementRound_fits hclean hid hc hl hx hst htimed hp
    refine ⟨_, (exec_placementRound hidle).trans (congrArg _ hu), fun d hd => ((packClusters_places hp).2 d hd).1, hon,
      fun g hg => ?_, hplacing.teams, fun y hy hyid z hz hzn => ?_⟩
    · exact (hplacing.groups g hg).imp_left fun ⟨h, hh, hk⟩ => ⟨h, hh, hk.gid.symm⟩
    · obtain ⟨w, rfl⟩ := span_of_setSpan (f := placedSpan) hy hyid hz hzn
      rfl
  · have hround : placementRound die s = noteLeft [c] (ageSpan l (roundBegun die s) x) die := by
      rw [placementRound_one hid hc hl hx, tryCandidate_ages (s := roundBegun die s) hl hx hst ((packSpan_roundBegun x).trans hp)]
    have honly := marshalOnly_ages c l s die x
    refine ⟨_, (exec_placementRound hidle).trans (congrArg _ hround), honly, honly.sameBytes, fun y hy hyid z hz hzn => ?_⟩
    · unfold ageSpan at hy
      dsimp only at hy
      obtain ⟨w, rfl⟩ := span_of_setSpan hy hyid hz hzn
      rfl

theorem recordWake_off {part : Nat} (kind port : Nat) (body : List Byte) (h : (partOf s part).record = false) :
    recordWake part kind port body s = s := by
  simp [recordWake, h]

/-- The stakeboat's release and the start of a TIMED launch (R382). -/
theorem timedLaunches : TimedLaunches := by
  refine ⟨fun s id l t0 lead hl ht hrec => ?_, fun s id l t0 lead hl ht => ?_⟩
  · have hexec : exec (.stakeboatRelease id) s = .next { s with
        clock := max s.clock (t0 - lead), launches := s.launches.filter (fun x => x.id ≠ id) ++ [{ l with held := false }] } := by
      show execStakeboatRelease id s = _
      rw [execStakeboatRelease, hl]
      dsimp only
      rw [ht]
      dsimp only
      rw [recordWake_off (s := { s with clock := max s.clock (t0 - lead) }) _ _ _ hrec]
      simp only [decide_not]
    exact ⟨_, hexec, rfl, sameBytes_of_eq rfl rfl rfl rfl rfl⟩
  · have hexec : exec (.timedStart id) s = .next (setLaunch id (fun x => { x with started := true }) { s with clock := max s.clock t0 }) := by
      show execTimedStart id s = _
      rw [execTimedStart, hl]
      dsimp only
      rw [ht]
    exact ⟨_, hexec, rfl, sameBytes_of_eq rfl rfl rfl rfl rfl⟩

/-- Settles O49: a packing answers distinct cores that each have a plan, what a placement does before it reaches a core keeps
that core's plan, and a span that no packing holds only ages; a TIMED launch leaves and starts by its two events. -/
theorem placementAndStart : Obligations.PlacementAndStart := ⟨placementRounds, timedLaunches⟩

end Sys2Proof.Proofs
end

section
/-! Fields of an encoding (R21, R26 to R39): which bits a mask lets a field have, what a laid-out field reads back as, and that
the code tables of the types, modes and scopes invert each other. -/
namespace Sys2Proof.Proofs
open Sys2Proof

/-- No bit of `x` outside the mask `m` is set. -/
def Within {n : Nat} (x m : BitVec n) : Prop := x &&& ~~~m = 0

theorem append_eq_zero {n k : Nat} {x : BitVec n} {y : BitVec k} : x ++ y = 0#(n + k) ↔ x = 0#n ∧ y = 0#k := by
  constructor
  · intro h
    have hx := congrArg (fun z => z.extractLsb' k n) h
    have hy := congrArg (fun z => z.extractLsb' 0 k) h
    simp only [BitVec.extractLsb'_append_eq_left, BitVec.extractLsb'_append_eq_right, BitVec.extractLsb'_zero] at hx hy
    exact ⟨hx, hy⟩
  · rintro ⟨rfl, rfl⟩
    exact BitVec.zero_append_zero

theorem within_append {n k : Nat} {x a : BitVec n} {y b : BitVec k} : Within (x ++ y) (a ++ b) ↔ Within x a ∧ Within y b := by
  unfold Within
  rw [BitVec.not_append, BitVec.and_append]
  exact append_eq_zero

theorem within_ofBool {a b : Bool} : Within (BitVec.ofBool a) (BitVec.ofBool b) ↔ (a = true → b = true) := by
  unfold Within
  revert a b
  decide

@[simp] theorem within_zero {n : Nat} (x : BitVec n) : Within x 0#n ↔ x = 0#n := by simp [Within]
@[simp] theorem within_allOnes {n : Nat} (x : BitVec n) : Within x (BitVec.allOnes n) ↔ True := by simp [Within]

@[simp] theorem within_all3 (x : BitVec 3) : Within x 7#3 ↔ True := within_allOnes x

/-- A field whose high bits are reserved is its low part under zeros. -/
theorem within_low {n k : Nat} {x : BitVec (n + k)} : Within x (0#n ++ BitVec.allOnes k) ↔ 0#n ++ x.extractLsb' 0 k = x := by
  have hx : x.extractLsb' k n ++ x.extractLsb' 0 k = x := BitVec.extractLsb'_append_extractLsb'
  constructor
  · intro h
    rw [← hx, within_append, within_zero] at h
    rw [← h.1, hx]
  · intro h
    rw [← h, within_append, within_zero, within_allOnes]
    exact ⟨rfl, trivial⟩

/-- A slice of a joined word that lies in its low part, or in its high part. -/
@[simp] theorem slice_append_low {n k s m : Nat} {x : BitVec n} {y : BitVec k} (h : s + m ≤ k) :
    (HAppend.hAppend (γ := BitVec (no_index _)) x y).extractLsb' s m = y.extractLsb' s m :=
  BitVec.extractLsb'_append_eq_of_add_le h
@[simp] theorem slice_append_high {n k s m : Nat} {x : BitVec n} {y : BitVec k} (h : k ≤ s) :
    (HAppend.hAppend (γ := BitVec (no_index _)) x y).extractLsb' s m = x.extractLsb' (s - k) m :=
  BitVec.extractLsb'_append_eq_of_le h
@[simp] theorem bit_append {n k s : Nat} {x : BitVec n} {y : BitVec k} (h : s < n + k) :
    (HAppend.hAppend (γ := BitVec (no_index _)) x y)[s]'h = if s < k then y.getLsbD s else x.getLsbD (s - k) := by
  rw [← BitVec.getLsbD_eq_getElem, BitVec.getLsbD_append]

theorem ofBool_getLsbD {n : Nat} (x : BitVec n) (k : Nat) : BitVec.ofBool (x.getLsbD k) = x.extractLsb' k 1 := by
  ext i hi
  obtain rfl : i = 0 := by omega
  simp

/-- Two neighbouring slices joined. -/
theorem slice_join {n : Nat} (x : BitVec n) (s k m : Nat) : x.extractLsb' (s + k) m ++ x.extractLsb' s k = x.extractLsb' s (m + k) :=
  BitVec.extractLsb'_append_extractLsb'_eq_extractLsb' rfl

/-! The register fields (R32). -/

@[simp] theorem within_z {x : BitVec 8} : Within x (fkindMask .z) ↔ x = 0 := within_zero x
@[simp] theorem within_v {x : BitVec 8} : Within x (fkindMask .v) ↔ True := within_allOnes x
@[simp] theorem within_s {x : BitVec 8} : Within x (fkindMask .s) ↔ sreg (x.extractLsb' 0 6) = x := within_low (n := 2) (k := 6)
@[simp] theorem within_p {x : BitVec 8} : Within x (fkindMask .p) ↔ preg (x.extractLsb' 0 3) = x := within_low (n := 5) (k := 3)
@[simp] theorem within_q {x : BitVec 8} : Within x (fkindMask .q) ↔ qreg (x.extractLsb' 0 4) = x := within_low (n := 4) (k := 4)

/-! The modifier bits (R29): m11 to m6, m5, m4, m3 and m2 to m0. -/

theorem mods_eta (x : BitVec 12) :
    mods (x.extractLsb' 6 6) (x.getLsbD 5) (x.getLsbD 4) (x.getLsbD 3) (x.extractLsb' 0 3) = x := by
  rw [mods, ofBool_getLsbD, ofBool_getLsbD, ofBool_getLsbD, slice_join x 5 1 6, slice_join x 4 1 7, slice_join x 3 1 8,
    slice_join x 0 3 9]
  exact BitVec.extractLsb'_eq_self

@[simp] theorem mods_bit5 (a : BitVec 6) (b c d : Bool) (e : BitVec 3) : (mods a b c d e)[5] = b := by simp [mods]
@[simp] theorem mods_bit4 (a : BitVec 6) (b c d : Bool) (e : BitVec 3) : (mods a b c d e)[4] = c := by simp [mods]
@[simp] theorem mods_bit3 (a : BitVec 6) (b c d : Bool) (e : BitVec 3) : (mods a b c d e)[3] = d := by simp [mods]
@[simp] theorem mods_high (a : BitVec 6) (b c d : Bool) (e : BitVec 3) : (mods a b c d e).extractLsb' 6 6 = a := by simp [mods]
@[simp] theorem mods_low {s m : Nat} (a : BitVec 6) (b c d : Bool) (e : BitVec 3) (h : s + m ≤ 3) :
    (mods a b c d e).extractLsb' s m = e.extractLsb' s m := slice_append_low h
@[simp] theorem mods_zero : mods 0#6 false false false 0#3 = 0#12 := rfl

theorem mods_eq_iff {a : BitVec 6} {b c d : Bool} {e : BitVec 3} {x : BitVec 12} :
    mods a b c d e = x ↔ x.extractLsb' 6 6 = a ∧ x[5] = b ∧ x[4] = c ∧ x[3] = d ∧ x.extractLsb' 0 3 = e := by
  constructor
  · rintro rfl
    simp
  · rintro ⟨rfl, rfl, rfl, rfl, rfl⟩
    exact mods_eta x

theorem within_mods {a : BitVec 6} {b c d : Bool} {e : BitVec 3} {x : BitVec 12} :
    Within x (mods a b c d e) ↔ Within (x.extractLsb' 6 6) a ∧ (x[5] = true → b = true) ∧ (x[4] = true → c = true) ∧
      (x[3] = true → d = true) ∧ Within (x.extractLsb' 0 3) e := by
  conv_lhs => rw [← mods_eta x]
  simp only [mods, within_append, within_ofBool, and_assoc]
  rfl

/-- The masks of the modifier bits that entries use (R42 to R53): a field that keeps to one is laid out from its assigned bits. -/
@[simp] theorem within_m0 {x : BitVec 12} : Within x 1#12 ↔ 0#11 ++ BitVec.ofBool x[0] = x := by
  rw [← BitVec.getLsbD_eq_getElem, ofBool_getLsbD]
  exact within_low (n := 11) (k := 1)
@[simp] theorem within_m1m0 {x : BitVec 12} : Within x 3#12 ↔ mods 0 false false false (0#1 ++ x.extractLsb' 0 2) = x := by
  rw [show 3#12 = mods 0 false false false (0#1 ++ BitVec.allOnes 2) from rfl, within_mods, within_low (n := 1) (k := 2), mods_eq_iff]
  simp [eq_comm (a := x.extractLsb' 0 3)]
@[simp] theorem within_m2m0 {x : BitVec 12} : Within x 7#12 ↔ mods 0 false false false (x.extractLsb' 0 3) = x := by
  rw [show 7#12 = mods 0 false false false (BitVec.allOnes 3) from rfl, within_mods, mods_eq_iff]
  simp
@[simp] theorem within_m3 {x : BitVec 12} : Within x 8#12 ↔ mods 0 false false x[3] 0 = x := by
  rw [show 8#12 = mods 0 false false true 0 from rfl, within_mods, mods_eq_iff]
  simp
@[simp] theorem within_m3m0 {x : BitVec 12} : Within x 15#12 ↔ mods 0 false false x[3] (x.extractLsb' 0 3) = x := by
  rw [show 15#12 = mods 0 false false true (BitVec.allOnes 3) from rfl, within_mods, mods_eq_iff]
  simp
@[simp] theorem within_m4 {x : BitVec 12} : Within x 16#12 ↔ mods 0 false x[4] false 0 = x := by
  rw [show 16#12 = mods 0 false true false 0 from rfl, within_mods, mods_eq_iff]
  simp
theorem within_m4m0 {x : BitVec 12} : Within x 31#12 ↔ mods 0 false x[4] x[3] (x.extractLsb' 0 3) = x := by
  rw [show 31#12 = mods 0 false true true (BitVec.allOnes 3) from rfl, within_mods, mods_eq_iff]
  simp
theorem within_fence {x : BitVec 12} : Within x 31#12 ↔ 0#7 ++ x.extractLsb' 2 3 ++ x.extractLsb' 0 2 = x := by
  rw [BitVec.append_assoc, slice_join x 0 2 3]
  exact within_low (n := 7) (k := 5)
@[simp] theorem within_m5m3m0 {x : BitVec 12} : Within x 47#12 ↔ mods 0 x[5] false x[3] (x.extractLsb' 0 3) = x := by
  rw [show 47#12 = mods 0 true false true (BitVec.allOnes 3) from rfl, within_mods, mods_eq_iff]
  simp
@[simp] theorem within_m5m0 {x : BitVec 12} : Within x 63#12 ↔ 0#6 ++ BitVec.ofBool x[5] ++ x.extractLsb' 0 5 = x := by
  rw [← BitVec.getLsbD_eq_getElem, ofBool_getLsbD, BitVec.append_assoc, slice_join x 0 5 1]
  exact within_low (n := 6) (k := 6)
@[simp] theorem within_m6m0 {x : BitVec 12} : Within x 127#12 ↔ 0#5 ++ x.extractLsb' 4 3 ++ BitVec.ofBool x[3] ++ x.extractLsb' 0 3 = x := by
  rw [← BitVec.getLsbD_eq_getElem, ofBool_getLsbD, BitVec.append_assoc, slice_join x 0 3 1, BitVec.append_assoc, slice_join x 0 (1 + 3) 3]
  exact within_low (n := 5) (k := 7)

/-! The literal and the extension field (R30, R31). -/

@[simp] theorem within_lit {x : BitVec 32} : Within x 4294967295#32 ↔ True := within_allOnes x
@[simp] theorem within_lit2 {x : BitVec 32} : Within x 3#32 ↔ 0#30 ++ x.extractLsb' 0 2 = x := within_low (n := 30) (k := 2)
@[simp] theorem within_lit5 {x : BitVec 32} : Within x 31#32 ↔ 0#27 ++ x.extractLsb' 0 5 = x := within_low (n := 27) (k := 5)
@[simp] theorem within_lit6 {x : BitVec 32} : Within x 63#32 ↔ 0#26 ++ x.extractLsb' 0 6 = x := within_low (n := 26) (k := 6)
@[simp] theorem within_lit12 {x : BitVec 32} : Within x 4095#32 ↔ 0#20 ++ x.extractLsb' 0 12 = x := within_low (n := 20) (k := 12)
@[simp] theorem within_lit16 {x : BitVec 32} : Within x 65535#32 ↔ 0#16 ++ x.extractLsb' 0 16 = x := within_low (n := 16) (k := 16)
@[simp] theorem within_bank {x : BitVec 32} : Within x 831#32 ↔ 0#22 ++ x.extractLsb' 8 2 ++ 0#2 ++ x.extractLsb' 0 6 = x := by
  have hx : x.extractLsb' 10 22 ++ x.extractLsb' 8 2 ++ x.extractLsb' 6 2 ++ x.extractLsb' 0 6 = x := by
    rw [slice_join x 8 2 22, slice_join x 6 2 24, slice_join x 0 6 26]
    exact BitVec.extractLsb'_eq_self
  constructor
  · intro h
    rw [← hx, show 831#32 = 0#22 ++ BitVec.allOnes 2 ++ 0#2 ++ BitVec.allOnes 6 from rfl] at h
    simp only [within_append, within_zero] at h
    rw [← h.1.1.1, ← h.1.2, hx]
  · intro h
    rw [← h, show 831#32 = 0#22 ++ BitVec.allOnes 2 ++ 0#2 ++ BitVec.allOnes 6 from rfl]
    simp only [within_append, within_zero, within_allOnes, and_self]
@[simp] theorem within_ext2 {x : BitVec 18} : Within x 3#18 ↔ 0#16 ++ x.extractLsb' 0 2 = x := within_low (n := 16) (k := 2)
@[simp] theorem within_ext5 {x : BitVec 18} : Within x 31#18 ↔ 0#13 ++ x.extractLsb' 0 5 = x := within_low (n := 13) (k := 5)
@[simp] theorem within_ext8 {x : BitVec 18} : Within x 255#18 ↔ 0#10 ++ x.extractLsb' 0 8 = x := within_low (n := 10) (k := 8)


end Sys2Proof.Proofs
end

section
/-! The code tables of the types, modes and scopes (R34 to R39, R47, R48) invert each other: a code is read as the value that it is
the code of, and every other code is refused. -/
namespace Sys2Proof.Proofs
open Sys2Proof

theorem tyOf_eq_some {c : BitVec 5} {t : Ty} : tyOf c = some t ↔ tyCode t = c :=
  ⟨(by decide : ∀ c, ∀ t ∈ tyOf c, tyCode t = c) c t, fun h => h ▸ by cases t <;> rfl⟩
theorem rndOf_eq_some {c : BitVec 3} {n : Rnd} : rndOf c = some n ↔ rndCode n = c :=
  ⟨(by decide : ∀ c, ∀ n ∈ rndOf c, rndCode n = c) c n, fun h => h ▸ by cases n <;> rfl⟩
theorem condOf_eq_some {c : BitVec 3} {d : Cond} : condOf c = some d ↔ condCode d = c :=
  ⟨(by decide : ∀ c, ∀ d ∈ condOf c, condCode d = c) c d, fun h => h ▸ by cases d <;> rfl⟩
theorem scopeOf_eq_some {c : BitVec 3} {s : Scope} : scopeOf c = some s ↔ scopeCode s = c :=
  ⟨(by decide : ∀ c, ∀ s ∈ scopeOf c, scopeCode s = c) c s, fun h => h ▸ by cases s <;> rfl⟩
theorem fenceOf_eq_some {c : BitVec 2} {k : FenceKind} : fenceOf c = some k ↔ fenceCode k = c :=
  ⟨(by decide : ∀ c, ∀ k ∈ fenceOf c, fenceCode k = c) c k, fun h => h ▸ by cases k <;> rfl⟩
theorem reqOf_eq_some {c : BitVec 3} {q : ReqTy} : reqOf c = some q ↔ reqCode q = c :=
  ⟨(by decide : ∀ c, ∀ q ∈ reqOf c, reqCode q = c) c q, fun h => h ▸ by cases q <;> rfl⟩
theorem indexOf_eq_some {c : BitVec 6} {x : IndexReg} : indexOf c = some x ↔ indexCode x = c :=
  ⟨(by decide : ∀ c, ∀ x ∈ indexOf c, indexCode x = c) c x, fun h => h ▸ by cases x <;> rfl⟩
theorem bankOf_eq_some {c : BitVec 2} {m : BankMode} : bankOf c = some m ↔ bankCode m = c :=
  ⟨(by decide : ∀ c, ∀ m ∈ bankOf c, bankCode m = c) c m, fun h => h ▸ by cases m <;> rfl⟩
theorem voteOf_eq_some {c : BitVec 2} {o : VoteOp} : voteOf c = some o ↔ voteCode o = c :=
  ⟨(by decide : ∀ c, ∀ o ∈ voteOf c, voteCode o = c) c o, fun h => h ▸ by cases o <;> rfl⟩
theorem redOf_eq_some {c : BitVec 3} {o : RedOp} : redOf c = some o ↔ redCode o = c :=
  ⟨(by decide : ∀ c, ∀ o ∈ redOf c, redCode o = c) c o, fun h => h ▸ by cases o <;> rfl⟩
@[simp] theorem shflCode_shflOf : ∀ c : BitVec 2, shflCode (shflOf c) = c := by decide
@[simp] theorem shflOf_shflCode (m : ShflMode) : shflOf (shflCode m) = m := by cases m <;> rfl

@[simp] theorem tyOf_tyCode (t : Ty) : tyOf (tyCode t) = some t := tyOf_eq_some.2 rfl
@[simp] theorem rndOf_rndCode (n : Rnd) : rndOf (rndCode n) = some n := rndOf_eq_some.2 rfl
@[simp] theorem condOf_condCode (d : Cond) : condOf (condCode d) = some d := condOf_eq_some.2 rfl
@[simp] theorem scopeOf_scopeCode (s : Scope) : scopeOf (scopeCode s) = some s := scopeOf_eq_some.2 rfl
@[simp] theorem fenceOf_fenceCode (k : FenceKind) : fenceOf (fenceCode k) = some k := fenceOf_eq_some.2 rfl
@[simp] theorem reqOf_reqCode (q : ReqTy) : reqOf (reqCode q) = some q := reqOf_eq_some.2 rfl
@[simp] theorem indexOf_indexCode (x : IndexReg) : indexOf (indexCode x) = some x := indexOf_eq_some.2 rfl
@[simp] theorem bankOf_bankCode (m : BankMode) : Sys2Proof.bankOf (bankCode m) = some m := bankOf_eq_some.2 rfl
@[simp] theorem voteOf_voteCode (o : VoteOp) : voteOf (voteCode o) = some o := voteOf_eq_some.2 rfl
@[simp] theorem redOf_redCode (o : RedOp) : redOf (redCode o) = some o := redOf_eq_some.2 rfl

end Sys2Proof.Proofs
end

section
/-! What the decoder answers (R21, R54), by the fields of the word: the checks of a long and of a short word, and that packing
the fields that were read gives the instruction's bits back. -/
namespace Sys2Proof.Proofs
open Sys2Proof

/-- The fields of a long word keep to what their minor's entry assigns (R54, sub-causes 4 and 5, and the type of an untyped entry). -/
def Fits (u : FieldUse) (r : Raw) : Prop := r.len ∈ u.lens ∧ reservedBit u r = false ∧ (u.typed = true ∨ r.ty = 0)

theorem fits_iff {u : FieldUse} {r : Raw} : Fits u r ↔ r.len ∈ u.lens ∧ Within r.vd (fkindMask u.vd) ∧ Within r.va (fkindMask u.va) ∧
    Within r.vb (fkindMask u.vb) ∧ Within r.md u.md ∧ (u.rnd = false → r.rnd = 0) ∧ (u.tyZero = true → r.ty = 0) ∧
    Within r.vc (fkindMask u.vc) ∧ (u.sc = false → r.sc = 0) ∧ Within r.ext u.ext ∧ Within r.lit u.lit ∧ (u.typed = true ∨ r.ty = 0) := by
  simp only [Fits, reservedBit, Within, Bool.or_eq_false_iff, Bool.and_eq_false_imp, bne_eq_false_iff_eq, Bool.not_eq_true', and_assoc]

/-- A long word's fields are those of an instruction: its entry admits them and they spell it (R42 to R53). -/
def Spells (r : Raw) (i : Instr) : Prop := (∃ u, fieldUse r = some u ∧ Fits u r) ∧ build r = some i

theorem accept_eq_ok_iff {g g' : Guard} {o : Option Instr} {i : Instr} {k n : Nat} :
    accept g o k = .ok g' i n ↔ o = some i ∧ i.wf = true ∧ guardOk g i = true ∧ g = g' ∧ k = n := by
  unfold accept
  split
  · split
    · next j h =>
      rw [Bool.and_eq_true] at h
      constructor
      · rintro ⟨⟩
        exact ⟨rfl, h.1, h.2, rfl, rfl⟩
      · rintro ⟨⟨⟩, -, -, rfl, rfl⟩
        rfl
    · next j h =>
      rw [Bool.and_eq_true] at h
      refine iff_of_false nofun ?_
      rintro ⟨⟨⟩, hwf, hg, -⟩
      exact h ⟨hwf, hg⟩
  · exact iff_of_false nofun nofun

theorem decodeWide_fits {r : Raw} {u : FieldUse} (hu : fieldUse r = some u) (h : Fits u r) :
    decodeWide r = accept r.guard (build r) (lenBytes r.len) := by
  obtain ⟨hl, hr, ht⟩ := h
  have hty : (!u.typed && r.ty != 0) = false := by rcases ht with ht | ht <;> simp [ht]
  simp only [decodeWide, hu, List.contains_iff_mem.2 hl, hr, hty, Bool.not_true, Bool.false_eq_true, if_false]

theorem decodeWide_not_fits {r : Raw} {u : FieldUse} (hu : fieldUse r = some u) (h : ¬ Fits u r) : ∃ k, decodeWide r = .bad k := by
  simp only [decodeWide, hu]
  split
  · exact ⟨4, rfl⟩
  split
  · exact ⟨5, rfl⟩
  split
  · exact ⟨6, rfl⟩
  · next hl hr ht =>
    refine absurd ⟨?_, ?_, ?_⟩ h
    · simpa using hl
    · simpa using hr
    · simpa [or_iff_not_imp_left] using ht

/-- A long word decodes to an instruction exactly where its fields spell a well-formed one that takes its guard (R54). -/
theorem decodeWide_eq_ok_iff {r : Raw} {g : Guard} {i : Instr} {n : Nat} :
    decodeWide r = .ok g i n ↔ Spells r i ∧ i.wf = true ∧ guardOk r.guard i = true ∧ r.guard = g ∧ lenBytes r.len = n := by
  unfold Spells
  cases hu : fieldUse r with
  | none => simp [decodeWide, hu]
  | some u =>
    by_cases h : Fits u r
    · simp [decodeWide_fits hu h, accept_eq_ok_iff, h]
    · obtain ⟨k, hk⟩ := decodeWide_not_fits hu h
      simp [hk, h]

/-- A short word decodes to an instruction exactly where its fields spell a well-formed one that takes its guard (R54). -/
theorem decode32_eq_ok_iff {r : Raw32} {g : Guard} {i : Instr} {n : Nat} :
    decode32 r = .ok g i n ↔ (reserved32 r = false ∧ build32 r = some i) ∧ i.wf = true ∧ guardOk ⟨r.gneg, r.gp⟩ i = true ∧
      ⟨r.gneg, r.gp⟩ = g ∧ 4 = n := by
  unfold decode32
  split
  · next h => simp [h]
  · next h => simp [accept_eq_ok_iff, h]

/-- The fields lie in the room that the length code gives (R29 to R31), and the major takes that length (R40). -/
def placed : Enc → Bool
  | .short r => isMajor32 r.major
  | .wide r => !isMajor32 r.major && (majorLens r.major).contains r.len &&
      (r.len == 3#2 || (r.vc == 0 && r.sc == 0 && r.ext == 0 && (r.len == 2#2 || (r.len == 1#2 && r.lit == 0))))

theorem placed_wide {r : Raw} (h : placed (.wide r) = true) : r.sane ∧ isMajor32 r.major = false ∧ r.len ∈ majorLens r.major := by
  simp only [placed, Bool.and_eq_true, Bool.not_eq_true', Bool.or_eq_true, beq_iff_eq, List.contains_iff_mem] at h
  obtain ⟨⟨hmaj, hlen⟩, hroom⟩ := h
  refine ⟨?_, hmaj, hlen⟩
  rcases hroom with h3 | ⟨⟨⟨hvc, hsc⟩, hext⟩, h2 | ⟨h1, hlit⟩⟩
  · exact .inr (.inr h3)
  · exact .inr (.inl ⟨h2, hvc, hsc, hext⟩)
  · exact .inl ⟨h1, hvc, hsc, hext, hlit⟩

/-- Fields stand for an instruction. -/
def SpelledBy (i : Instr) : Enc → Prop
  | .short r => reserved32 r = false ∧ build32 r = some i
  | .wide r => Spells r i

/-- The guard among the fields of a word (R26). -/
def guardOf : Enc → Guard
  | .short r => ⟨r.gneg, r.gp⟩
  | .wide r => r.guard

theorem length_code_cases : ∀ c : BitVec 2, c ≠ 0 → c = 1#2 ∨ c = 2#2 ∨ c = 3#2 := by decide

theorem sane_unpack {w : Bits128} (h : lenCode w ≠ 0) : (unpack w).sane := by
  unfold lenCode at h
  unfold Raw.sane unpack
  rcases length_code_cases _ h with h | h | h <;> simp [h]

theorem packLow_unpack (w : Bits128) : packLow (unpack w) = w.extractLsb' 0 64 := by
  unfold packLow unpack
  simp only [ofBool_getLsbD]
  rw [slice_join w 49 3 12, slice_join w 44 5 15, slice_join w 38 6 20, slice_join w 30 8 26, slice_join w 22 8 34, slice_join w 14 8 42,
   slice_join w 13 1 50, slice_join w 10 3 51, slice_join w 2 8 54, slice_join w 0 2 62]

/-- The low bits of a word. -/
theorem ofNat_low (m k : Nat) (w : BitVec (m + k)) : BitVec.ofNat (m + k) (w.toNat % 2 ^ k) = 0#m ++ w.extractLsb' 0 k := by
  apply BitVec.eq_of_toNat_eq
  have hlt : w.toNat % 2 ^ k < 2 ^ (m + k) := lt_of_le_of_lt (Nat.mod_le _ _) w.isLt
  simp [BitVec.toNat_append, Nat.mod_eq_of_lt hlt]

theorem pack_unpack {w : Bits128} (h : lenCode w ≠ 0) :
    pack (unpack w) = BitVec.ofNat 128 (w.toNat % 2 ^ (8 * lenBytes (lenCode w))) := by
  unfold pack
  rw [packLow_unpack]
  have hlen : (unpack w).len = lenCode w := rfl
  rw [hlen]
  rcases length_code_cases _ h with h | h | h <;> rw [h]
  · rw [if_neg (by decide), if_neg (by decide)]
    exact (ofNat_low 64 64 w).symm
  · have hlit : (unpack w).lit = w.extractLsb' 64 32 := by
      unfold lenCode at h
      simp [unpack, h]
    rw [if_neg (by decide), if_pos rfl, hlit, BitVec.append_assoc, slice_join w 0 64 32]
    exact (ofNat_low 32 96 w).symm
  · have hf : (unpack w).lit = w.extractLsb' 96 32 ∧ (unpack w).ext = w.extractLsb' 78 18 ∧ (unpack w).sc = w.extractLsb' 72 6 ∧ (unpack w).vc = w.extractLsb' 64 8 := by
      unfold lenCode at h
      simp [unpack, h]
    obtain ⟨hlit, hext, hsc, hvc⟩ := hf
    rw [if_pos rfl, hlit, hext, hsc, hvc, slice_join w 78 18 32, slice_join w 72 6 50, slice_join w 64 8 56, slice_join w 0 64 64]
    rw [Nat.mod_eq_of_lt (show w.toNat < 2 ^ (8 * lenBytes 3#2) from w.isLt), BitVec.ofNat_toNat, BitVec.setWidth_eq]
    exact BitVec.extractLsb'_eq_self

theorem pack32_unpack32 {w : Bits128} (h : lenCode w = 0) : pack32 (unpack32 w) = BitVec.ofNat 128 (w.toNat % 2 ^ (8 * 4)) := by
  have h0 : 0#2 = w.extractLsb' 0 2 := h.symm
  unfold pack32 unpack32
  simp only [ofBool_getLsbD]
  rw [h0, slice_join w 20 6 6, slice_join w 14 6 12, slice_join w 13 1 18, slice_join w 10 3 19, slice_join w 2 8 22, slice_join w 0 2 30]
  exact (BitVec.setWidth_eq_append (by decide)).trans (ofNat_low 96 32 w).symm

/-- Packed fields decode to the well-formed instruction that they spell (R21, R54). -/
theorem decode_encBits {e : Enc} {i : Instr} (hp : placed e = true) (hs : SpelledBy i e) (hwf : i.wf = true) (hg : guardOk (guardOf e) i = true) :
    decode (encBits e) = .ok (guardOf e) i (encBytes e) := by
  cases e with
  | short r =>
    obtain ⟨hu, hl, hm⟩ := fields_pack32 r
    have hmaj : isMajor32 r.major = true := hp
    simp only [decode, encBits, hu, hl, hm, hmaj, if_true]
    exact decode32_eq_ok_iff.2 ⟨hs, hwf, hg, rfl, rfl⟩
  | wide r =>
    obtain ⟨hsane, hmaj, hlen⟩ := placed_wide hp
    obtain ⟨hu, hl, hm⟩ := fields_pack r hsane
    have hne : majorLens r.major ≠ [] := List.ne_nil_of_mem hlen
    simp only [decode, encBits, hu, hl, hm, hmaj, hne, List.contains_iff_mem.2 hlen, Bool.not_true, Bool.false_eq_true, if_false]
    exact decodeWide_eq_ok_iff.2 ⟨hs, hwf, hg, rfl, rfl⟩

/-- The length of a longer word that decodes is one that its major permits (R40, R54). -/
theorem decode_wide {w : Bits128} {g : Guard} {i : Instr} {n : Nat} (hm : isMajor32 (majorOf w) = false) (h : decode w = .ok g i n) :
    lenCode w ≠ 0 ∧ decodeWide (unpack w) = .ok g i n := by
  have hnot (m : BitVec 8) : (majorLens m).contains 0 = false := by
    unfold majorLens
    split <;> rfl
  simp only [decode, hm, Bool.false_eq_true, if_false] at h
  split at h
  · cases h
  split at h
  · cases h
  · next hc =>
    refine ⟨fun h0 => hc ?_, h⟩
    rw [h0, hnot]
    rfl

/-- What a word that decodes holds: fields that spell the instruction, and whose bits are the instruction's (R21, R54). -/
theorem exists_spelledBy_of_decode {w : Bits128} {g : Guard} {i : Instr} {n : Nat} (h : decode w = .ok g i n) :
    ∃ e, SpelledBy i e ∧ i.wf = true ∧ guardOk g i = true ∧ guardOf e = g ∧ encBytes e = n ∧
      encBits e = BitVec.ofNat 128 (w.toNat % 2 ^ (8 * n)) := by
  cases hm : isMajor32 (majorOf w) with
  | true =>
    have h' : (if lenCode w = 0 then decode32 (unpack32 w) else .bad 4) = .ok g i n := by simpa only [decode, hm, if_true] using h
    split at h'
    · next hl =>
      obtain ⟨hs, hwf, hg, rfl, rfl⟩ := decode32_eq_ok_iff.1 h'
      exact ⟨.short (unpack32 w), hs, hwf, hg, rfl, rfl, pack32_unpack32 hl⟩
    · cases h'
  | false =>
    obtain ⟨hl, hd⟩ := decode_wide hm h
    obtain ⟨hs, hwf, hg, rfl, rfl⟩ := decodeWide_eq_ok_iff.1 hd
    exact ⟨.wide (unpack w), hs, hwf, hg, rfl, rfl, pack_unpack hl⟩

end Sys2Proof.Proofs
end

section
/-! What the fields of an encoding are read back as (R28 to R33, R46, R48, R49, R51), and which literals keep to their type. -/
namespace Sys2Proof.Proofs
open Sys2Proof Sys2Proof.Machine

@[simp] theorem sreg_slice {s m : Nat} (a : SReg) (h : s + m ≤ 6) : (sreg a).extractLsb' s m = a.extractLsb' s m := slice_append_low h
@[simp] theorem preg_slice {s m : Nat} (p : PReg) (h : s + m ≤ 3) : (preg p).extractLsb' s m = p.extractLsb' s m := slice_append_low h
@[simp] theorem qreg_slice {s m : Nat} (q : BitVec 4) (h : s + m ≤ 4) : (qreg q).extractLsb' s m = q.extractLsb' s m := slice_append_low h
@[simp] theorem sreg_zero : sreg 0#6 = 0#8 := rfl
@[simp] theorem tyCode_none : tyCode .none = 0#5 := rfl
@[simp] theorem tyOf_zero : tyOf 0#5 = some .none := rfl
@[simp] theorem rndOf_zero : rndOf 0#3 = some .rn := rfl
@[simp] theorem reqOf_zero : reqOf 0#3 = some .none := rfl
@[simp] theorem imm12_join (x : BitVec 12) : x.extractLsb' 6 6 ++ x.extractLsb' 0 6 = x := BitVec.extractLsb'_append_extractLsb'
@[simp] theorem off18_join (x : BitVec 18) : x.extractLsb' 12 6 ++ x.extractLsb' 6 6 ++ x.extractLsb' 0 6 = x := by
  rw [slice_join x 6 6 6, slice_join x 0 6 12]
  exact BitVec.extractLsb'_eq_self
@[simp] theorem clear_pred6 {x : BitVec 6} : x &&& 56#6 = 0#6 ↔ 0#3 ++ x.extractLsb' 0 3 = x := within_low (n := 3) (k := 3)
/-- The layouts of R42, R49 and R52 in terms of the register and modifier fields. -/
theorem scmpLit_eq (c p : BitVec 3) : 0#2 ++ c ++ p = sreg (c ++ p) := BitVec.append_assoc
@[simp] theorem atom_mods (b : Bool) (c : BitVec 3) : 0#8 ++ BitVec.ofBool b ++ c = mods 0#6 false false b c := rfl
@[simp] theorem mods_m0 (b : Bool) : mods 0#6 false false false (0#2 ++ BitVec.ofBool b) = 0#11 ++ BitVec.ofBool b := by
  cases b <;> rfl

@[simp] theorem raw_sd (r : Raw) : r.sd = r.vd.extractLsb' 0 6 := rfl
@[simp] theorem raw_sa (r : Raw) : r.sa = r.va.extractLsb' 0 6 := rfl
@[simp] theorem raw_sb (r : Raw) : r.sb = r.vb.extractLsb' 0 6 := rfl
@[simp] theorem raw_pd (r : Raw) : r.pd = r.vd.extractLsb' 0 3 := rfl
@[simp] theorem raw_m (r : Raw) (k : Nat) : r.m k = r.md.getLsbD k := rfl
@[simp] theorem raw_guard (r : Raw) : r.guard = ⟨r.gneg, r.gp⟩ := rfl
@[simp] theorem raw_base (r : Raw) : r.base = ⟨r.vb.extractLsb' 0 6, if r.md.getLsbD 3 = true then some r.va else none⟩ := rfl

/-! The base of a memory operand (R48): va names its vector register where m3 is 1, and is reserved where it is 0. -/

@[simp] theorem within_base (b : MBase) : Within b.va (fkindMask (if b.m3 = true then .v else .z)) ↔ True := by
  obtain ⟨sb, _ | x⟩ := b <;> simp [MBase.va, MBase.m3]
@[simp] theorem base_eta (b : MBase) : MBase.mk b.sb (if b.m3 = true then some b.va else none) = b := by
  obtain ⟨sb, _ | x⟩ := b <;> rfl

/-- The destination of a vote is a predicate, of a ballot a vector register (R47). -/
theorem within_vote {o : VoteOp} {d : VReg} {p : PReg} (h : (Instr.vote o d p).wf = true) :
    Within d (fkindMask (if voteCode o = 2#2 then .v else .p)) := by
  have hd : o = .ballot ∨ d.toNat < 8 := by
    rcases Bool.or_eq_true_iff.1 h with h | h
    · exact .inl (of_decide_eq_true h)
    · exact .inr (of_decide_eq_true h)
  rcases hd with rfl | hd
  · exact within_v.2 trivial
  · have hp : Within d (fkindMask .p) := within_p.2 ((ofNat_low 5 3 d).symm.trans (by
      rw [Nat.mod_eq_of_lt (show d.toNat < 2 ^ 3 from hd), BitVec.ofNat_toNat, BitVec.setWidth_eq]))
    split
    · exact within_v.2 trivial
    · exact hp

theorem litOk_of_tyI4 {t : Ty} {l : BitVec 32} (h : tyI4 t = true) : litOk t l = true := by
  revert h
  cases t <;> simp [tyI4, litOk, tyBits]
theorem litOk_of_tyB2 {t : Ty} {l : BitVec 32} (h : tyB2 t = true) : litOk t l = true := by
  revert h
  cases t <;> simp [tyB2, litOk, tyBits]

/-- A literal of its type has no bit outside the type's literal mask (R33). -/
theorem within_litMask {t : Ty} {len gp gneg vd va vb minor rnd md vc sc ext l} {major : BitVec 8} (h : litOk t l = true) :
    Within l (litMask ⟨len, major, gp, gneg, vd, va, vb, minor, tyCode t, rnd, md, vc, sc, ext, l⟩) := by
  have hall : Within l 0xFFFFFFFF := within_lit.2 trivial
  simp only [litMask, tyOf_tyCode]
  split
  · next hm =>
    obtain ⟨-, hlt, -⟩ := hm
    have hl : l.toNat < 2 ^ tyBits t := by simpa [litOk, Nat.not_le.2 hlt] using h
    refine BitVec.eq_of_getLsbD_eq fun k hk => ?_
    by_cases hkt : k < tyBits t
    · simp [BitVec.getLsbD_ofNat, hkt, Nat.testBit_two_pow_sub_one]
    · have hbit : l.getLsbD k = false :=
        Nat.testBit_lt_two_pow (lt_of_lt_of_le hl (Nat.pow_le_pow_right (by omega) (by omega)))
      simp [hbit]
  · exact hall

end Sys2Proof.Proofs
end

section
/-! Every encoding of a well-formed instruction spells it (R42 to R53): its entry admits the fields, and they are read back as
the instruction. One lemma for the instructions of each major. -/
namespace Sys2Proof.Proofs
open Sys2Proof Sys2Proof.Machine
variable {g : Guard} {i : Instr} {r : Raw}

theorem spells_scalarLit (h : toFields g i = some (.wide r)) (hm : r.major.toNat = 0x30) : Spells r i := by
  cases i with
  | saddLit | ssubLit | smulLit | smulhI64Lit | smulhN64Lit | sdivI64Lit | sdivN64Lit | sremI64Lit | sremN64Lit | sandLit | sorLit
      | sxorLit | sshlLit | sshrN64Lit | sshrI64Lit | sminI64Lit | sminN64Lit | smaxI64Lit | smaxN64Lit | scmpI64Lit | scmpN64Lit
      | smovLit =>
    cases h
    simp [Spells, fieldUse, build, fits_iff, useScalarLit, buildScalarLit, scmpLit_eq]
  | _ => cases h <;> cases hm

theorem spells_vint (h : toFields g i = some (.wide r)) (hm : r.major.toNat = 0x40) (hwf : i.wf = true) : Spells r i := by
  cases i with
  | iadd | isub | imul | imulh | idiv | irem | imin | imax | iabs | ineg | vAnd | vOr | vXor | vNot | shl | shr | icmp | sel | mov
      | movLane | clz | popc | brev | imad | dot4 =>
    cases h
    simp [Spells, fieldUse, build, fits_iff, useVint, buildVint, useBin, useUn]
  | iaddLit | isubLit | imulLit | imulhLit | idivLit | iremLit | iminLit | imaxLit | shrLit =>
    cases h
    simp [Spells, fieldUse, build, fits_iff, useVint, buildVint, useBin, within_litMask (litOk_of_tyI4 (Bool.and_elim_left hwf))]
  | icmpLit =>
    cases h
    simp [Spells, fieldUse, build, fits_iff, useVint, buildVint, useBin,
      within_litMask (litOk_of_tyI4 (Bool.and_elim_left (Bool.and_elim_left hwf)))]
  | vAndLit | vOrLit | vXorLit | shlLit =>
    cases h
    simp [Spells, fieldUse, build, fits_iff, useVint, buildVint, useBin, within_litMask (litOk_of_tyB2 (Bool.and_elim_left hwf))]
  | movLit =>
    cases h
    simp [Spells, fieldUse, build, fits_iff, useVint, buildVint, within_litMask (litOk_of_tyB2 (Bool.and_elim_left hwf))]
  | _ => cases h <;> cases hm

theorem spells_vfp (h : toFields g i = some (.wide r)) (hm : r.major.toNat = 0x44) (hwf : i.wf = true) : Spells r i := by
  cases i with
  | fadd | fsub | fmul | ffma | fmin | fmax | fabs | fneg | fclass | fsgn | fcmp | fexp2 | flog2 | frcp | frsq | fsin | fcos |
      xext | frnd | xins =>
    cases h
    simp [Spells, fieldUse, build, fits_iff, useVfp, buildVfp, useBin, useUn]
  | faddLit | fsubLit | fmulLit | fminLit | fmaxLit | fcmpLit =>
    cases h
    simp [Spells, fieldUse, build, fits_iff, useVfp, buildVfp, useBin, within_litMask (Bool.and_elim_right hwf)]
  | xinsLit =>
    cases h
    simp [Spells, fieldUse, build, fits_iff, useVfp, buildVfp, useBin, within_litMask (t := .f32) rfl]
  | _ => cases h <;> cases hm

theorem spells_tap (h : toFields g i = some (.wide r)) (hm : r.major.toNat = 0x48) (hwf : i.wf = true) : Spells r i := by
  cases i with
  | tadd | tmul | tmin | tmax | tfma | tcmp =>
    cases h
    simp [Spells, fieldUse, build, fits_iff, useTap, buildTap, useBin]
  | taddLit | tmulLit | tminLit | tmaxLit | tcmpLit =>
    cases h
    simp [Spells, fieldUse, build, fits_iff, useTap, buildTap, useBin, within_litMask (Bool.and_elim_right hwf)]
  | _ => cases h <;> cases hm

theorem spells_cvt (h : toFields g i = some (.wide r)) (hm : r.major.toNat = 0x4A) : Spells r i := by
  cases i with
  | cvt | cvtsr | pk2 | pk4 | pk8 | upk2 | upk4 | upk8 =>
    cases h
    simp [Spells, fieldUse, build, fits_iff, useCvt, buildCvt, useUn]
  | _ => cases h <;> cases hm

theorem spells_cross (h : toFields g i = some (.wide r)) (hm : r.major.toNat = 0x4C) (hwf : i.wf = true) : Spells r i := by
  cases i with
  | shfl | redl | scan | bcast | lpart | lpartLit =>
    cases h
    simp [Spells, fieldUse, build, fits_iff, useCross, buildCross, useBin, useUn]
  | vote =>
    cases h
    simp [Spells, fieldUse, build, fits_iff, useCross, buildCross, within_vote hwf]
  | shflLit | bcastLit =>
    cases h
    simp [Spells, fieldUse, build, fits_iff, useCross, buildCross, useBin, within_litMask (t := .b32) rfl]
  | _ => cases h <;> cases hm

theorem spells_rhash (h : toFields g i = some (.wide r)) (hm : r.major.toNat = 0x4E) : Spells r i := by
  cases i with
  | rhash =>
    cases h
    simp [Spells, fieldUse, build, fits_iff, useRhash, buildRhash]
  | _ => cases h <;> cases hm

theorem spells_mem (h : toFields g i = some (.wide r)) (hm : r.major.toNat = 0x50) : Spells r i := by
  cases i with
  | ld | ldOff | st | stOff | ldt | ldtOff | stt | sttOff | tset | tsetOff | tclr | tclrOff | ttest | ttestOff | pf | pfOff | cwb
      | cwbOff | cinv | cinvOff | cflush | cflushOff | bmode | salloc | sfree =>
    cases h
    simp [Spells, fieldUse, build, fits_iff, useMem, buildMem, useAddr, within_m4m0]
  | _ => cases h <;> cases hm

theorem spells_atom (h : toFields g i = some (.wide r)) (hm : r.major.toNat = 0x58) : Spells r i := by
  cases i with
  | aadd | amin | amax | aand | aor | axor | axchg | acas | ainc | red =>
    cases h
    simp [Spells, fieldUse, build, fits_iff, useAtom, buildAtom, useAt]
  | _ => cases h <;> cases hm

theorem spells_block (h : toFields g i = some (.wide r)) (hm : r.major.toNat = 0x5A) : Spells r i := by
  cases i with
  | bacc | baccMem | bld | bcvt =>
    cases h
    simp [Spells, fieldUse, build, fits_iff, useBlock, buildBlock, useAt]
  | _ => cases h <;> cases hm

theorem spells_fence (h : toFields g i = some (.wide r)) (hm : r.major.toNat = 0x5C) : Spells r i := by
  cases i with
  | fence | bobjInit | bobjExp | bobjArr | bobjWait | mon | mwait =>
    cases h
    simp [Spells, fieldUse, build, fits_iff, useFence, buildFence, within_fence]
  | barTeam | barCluster | barSpan | barGrid =>
    cases h
    simp [Spells, fieldUse, build, fits_iff, useFence, buildFence, barOf, mods]
  | _ => cases h <;> cases hm

theorem spells_copy (h : toFields g i = some (.wide r)) (hm : r.major.toNat = 0x60) : Spells r i := by
  cases i with
  | copyT | copyArm | copyCancel | evpop =>
    cases h
    simp [Spells, fieldUse, build, fits_iff, useCopy, buildCopy]
  | _ => cases h <;> cases hm

theorem spells_matrix (h : toFields g i = some (.wide r)) (hm : r.major.toNat = 0x62) : Spells r i := by
  cases i with
  | mxcfg | mxarm0 | mxarm1 | mxarm2 | mxarm3 | mxdisarm0 | mxdisarm1 | mxdisarm2 | mxdisarm3 | mma | sacc | mxflg | mxspill =>
    cases h
    simp [Spells, fieldUse, build, fits_iff, useMatrix, buildMatrix, mxarmOf, mxdisarmOf]
  | _ => cases h <;> cases hm

theorem spells_crew (h : toFields g i = some (.wide r)) (hm : r.major.toNat = 0x64) : Spells r i := by
  cases i with
  | crewEnter | crewLeave | seatLd | qdef | qadvH | qadvT | qwait =>
    cases h
    simp [Spells, fieldUse, build, fits_iff, useCrew, buildCrew]
  | _ => cases h <;> cases hm

theorem spells_sys (h : toFields g i = some (.wide r)) (hm : r.major.toNat = 0x70) : Spells r i := by
  cases i with
  | enq | role0 | role1 | role2 | role3 | yield | trap | tret | srRd | srWr | genBump | ptpRd | bkpt | halt | fenceTable =>
    cases h
    simp [Spells, fieldUse, build, fits_iff, useSys, buildSys, roleOf]
  | _ => cases h <;> cases hm

end Sys2Proof.Proofs
end

section
/-! A long word whose fields its entry admits is the encoding of the instruction that it spells (R42 to R53): each field is a part
of the instruction, or is as the entry requires. One lemma for the words of each major, by their minors. -/
namespace Sys2Proof.Proofs
open Sys2Proof Sys2Proof.Machine
variable {r : Raw} {u : FieldUse}

theorem eq_ofNat_of_toNat {n k : Nat} {x : BitVec n} (h : x.toNat = k) : x = BitVec.ofNat n k := by
  rw [← h, BitVec.ofNat_toNat, BitVec.setWidth_eq]

/-- va is the vector register of a base where m3 says that it has one, and else 0 (R48). -/
theorem within_va {b : Bool} {x : BitVec 8} :
    Within x (fkindMask (if b = true then .v else .z)) ↔ (if b = true then some x else none).getD 0#8 = x := by
  cases b
  · simp [eq_comm (a := x)]
  · simp
@[simp] theorem isSome_base {b : Bool} {x : BitVec 8} : (if b = true then some x else none).isSome = b := by cases b <;> rfl

theorem two_bits_cases : ∀ c : BitVec 2, c = 0 ∨ c = 1 ∨ c = 2 ∨ c = 3 := by decide

/-! The encodings of the instructions that a two-bit code tells apart (R51 to R53). -/

@[simp] theorem toFields_barOf (g : Guard) (c : BitVec 2) :
    toFields g (barOf c) = some (enc64 0x5C 1 g .none 0 (mods 0 false false false (0#1 ++ c)) 0 0 0) := by
  rcases two_bits_cases c with rfl | rfl | rfl | rfl <;> rfl
@[simp] theorem toFields_mxarmOf (g : Guard) (k : BitVec 2) : toFields g (mxarmOf k) = some (encMx 1 g .none false k 0 0 0 0) := by
  rcases two_bits_cases k with rfl | rfl | rfl | rfl <;> rfl
@[simp] theorem toFields_mxdisarmOf (g : Guard) (k : BitVec 2) : toFields g (mxdisarmOf k) = some (encMx 2 g .none false k 0 0 0 0) := by
  rcases two_bits_cases k with rfl | rfl | rfl | rfl <;> rfl
@[simp] theorem toFields_roleOf (g : Guard) (c : BitVec 2) :
    toFields g (roleOf c) = some (enc128 0x70 1 g .none 0 0 0 0 0 0 0 0 (0#30 ++ c)) := by
  rcases two_bits_cases c with rfl | rfl | rfl | rfl <;> rfl

/-- The condition and the predicate of a scalar compare share six bits (R41, R42). -/
theorem cond_pred_join {n : Nat} (x : BitVec n) : x.extractLsb' 3 3 ++ x.extractLsb' 0 3 = x.extractLsb' 0 6 := slice_join x 0 3 3

theorem toFields_scalarLit (hm : r.major.toNat = 0x30) (hu : useScalarLit r = some u) (hf : Fits u r) :
    ∀ i, buildScalarLit r = some i → toFields r.guard i = some (.wide r) := by
  obtain ⟨len, major, gp, gneg, vd, va, vb, minor, ty, rnd, md, vc, sc, ext, lit⟩ := r
  obtain rfl := eq_ofNat_of_toNat hm
  unfold useScalarLit at hu
  dsimp only at hu
  split at hu
  · next hk =>
    cases hu
    simp [fits_iff] at hf
    obtain ⟨hlo, hhi⟩ := hk
    interval_cases hk : minor.toNat
    all_goals
      obtain rfl := eq_ofNat_of_toNat hk
      simp [buildScalarLit, condOf_eq_some]
      intros
      show some _ = some _
      simp_all [encLit, scmpLit_eq, cond_pred_join]
  split at hu
  · next hk =>
    cases hu
    obtain rfl := eq_ofNat_of_toNat hk
    simp [fits_iff] at hf
    simp [buildScalarLit]
    show some _ = some _
    simp_all [encLit]
  · cases hu

theorem toFields_vint (hm : r.major.toNat = 0x40) (hu : useVint r = some u) (hf : Fits u r) :
    ∀ i, buildVint r = some i → toFields r.guard i = some (.wide r) := by
  obtain ⟨len, major, gp, gneg, vd, va, vb, minor, ty, rnd, md, vc, sc, ext, lit⟩ := r
  obtain rfl := eq_ofNat_of_toNat hm
  unfold useVint at hu
  split at hu
  case h_22 _ hk =>
    cases hu
    obtain rfl := eq_ofNat_of_toNat hk
    by_cases hl : len = 2#2 <;> cases hc : md[4]
    all_goals simp [hl, hc, fits_iff] at hf
    all_goals simp [hl, hc, buildVint, Option.bind_eq_some_iff, tyOf_eq_some]
    all_goals
      intros
      subst_vars
      show some _ = some _
      simp_all [enc64, enc96]
  all_goals cases hu
  all_goals
    next hk =>
    obtain rfl := eq_ofNat_of_toNat hk
    by_cases hl : len = 2#2
    all_goals simp [hl, fits_iff, useBin, useUn] at hf
    all_goals simp [hl, buildVint, Option.bind_eq_some_iff, tyOf_eq_some, condOf_eq_some]
    all_goals
      intros
      subst_vars
      show some _ = some _
      simp_all [enc64, enc96, enc128]

theorem toFields_vfp (hm : r.major.toNat = 0x44) (hu : useVfp r = some u) (hf : Fits u r) :
    ∀ i, buildVfp r = some i → toFields r.guard i = some (.wide r) := by
  obtain ⟨len, major, gp, gneg, vd, va, vb, minor, ty, rnd, md, vc, sc, ext, lit⟩ := r
  obtain rfl := eq_ofNat_of_toNat hm
  unfold useVfp at hu
  split at hu
  all_goals cases hu
  all_goals
    next hk =>
    obtain rfl := eq_ofNat_of_toNat hk
    by_cases hl : len = 2#2
    all_goals simp [hl, fits_iff, useBin, useUn] at hf
    all_goals simp [hl, buildVfp, Option.bind_eq_some_iff, tyOf_eq_some, rndOf_eq_some, condOf_eq_some]
    all_goals
      intros
      subst_vars
      show some _ = some _
      simp_all [enc64, enc96, enc128]

theorem toFields_tap (hm : r.major.toNat = 0x48) (hu : useTap r = some u) (hf : Fits u r) :
    ∀ i, buildTap r = some i → toFields r.guard i = some (.wide r) := by
  obtain ⟨len, major, gp, gneg, vd, va, vb, minor, ty, rnd, md, vc, sc, ext, lit⟩ := r
  obtain rfl := eq_ofNat_of_toNat hm
  unfold useTap at hu
  split at hu
  all_goals cases hu
  all_goals
    next hk =>
    obtain rfl := eq_ofNat_of_toNat hk
    by_cases hl : len = 2#2
    all_goals simp [hl, fits_iff, useBin] at hf
    all_goals simp [hl, buildTap, Option.bind_eq_some_iff, tyOf_eq_some, condOf_eq_some]
    all_goals
      intros
      subst_vars
      show some _ = some _
      simp_all [enc64, enc96, enc128]

theorem toFields_cvt (hm : r.major.toNat = 0x4A) (hu : useCvt r = some u) (hf : Fits u r) :
    ∀ i, buildCvt r = some i → toFields r.guard i = some (.wide r) := by
  obtain ⟨len, major, gp, gneg, vd, va, vb, minor, ty, rnd, md, vc, sc, ext, lit⟩ := r
  obtain rfl := eq_ofNat_of_toNat hm
  unfold useCvt at hu
  split at hu
  all_goals cases hu
  all_goals
    next hk =>
    obtain rfl := eq_ofNat_of_toNat hk
    simp [fits_iff, useUn] at hf
    simp [buildCvt, Option.bind_eq_some_iff, tyOf_eq_some, rndOf_eq_some]
    intros
    subst_vars
    show some _ = some _
    simp_all [encCvt, enc64]

theorem toFields_cross (hm : r.major.toNat = 0x4C) (hu : useCross r = some u) (hf : Fits u r) :
    ∀ i, buildCross r = some i → toFields r.guard i = some (.wide r) := by
  obtain ⟨len, major, gp, gneg, vd, va, vb, minor, ty, rnd, md, vc, sc, ext, lit⟩ := r
  obtain rfl := eq_ofNat_of_toNat hm
  unfold useCross at hu
  split at hu
  all_goals cases hu
  all_goals
    next hk =>
    obtain rfl := eq_ofNat_of_toNat hk
    by_cases hl : len = 2#2
    all_goals simp [hl, fits_iff, useBin, useUn] at hf
    all_goals simp [hl, buildCross, Option.bind_eq_some_iff, tyOf_eq_some, voteOf_eq_some, redOf_eq_some]
    all_goals
      intros
      subst_vars
      show some _ = some _
      simp_all [enc64, enc96]

theorem toFields_rhash (hm : r.major.toNat = 0x4E) (hu : useRhash r = some u) (hf : Fits u r) :
    ∀ i, buildRhash r = some i → toFields r.guard i = some (.wide r) := by
  obtain ⟨len, major, gp, gneg, vd, va, vb, minor, ty, rnd, md, vc, sc, ext, lit⟩ := r
  obtain rfl := eq_ofNat_of_toNat hm
  unfold useRhash at hu
  split at hu
  all_goals cases hu
  all_goals
    next hk =>
    obtain rfl := eq_ofNat_of_toNat hk
    simp [fits_iff] at hf
    simp [buildRhash, tyOf_eq_some]
    intros
    subst_vars
    show some _ = some _
    simp_all [enc128]

theorem toFields_mem (hm : r.major.toNat = 0x50) (hu : useMem r = some u) (hf : Fits u r) :
    ∀ i, buildMem r = some i → toFields r.guard i = some (.wide r) := by
  obtain ⟨len, major, gp, gneg, vd, va, vb, minor, ty, rnd, md, vc, sc, ext, lit⟩ := r
  obtain rfl := eq_ofNat_of_toNat hm
  unfold useMem at hu
  split at hu
  all_goals cases hu
  all_goals
    next hk =>
    obtain rfl := eq_ofNat_of_toNat hk
    by_cases hl : len = 3#2
    all_goals simp [hl, fits_iff, useAddr, within_m4m0, within_va] at hf
    all_goals simp [hl, buildMem, Option.bind_eq_some_iff, tyOf_eq_some, reqOf_eq_some, bankOf_eq_some]
    all_goals
      intros
      subst_vars
      show some _ = some _
      simp_all [encMem, encMemOff, enc64, enc128, MBase.va, MBase.m3]

theorem toFields_atom (hm : r.major.toNat = 0x58) (hu : useAtom r = some u) (hf : Fits u r) :
    ∀ i, buildAtom r = some i → toFields r.guard i = some (.wide r) := by
  obtain ⟨len, major, gp, gneg, vd, va, vb, minor, ty, rnd, md, vc, sc, ext, lit⟩ := r
  obtain rfl := eq_ofNat_of_toNat hm
  unfold useAtom at hu
  split at hu
  all_goals cases hu
  all_goals
    next hk =>
    obtain rfl := eq_ofNat_of_toNat hk
    simp [fits_iff, useAt, within_va] at hf
    simp [buildAtom, Option.bind_eq_some_iff, tyOf_eq_some, scopeOf_eq_some, redOf_eq_some]
    intros
    subst_vars
    show some _ = some _
    simp_all [encAtom, enc128, MBase.va, MBase.m3]

theorem toFields_block (hm : r.major.toNat = 0x5A) (hu : useBlock r = some u) (hf : Fits u r) :
    ∀ i, buildBlock r = some i → toFields r.guard i = some (.wide r) := by
  obtain ⟨len, major, gp, gneg, vd, va, vb, minor, ty, rnd, md, vc, sc, ext, lit⟩ := r
  obtain rfl := eq_ofNat_of_toNat hm
  unfold useBlock at hu
  split at hu
  all_goals cases hu
  all_goals
    next hk =>
    obtain rfl := eq_ofNat_of_toNat hk
    cases hc : md[5]
    all_goals simp [hc, fits_iff, useAt, within_va] at hf
    all_goals simp [hc, buildBlock, Option.bind_eq_some_iff, tyOf_eq_some, scopeOf_eq_some]
    all_goals
      intros
      subst_vars
      show some _ = some _
      simp_all [enc128, MBase.va, MBase.m3]

theorem toFields_fence (hm : r.major.toNat = 0x5C) (hu : useFence r = some u) (hf : Fits u r) :
    ∀ i, buildFence r = some i → toFields r.guard i = some (.wide r) := by
  obtain ⟨len, major, gp, gneg, vd, va, vb, minor, ty, rnd, md, vc, sc, ext, lit⟩ := r
  obtain rfl := eq_ofNat_of_toNat hm
  unfold useFence at hu
  split at hu
  case h_2 _ hk =>
    cases hu
    obtain rfl := eq_ofNat_of_toNat hk
    simp [fits_iff] at hf
    simp_all [buildFence, enc64]
  all_goals cases hu
  all_goals
    next hk =>
    obtain rfl := eq_ofNat_of_toNat hk
    simp [fits_iff, within_fence] at hf
    simp [buildFence, Option.bind_eq_some_iff, scopeOf_eq_some, fenceOf_eq_some]
    intros
    subst_vars
    show some _ = some _
    simp_all [enc64]

theorem toFields_copy (hm : r.major.toNat = 0x60) (hu : useCopy r = some u) (hf : Fits u r) :
    ∀ i, buildCopy r = some i → toFields r.guard i = some (.wide r) := by
  obtain ⟨len, major, gp, gneg, vd, va, vb, minor, ty, rnd, md, vc, sc, ext, lit⟩ := r
  obtain rfl := eq_ofNat_of_toNat hm
  unfold useCopy at hu
  split at hu
  all_goals cases hu
  all_goals
    next hk =>
    obtain rfl := eq_ofNat_of_toNat hk
    simp [fits_iff] at hf
    simp [buildCopy]
    show some _ = some _
    simp_all [enc128]

theorem toFields_matrix (hm : r.major.toNat = 0x62) (hu : useMatrix r = some u) (hf : Fits u r) :
    ∀ i, buildMatrix r = some i → toFields r.guard i = some (.wide r) := by
  obtain ⟨len, major, gp, gneg, vd, va, vb, minor, ty, rnd, md, vc, sc, ext, lit⟩ := r
  obtain rfl := eq_ofNat_of_toNat hm
  unfold useMatrix at hu
  split at hu
  case h_3 _ hk | h_4 _ hk =>
    cases hu
    obtain rfl := eq_ofNat_of_toNat hk
    simp [fits_iff] at hf
    simp_all [buildMatrix, encMx, enc128]
  all_goals cases hu
  all_goals
    next hk =>
    obtain rfl := eq_ofNat_of_toNat hk
    simp [fits_iff] at hf
    simp [buildMatrix, tyOf_eq_some]
    intros
    subst_vars
    show some _ = some _
    simp_all [encMx, enc128]

theorem toFields_crew (hm : r.major.toNat = 0x64) (hu : useCrew r = some u) (hf : Fits u r) :
    ∀ i, buildCrew r = some i → toFields r.guard i = some (.wide r) := by
  obtain ⟨len, major, gp, gneg, vd, va, vb, minor, ty, rnd, md, vc, sc, ext, lit⟩ := r
  obtain rfl := eq_ofNat_of_toNat hm
  unfold useCrew at hu
  split at hu
  all_goals cases hu
  all_goals
    next hk =>
    obtain rfl := eq_ofNat_of_toNat hk
    simp [fits_iff] at hf
    simp [buildCrew]
    show some _ = some _
    simp_all [enc128]

theorem toFields_sys (hm : r.major.toNat = 0x70) (hu : useSys r = some u) (hf : Fits u r) :
    ∀ i, buildSys r = some i → toFields r.guard i = some (.wide r) := by
  obtain ⟨len, major, gp, gneg, vd, va, vb, minor, ty, rnd, md, vc, sc, ext, lit⟩ := r
  obtain rfl := eq_ofNat_of_toNat hm
  unfold useSys at hu
  split at hu
  case h_2 _ hk =>
    cases hu
    obtain rfl := eq_ofNat_of_toNat hk
    simp [fits_iff] at hf
    simp_all [buildSys, enc128]
  all_goals cases hu
  all_goals
    next hk =>
    obtain rfl := eq_ofNat_of_toNat hk
    simp [fits_iff] at hf
    simp [buildSys]
    show some _ = some _
    simp_all [enc128]

end Sys2Proof.Proofs
end

section
/-! The short words (R28, R41): the encoding of an instruction spells it, and a word that spells an instruction is its encoding. -/
namespace Sys2Proof.Proofs
open Sys2Proof Sys2Proof.Machine
variable {g : Guard} {i : Instr}

theorem spelledBy_short {r : Raw32} (h : toFields g i = some (.short r)) :
    reserved32 r = false ∧ build32 r = some i := by
  cases i with
  | nop | sadd | saddImm | ssub | ssubImm | smul | smulImm | smulhI64 | smulhI64Imm | smulhN64 | smulhN64Imm | sdivI64 |
      sdivI64Imm | sdivN64 | sdivN64Imm | sremI64 | sremI64Imm | sremN64 | sremN64Imm | sand | sandImm | sor | sorImm | sxor |
      sxorImm | sshl | sshlImm | sshrN64 | sshrN64Imm | sshrI64 | sshrI64Imm | sminI64 | sminI64Imm | sminN64 | sminN64Imm |
      smaxI64 | smaxI64Imm | smaxN64 | smaxN64Imm | scmpI64 | scmpI64Imm | scmpN64 | scmpN64Imm | smov | smovImm | smovIndex |
      sclz | sctz | spopc | sbrev | bra | call | jmp | calli | join | emrd | emwr | emand | emandn =>
    cases h
    simp [reserved32, build32]
  | _ => cases h

theorem toFields_short {r : Raw32} (hr : reserved32 r = false) (hb : build32 r = some i) :
    toFields ⟨r.gneg, r.gp⟩ i = some (.short r) := by
  obtain ⟨major, gneg, gp, sd, sa, sb⟩ := r
  unfold build32 at hb
  split at hb
  case h_47 _ hk =>
    obtain rfl := eq_ofNat_of_toNat hk
    split at hb
    case h_5 => cases hb
    all_goals
      next hk =>
      obtain rfl := eq_ofNat_of_toNat hk
      cases hb
      rfl
  case h_57 => cases hb
  all_goals
    next hk =>
    obtain rfl := eq_ofNat_of_toNat hk
    simp [reserved32] at hr
    revert i
    simp [condOf_eq_some, indexOf_eq_some]
    intros
    show some _ = some _
    simp_all [enc32, cond_pred_join]

end Sys2Proof.Proofs
end

section
/-! The encoder and the decoder invert each other (R21, R26 to R54): an instruction's encoding is exactly the fields that spell it. -/
namespace Sys2Proof.Proofs
open Sys2Proof Sys2Proof.Machine
variable {r : Raw} {g : Guard} {i : Instr} {e : Enc}

/-- Every encoding lies in the room of its length, which its major takes (R40). -/
theorem placed_toFields (g : Guard) (i : Instr) : (toFields g i).all placed = true := by cases i <;> rfl

/-- Every encoding carries the guard that it is given (R26). -/
theorem guardOf_toFields (g : Guard) (i : Instr) : (toFields g i).map guardOf = (toFields g i).map fun _ => g := by cases i <;> rfl

/-- The length of an encoding does not depend on its guard (R21). -/
theorem encBytes_toFields (g g' : Guard) (i : Instr) : (toFields g i).map encBytes = (toFields g' i).map encBytes := by
  cases i <;> rfl

theorem placed_of_toFields (h : toFields g i = some e) : placed e = true := by
  have hall := placed_toFields g i
  rwa [h] at hall

theorem guardOf_of_toFields (h : toFields g i = some e) : guardOf e = g := by
  have hmap := guardOf_toFields g i
  rw [h] at hmap
  exact Option.some_inj.1 hmap

theorem instrBytes_of_toFields (h : toFields g i = some e) : instrBytes i = encBytes e := by
  have hmap := encBytes_toFields .always g i
  rw [h] at hmap
  obtain ⟨e', he', hn⟩ := Option.map_eq_some_iff.1 hmap
  simpa [instrBytes, he'] using hn

theorem spells_of_toFields (h : toFields g i = some (.wide r)) (hlen : r.len ∈ majorLens r.major) (hwf : i.wf = true) : Spells r i := by
  unfold majorLens at hlen
  split at hlen
  · next hk => exact spells_scalarLit h hk
  · next hk => exact spells_vint h hk hwf
  · next hk => exact spells_vfp h hk hwf
  · next hk => exact spells_tap h hk hwf
  · next hk => exact spells_cvt h hk
  · next hk => exact spells_cross h hk hwf
  · next hk => exact spells_rhash h hk
  · next hk => exact spells_mem h hk
  · next hk => exact spells_atom h hk
  · next hk => exact spells_block h hk
  · next hk => exact spells_fence h hk
  · next hk => exact spells_copy h hk
  · next hk => exact spells_matrix h hk
  · next hk => exact spells_crew h hk
  · next hk => exact spells_sys h hk
  · exact absurd hlen List.not_mem_nil

theorem toFields_of_spells (h : Spells r i) : toFields r.guard i = some (.wide r) := by
  obtain ⟨⟨u, hu, hf⟩, hb⟩ := h
  unfold fieldUse at hu
  split at hu <;> rename_i hk <;> simp only [build, hk] at hb
  · exact toFields_scalarLit hk hu hf i hb
  · exact toFields_vint hk hu hf i hb
  · exact toFields_vfp hk hu hf i hb
  · exact toFields_tap hk hu hf i hb
  · exact toFields_cvt hk hu hf i hb
  · exact toFields_cross hk hu hf i hb
  · exact toFields_rhash hk hu hf i hb
  · exact toFields_mem hk hu hf i hb
  · exact toFields_atom hk hu hf i hb
  · exact toFields_block hk hu hf i hb
  · exact toFields_fence hk hu hf i hb
  · exact toFields_copy hk hu hf i hb
  · exact toFields_matrix hk hu hf i hb
  · exact toFields_crew hk hu hf i hb
  · exact toFields_sys hk hu hf i hb
  · cases hu

/-- The encoding of a well-formed instruction spells it. -/
theorem spelledBy_of_toFields (h : toFields g i = some e) (hwf : i.wf = true) : SpelledBy i e := by
  cases e with
  | short r => exact spelledBy_short h
  | wide r =>
    obtain ⟨-, -, hlen⟩ := placed_wide (placed_of_toFields h)
    exact spells_of_toFields h hlen hwf

/-- Fields that spell an instruction are its encoding. -/
theorem toFields_of_spelledBy (h : SpelledBy i e) : toFields (guardOf e) i = some e := by
  cases e with
  | short r =>
    obtain ⟨hr, hb⟩ := h
    exact toFields_short hr hb
  | wide r => exact toFields_of_spells h

/-- Settles O57: the encoding of a well-formed instruction spells it, and packed fields decode to what they spell. -/
theorem decodeInvertsEncode : Obligations.DecodeInvertsEncode := by
  intro g i w h hwf hg
  obtain ⟨e, he, rfl⟩ := Option.map_eq_some_iff.1 h
  obtain rfl := guardOf_of_toFields he
  rw [instrBytes_of_toFields he]
  exact decode_encBits (placed_of_toFields he) (spelledBy_of_toFields he hwf) hwf hg

/-- Settles O58: the fields of a word that decodes spell the instruction, so they are its encoding, and packing them gives the
instruction's bits back. -/
theorem encodeInvertsDecode : Obligations.EncodeInvertsDecode := by
  intro w g i n h
  obtain ⟨e, hs, hwf, hg, rfl, rfl, hbits⟩ := exists_spelledBy_of_decode h
  have he := toFields_of_spelledBy hs
  refine ⟨hwf, hg, (instrBytes_of_toFields he).symm, ?_⟩
  rw [encode, he, Option.map_some, hbits]

end Sys2Proof.Proofs
end

section
/-! Words of each format and family (R26 to R53). -/
namespace Sys2Proof.Proofs
open Sys2Proof Sys2Proof.Machine Sys2Proof.Claims

/-- Settles O60: the decoder runs on each word, and is evaluated. -/
theorem wordsDecode : Obligations.WordsDecode := by
  unfold Obligations.WordsDecode DecodedWords
  decide

end Sys2Proof.Proofs
end

section
/-! Taking a trap in SIMT mode (R347, R349, R352): what its entry leaves. -/
namespace Sys2Proof.Proofs
open Sys2Proof Sys2Proof.Machine Sys2Proof.Claims
variable {s : State}

/-- The handler address is `tvec` with its bits [1:0] and those above an address cleared (R347). -/
theorem handlerOf_toNat (g : Group) : (handlerOf g).toNat = g.tvec.toNat % 2 ^ 57 / 4 * 4 := by
  have hshift : handlerOf g = (g.tvec.setWidth 57 >>> 2) <<< 2 := by
    ext i hi
    have hlow : (3#57)[i] = decide (i < 2) := by
      rw [show 3#57 = (BitVec.allOnes 2).setWidth 57 from rfl, BitVec.getElem_setWidth, BitVec.getLsbD_allOnes]
    rw [handlerOf, BitVec.getElem_and, BitVec.getElem_not, hlow, BitVec.getElem_shiftLeft]
    by_cases h2 : i < 2
    · simp [h2]
    · simp [h2, hi, show 2 + (i - 2) = i by omega]
  rw [hshift, BitVec.toNat_shiftLeft, BitVec.toNat_ushiftRight, BitVec.toNat_setWidth, Nat.shiftRight_eq_div_pow,
    Nat.shiftLeft_eq]
  omega

theorem handlerOf_ne_zero {g : Group} (h : g.tvec.toNat % 2 ^ 57 / 4 ≠ 0) : handlerOf g ≠ 0 := by
  intro hz
  have hn := handlerOf_toNat g
  rw [hz, show (0 : VAddr).toNat = 0 from rfl] at hn
  omega

/-- Outside crew mode no reserved result can land (R305). -/
theorem landAll_simt {g : Group} (hc : g.crew = none) : landAll g = g := by
  obtain ⟨⟩ := g
  cases hc
  rfl

/-- Trap entry shadows s56 to s63 (R349). -/
theorem topScalars_getD (s : State) {k : Nat} (hk : k < 8) :
    (topScalars s.cur.arch).getD k 0 = getS s (BitVec.ofNat 6 (56 + k)) := by
  rw [getS, BitVec.toNat_ofNat, Nat.mod_eq_of_lt (by omega)]
  simp [topScalars, hk]

/-! The fields of `tcause` (R347). -/

theorem causeWord_cause (crew : Bool) (c : Cause) (sub : BitVec 16) :
    (causeWord crew c sub).toNat % 256 = (causeCode c).toNat := by
  have hslice : (causeWord crew c sub).extractLsb' 0 8 = causeCode c := by simp [causeWord]
  simpa [BitVec.extractLsb'_toNat] using congrArg BitVec.toNat hslice
theorem causeWord_sub (crew : Bool) (c : Cause) (sub : BitVec 16) :
    (causeWord crew c sub).toNat / 2 ^ 16 % 2 ^ 16 = sub.toNat := by
  have hslice : (causeWord crew c sub).extractLsb' 16 16 = sub := by simp [causeWord]
  simpa [BitVec.extractLsb'_toNat, Nat.shiftRight_eq_div_pow] using congrArg BitVec.toNat hslice
theorem causeWord_crew (crew : Bool) (c : Cause) (sub : BitVec 16) : (causeWord crew c sub).getLsbD 32 = crew := by
  simp [causeWord]
theorem causeWord_mask (crew : Bool) (c : Cause) (sub : BitVec 16) : (causeWord crew c sub).getLsbD 33 = true := by
  simp [causeWord]

/-- A trap that can be taken at once, with a handler, enters it as R349 says. -/
theorem raise_takes (t : TrapInfo) (hr : TrapReady s) : TrapTaken t s (raise t s) := by
  obtain ⟨hcrew, hfence, hmask, htvec⟩ := hr
  have hwaits : trapWaits s.cur = false := by simp [trapWaits, hfence, hcrew]
  have hmasked : masked s.cur = false := hmask
  have hraise : raise t s = { s with cur := { s.cur with
      tcause := causeWord false t.cause t.sub, tlm := t.lm, taddr := t.addr, tepc := t.epc.setWidth 64,
      shadow := ⟨s.cur.arch.em, s.cur.arch.lpart, topScalars s.cur.arch, s.cur.arch.stack.length⟩,
      arch := { s.cur.arch with pc := handlerOf s.cur, em := s.cur.arch.live, lpart := 5 },
      crew := none, wait := none, since := 0, pend := none, came := none } } := by
    rw [raise, hwaits, if_neg Bool.false_ne_true]
    simp only [takeTrap, landAll_simt hcrew, hmasked, if_neg Bool.false_ne_true, if_neg (handlerOf_ne_zero htvec), hcrew]
    rfl
  rw [hraise]
  exact { only := rfl
          cause := causeWord_cause _ _ _
          sub := causeWord_sub _ _ _
          inCrewBit := causeWord_crew _ _ _
          maskBit := causeWord_mask _ _ _
          handler := handlerOf_toNat _
          shadowed := fun _ hk => topScalars_getD s hk
          bytes := sameBytes_of_eq }

end Sys2Proof.Proofs
end

section
/-! Branches and jumps (R22, R226, R270, R271): each is a branch to its target, where that is aligned. -/
namespace Sys2Proof.Proofs
open Sys2Proof Sys2Proof.Machine Sys2Proof.Claims

theorem setWidth_signExtend {n k m : Nat} (x : BitVec n) (h : m ≤ k) : (x.signExtend k).setWidth m = x.signExtend m := by
  ext i hi
  simp only [BitVec.getElem_setWidth, BitVec.getLsbD_signExtend, BitVec.getElem_signExtend, decide_eq_true (lt_of_lt_of_le hi h),
    Bool.true_and]
  split <;> rfl

/-- The target of a relative branch is the sum at 64 bits, cut to an address (R270). -/
theorem relTarget_eq (s : State) (off : BitVec 18) : relTarget s off = branchTarget s off := by
  rw [relTarget, branchTarget, BitVec.setWidth_add _ _ (by omega), BitVec.setWidth_mul _ _ (by omega),
    setWidth_signExtend _ (by omega)]
  simp

/-- The low two bits of a word are its remainder by 4. -/
theorem and_three_eq_zero_iff (v : Word) : v &&& 3 = 0 ↔ v.toNat % 4 = 0 := by
  rw [← BitVec.toNat_inj, BitVec.toNat_and]
  exact (Nat.and_two_pow_sub_one_eq_mod v.toNat 2).symm ▸ Iff.rfl

theorem jumpTo_aligned {v : Word} (lk : Bool) (s : State) (h : v.toNat % 4 = 0) : jumpTo v lk s = branchTo (v.setWidth 57) lk s :=
  if_neg (not_not.2 ((and_three_eq_zero_iff v).2 h))

theorem jumpTo_misaligned {v : Word} (lk : Bool) (s : State) (h : v.toNat % 4 ≠ 0) : jumpTo v lk s = misaligned s :=
  if_pos (mt (and_three_eq_zero_iff v).1 h)

theorem getS_linkIf (lk : Bool) (a : VAddr) (s : State) (r : SReg) :
    getS (linkIf lk a s) r = if lk = true ∧ r = 63 then (a + 4).setWidth 64 else getS s r := by
  cases lk with
  | false => simp [linkIf]
  | true => simp [linkIf, getS_setS]

theorem linkIf_eq (lk : Bool) (a : VAddr) (s : State) :
    linkIf lk a s = updArch (fun r => { r with sregs := (linkIf lk a s).cur.arch.sregs }) s := by
  cases lk <;> rfl

theorem sameBytes_of_onlyRegs {a : Arch} {s t : State} (h : OnlyRegs a s t) : SameBytes s t := by
  rw [OnlyRegs] at h
  subst h
  exact sameBytes_of_eq

/-- A branch does one of the four things of R271, by its set of active lanes. -/
theorem branches_of_exec {i : Instr} {x : VAddr} {lk : Bool} {s : State} (h : exec i s = .next (branchTo x lk s)) :
    Branches i x lk s := by
  refine ⟨fun hnone => ⟨_, h, ?_⟩, fun hsome hall => ⟨_, h, ?_⟩, fun hsome hpart hroom => ⟨_, h, ?_⟩, fun hsome hpart hfull => ?_⟩
  · rw [branchTo, if_pos hnone]
    exact advanced_advance 4 s
  · have honly : OnlyRegs { s.cur.arch with pc := x, sregs := (branchTo x lk s).cur.arch.sregs } s (branchTo x lk s) := by
      rw [branchTo, if_neg hsome, if_pos hall, linkIf_eq]
      rfl
    refine ⟨honly, fun r => ?_, sameBytes_of_onlyRegs honly⟩
    rw [branchTo, if_neg hsome, if_pos hall]
    exact getS_linkIf lk _ s r
  · have honly : OnlyRegs { s.cur.arch with
        pc := s.cur.arch.pc + 4, em := s.cur.arch.em &&& ~~~(active s), stack := ⟨false, x, active s⟩ :: s.cur.arch.stack,
        sregs := (branchTo x lk s).cur.arch.sregs } s (branchTo x lk s) := by
      rw [branchTo, if_neg hsome, if_neg hpart, pushEntry, if_neg (by omega), linkIf_eq]
      simp only [OnlyRegs, advance, updCur, updArch]
      rfl
    refine ⟨honly, fun r => ?_, sameBytes_of_onlyRegs honly⟩
    rw [branchTo, if_neg hsome, if_neg hpart, pushEntry, if_neg (by omega)]
    exact getS_linkIf lk _ _ r
  · rw [h, branchTo, if_neg hsome, if_neg hpart, pushEntry, if_pos hfull]

theorem branchInstructions : BranchInstructions := fun s =>
  ⟨fun off => ⟨branches_of_exec (by rw [← relTarget_eq]; rfl), branches_of_exec (by rw [← relTarget_eq]; rfl)⟩,
   fun a ha => ⟨branches_of_exec (congrArg Host.Outcome.next (jumpTo_aligned false s ha)),
     branches_of_exec (congrArg Host.Outcome.next (jumpTo_aligned true s ha))⟩⟩

/-- The trap of a misaligned target is taken from the state after the draw of its free `taddr` (R22; log 21). -/
theorem misaligned_takes {s : State} (hr : TrapReady s) :
    TrapTaken ⟨.illegal, 1, s.cur.arch.em, Config.freeWord s.free, s.cur.arch.pc⟩ { s with free := s.free + 1 } (misaligned s) := by
  have hem : groupMask s = s.cur.arch.em := by simp [groupMask, inCrew, hr.1]
  rw [misaligned, hem]
  exact raise_takes (s := nextFree s) _ hr

theorem misalignedJumpTraps : MisalignedJumpTraps := by
  rintro s a hr ha i (rfl | rfl)
  · exact ⟨misaligned s, congrArg Host.Outcome.next (jumpTo_misaligned false s ha), misaligned_takes hr⟩
  · exact ⟨misaligned s, congrArg Host.Outcome.next (jumpTo_misaligned true s ha), misaligned_takes hr⟩

/-- Settles O9: each of the four is a branch to its target, and a misaligned target raises the trap that is taken. -/
theorem branchesAndJumps : Obligations.BranchesAndJumps := ⟨branchInstructions, misalignedJumpTraps⟩

end Sys2Proof.Proofs
end

section
/-! The words of an instruction in memory (R7, R22, R25): bytes in a row read as one number, and words that the instruction cache
does not hold are fetched as those bytes. -/
namespace Sys2Proof.Proofs
open Sys2Proof Sys2Proof.Machine
variable {s : State}

theorem leVal_append (bs cs : List Byte) : leVal (bs ++ cs) = leVal bs + 256 ^ bs.length * leVal cs := by
  induction bs with
  | nil => simp [leVal]
  | cons b bs ih =>
    rw [List.cons_append, leVal, leVal, ih, List.length_cons]
    ring

theorem leVal_lt (bs : List Byte) : leVal bs < 256 ^ bs.length := by
  induction bs with
  | nil => simp [leVal]
  | cons b bs ih =>
    have hb : b.toNat < 256 := b.isLt
    rw [leVal, List.length_cons, Nat.pow_succ]
    omega

@[simp] theorem length_peekBytes (s : State) (pa n : Nat) : (peekBytes s pa n).length = n := by simp [peekBytes]

theorem peekBytes_add (s : State) (pa m n : Nat) : peekBytes s pa (m + n) = peekBytes s pa m ++ peekBytes s (pa + m) n := by
  simp [peekBytes, List.range_add, Function.comp_def, Nat.add_assoc]

theorem memWord_toNat (s : State) (pa : Nat) : (memWord s pa).toNat = leVal (peekBytes s pa 4) := by
  have hlt := leVal_lt (peekBytes s pa 4)
  rw [length_peekBytes] at hlt
  rw [memWord, BitVec.toNat_ofNat, Nat.mod_eq_of_lt (by omega)]

/-- A first word decides the length and the major as the whole number does (R21, R22). -/
theorem memWord_setWidth (s : State) (pa : Nat) : (memWord s pa).setWidth 128 = BitVec.ofNat 128 (leVal (peekBytes s pa 4)) := by
  rw [← memWord_toNat, BitVec.ofNat_toNat]

/-- The instruction cache of a state with one more word (R25). -/
def withWord (a pa : Nat) (s : State) : State := { s with icache := (icacheKey s.cur a, memWord s pa) :: s.icache }

@[simp] theorem withWord_cur (a pa : Nat) (s : State) : (withWord a pa s).cur = s.cur := rfl

theorem fetchWord_of_uncached (busy : Bool) {a : Nat} (pa : Nat) (h : cachedWord s a = none) :
    fetchWord busy a pa s = (withWord a pa s, memWord s pa) := by
  simp only [fetchWord, h]
  rfl

/-- A word put into the cache is found at its own address only. -/
theorem cachedWord_withWord {a b : Nat} (pa : Nat) (h : a ≠ b) : cachedWord (withWord a pa s) b = cachedWord s b := by
  have hkey : icacheKey s.cur a ≠ icacheKey s.cur b := fun hk => h (Nat.add_left_cancel hk)
  simp only [cachedWord, withWord]
  rw [List.find?_cons_of_neg (by simp [hkey])]
  rfl

/-- Words in a row that the cache does not hold are fetched as the bytes of memory. -/
theorem fetchWords_of_uncached (busy : Bool) (n a pa : Nat) (h : ∀ i, i < n → cachedWord s (a + 4 * i) = none) :
    (fetchWords busy n a pa s).2 = leVal (peekBytes s pa (4 * n)) := by
  induction n generalizing a pa s with
  | zero => rfl
  | succ n ih =>
    have hrest (i : Nat) (hi : i < n) : cachedWord (withWord a pa s) (a + 4 + 4 * i) = none := by
      rw [cachedWord_withWord pa (by omega), show a + 4 + 4 * i = a + 4 * (i + 1) by ring]
      exact h (i + 1) (by omega)
    have hbytes : peekBytes (withWord a pa s) (pa + 4) (4 * n) = peekBytes s (pa + 4) (4 * n) := rfl
    have hfirst : fetchWord busy a pa s = (withWord a pa s, memWord s pa) := fetchWord_of_uncached busy pa (h 0 (by omega))
    simp only [fetchWords, hfirst]
    rw [ih (a + 4) (pa + 4) hrest, hbytes, memWord_toNat, show 4 * (n + 1) = 4 + 4 * n by ring, peekBytes_add, leVal_append,
      length_peekBytes, show 256 ^ 4 = 2 ^ 32 by decide]

end Sys2Proof.Proofs
end

section
/-! The fetch of an instruction that the core's cache does not hold (R21 to R25, R54). -/
namespace Sys2Proof.Proofs
open Sys2Proof Sys2Proof.Machine
variable {s : State}

/-- The length of the instruction at a physical address, as its first word tells (R21). -/
def lenAt (s : State) (pa : Nat) : Nat := lenBytes (lenCode (BitVec.ofNat 128 (leVal (peekBytes s pa 4))))

theorem lenAt_eq (s : State) (pa : Nat) : ∃ k, k ≤ 3 ∧ lenAt s pa = 4 * (k + 1) :=
  ⟨_, Nat.le_of_lt_succ (BitVec.isLt _), rfl⟩

/-- No word that an instruction at an address can have is in the cache. -/
def Uncached (s : State) (a : Nat) : Prop := ∀ i, i < 4 → cachedWord s (a + 4 * i) = none

/-- What is fetched from memory where the first word and those after it are not in the cache. -/
def fetchedAt (pa : Nat) (s : State) : State × Fetched :=
  fetchRest false pa (memWord s pa) (withWord s.cur.arch.pc.toNat pa s)

theorem memWord_len (s : State) (pa : Nat) : lenBytes (lenCode ((memWord s pa).setWidth 128)) = lenAt s pa := by
  rw [memWord_setWidth, lenAt]

/-- An instruction in one block, read from memory: its other words are fetched, and the whole is decoded (R23). -/
theorem fetchRest_decodes {pa : Nat} {w : BitVec 32} (hjump : jumpsAstray w s = false)
    (hblock : s.cur.arch.pc.toNat % 32 + lenBytes (lenCode (w.setWidth 128)) ≤ 32) {g : Guard} {i : Instr} {k : Nat}
    (hdec : decode (BitVec.ofNat 128 (w.toNat + 2 ^ 32 *
      (fetchWords false (lenBytes (lenCode (w.setWidth 128)) / 4 - 1) (s.cur.arch.pc.toNat + 4) (pa + 4) s).2)) = .ok g i k) :
    (fetchRest false pa w s).2 = .instr g i k := by
  have hin : inBlock s.cur.arch.pc (lenBytes (lenCode (w.setWidth 128))) = true := decide_eq_true hblock
  simp only [fetchRest, hjump, hin, Bool.not_true, Bool.false_and, if_neg Bool.false_ne_true, hdec]

theorem fetchRest_crosses {busy : Bool} {pa : Nat} {w : BitVec 32} (hjump : jumpsAstray w s = false)
    (hblock : 32 < s.cur.arch.pc.toNat % 32 + lenBytes (lenCode (w.setWidth 128))) :
    fetchRest busy pa w s = illegalFetch 2 s := by
  have hout : inBlock s.cur.arch.pc (lenBytes (lenCode (w.setWidth 128))) = false := decide_eq_false (by omega)
  simp only [fetchRest, hjump, hout, Bool.not_false, if_neg Bool.false_ne_true, if_true]

theorem fetchCell_of_uncached {pa cell : Nat} (hbusy : lineBusy s (cell / 128) = false)
    (hun : cachedWord s s.cur.arch.pc.toNat = none) : fetchCell pa cell s = fetchRead pa cell s := by
  simp [fetchCell, cachedWhole, hun, hbusy]

theorem fetchRead_of_uncached {pa cell : Nat} {s2 : State} (hs2 : s2 = checkSectors (cell / 128) (sectorsOf (maskRange (cell % 128) 1)) s)
    (hplaced : s2.cur.placed = true) (hpoison : cellPoisoned s2 cell 1 = false) (hun : cachedWord s2 s2.cur.arch.pc.toNat = none) :
    fetchRead pa cell s = fetchedAt pa s2 := by
  rw [fetchRead, ← hs2]
  simp only [hplaced, hpoison, Bool.not_true, if_neg Bool.false_ne_true, fetchWord_of_uncached false pa hun]
  rfl

/-- The instruction decodes from its bytes in memory, which lie in one block (R22, R23). -/
theorem fetchedAt_decodes {pa : Nat} (hun : Uncached s s.cur.arch.pc.toNat) (hjump : jumpsAstray (memWord s pa) s = false)
    (hblock : s.cur.arch.pc.toNat % 32 + lenAt s pa ≤ 32) {g : Guard} {i : Instr} {k : Nat}
    (hdec : decode (BitVec.ofNat 128 (leVal (peekBytes s pa (lenAt s pa)))) = .ok g i k) : (fetchedAt pa s).2 = .instr g i k := by
  obtain ⟨m, hm, hlen⟩ := lenAt_eq s pa
  have hwords : (fetchWords false m (s.cur.arch.pc.toNat + 4) (pa + 4) (withWord s.cur.arch.pc.toNat pa s)).2 =
      leVal (peekBytes s (pa + 4) (4 * m)) := by
    refine fetchWords_of_uncached false m _ _ fun j hj => ?_
    rw [cachedWord_withWord pa (by omega), show s.cur.arch.pc.toNat + 4 + 4 * j = s.cur.arch.pc.toNat + 4 * (j + 1) by ring]
    exact hun (j + 1) (by omega)
  have hbits : (memWord s pa).toNat + 2 ^ 32 * leVal (peekBytes s (pa + 4) (4 * m)) = leVal (peekBytes s pa (lenAt s pa)) := by
    rw [hlen, show 4 * (m + 1) = 4 + 4 * m by ring, peekBytes_add, leVal_append, length_peekBytes, memWord_toNat,
      show 256 ^ 4 = 2 ^ 32 by decide]
  refine fetchRest_decodes (s := withWord s.cur.arch.pc.toNat pa s) hjump (by rw [memWord_len]; exact hblock) ?_
  rw [memWord_len, withWord_cur, hlen, show 4 * (m + 1) / 4 - 1 = m by omega, hwords, hbits]
  exact hdec

/-- An instruction whose length code crosses its block is illegal, with sub-cause 2 (R23, R54). -/
theorem fetchedAt_crosses {pa : Nat} (hjump : jumpsAstray (memWord s pa) s = false)
    (hblock : 32 < s.cur.arch.pc.toNat % 32 + lenAt s pa) :
    ∃ addr, (fetchedAt pa s).2 = .trap ⟨.illegal, 2, groupMask s, addr, s.cur.arch.pc⟩ := by
  rw [fetchedAt, fetchRest_crosses (s := withWord s.cur.arch.pc.toNat pa s) hjump (by rw [memWord_len]; exact hblock)]
  exact ⟨_, rfl⟩

end Sys2Proof.Proofs
end

section
/-! A step (R21 to R25; log 1): the device's own duty, else an event that is due, else the issuing group; a placement round that
is due comes before either. -/
namespace Sys2Proof.Proofs
open Sys2Proof Sys2Proof.Machine Sys2Proof.Claims
variable {s : State}

theorem step_of_duty {t : State} (h : duty s = some t) : step s = .next t := by simp only [step, h]
theorem step_of_event {i : Instr} {rest : List Instr} (hd : duty s = none) (hs : s.sched = i :: rest) :
    step s = eventStep i rest s := by simp only [step, hd, hs]
theorem step_of_quiet (hd : duty s = none) (hs : s.sched = []) : step s = quietStep s := by simp only [step, hd, hs]

/-- Before an event a round that is due runs, unless the event is a further cause of it (R385, R402). -/
theorem eventStep_of_round {d : Nat} (i : Instr) (rest : List Instr) (hr : dueRound s = some d) :
    eventStep i rest s = .next (placementRound d (nextFree s)) ∨
      (causesRound i = true ∧ eventStep i rest s = takeEvent i rest (nextFree s)) := by
  simp only [eventStep, hr]
  split
  · next h => exact .inr ⟨(Bool.and_eq_true_iff.1 h).1, rfl⟩
  · exact .inl rfl

theorem eventStep_of_no_round (i : Instr) (rest : List Instr) (hr : dueRound s = none) : eventStep i rest s = takeEvent i rest s := by
  simp only [eventStep, hr]

theorem takeEvent_reaches {i : Instr} {rest : List Instr} (h : reaches { s with sched := rest } i = true) :
    takeEvent i rest s = exec i { s with sched := rest } := if_pos h
theorem takeEvent_lost {i : Instr} {rest : List Instr} (h : reaches { s with sched := rest } i = false) :
    takeEvent i rest s = .next { s with sched := rest } := if_neg (by simp [h])

/-- Where nothing else is due and the group may issue, the step is what its fetch gives (R21 to R25). -/
theorem step_issues {s1 : State} {r : Fetched} (hd : duty s = none) (hr : dueRound s = none) (hs : s.sched = [])
    (hh : s.halted = false) (hp : s.cur.placed = true) (hm : mayIssue s = true) (hf : fetch (beforeFetch s) = (s1, r)) :
    step s = runFetched (s1, r) := by
  rw [step_of_quiet hd hs]
  simp only [quietStep, hr, runStep, hh, hp, hm, Bool.not_true, if_neg Bool.false_ne_true, if_true, issueNext, hf]

/-- A fetch that waits leaves the group in the wait that it is in, or else in that for its posted operations. -/
theorem fetchHeld_eq (s : State) : fetchHeld s = if s.cur.placed = false ∨ s.cur.wait ≠ none then s else block .posted s := by
  simp [fetchHeld, Option.isSome_iff_ne_none]

theorem fetch_of_device {s1 : State} {pa cell : Nat} {tr : Bool}
    (ht : translateP (whoOf s.cur) .fetch s.cur.arch.pc s = (s1, .ok (.dev pa tr))) (hc : homeCell s1.regions pa = some cell) :
    fetch s = fetchCell pa cell s1 := by
  simp only [fetch, ht, fetchAt, hc]

theorem stepRunsDecoded : StepRunsDecoded := by
  refine ⟨fun s t h => step_of_duty h, fun s d hd hr => ⟨fun hs => ?_, fun i rest hs => ?_⟩,
    fun s i rest hd hr hs => ⟨fun h => ?_, fun h => ?_⟩, fun s s1 r hd hr hs hh hp hm hf => ?_,
    fun s s1 s2 pa tr cell ht hc hbusy hs2 hplaced hpc1 hpc2 hpoison hjump hun => ?_⟩
  · rw [step_of_quiet hd hs]
    simp only [quietStep, hr]
  · rw [step_of_event hd hs]
    exact eventStep_of_round i rest hr
  · rw [step_of_event hd hs, eventStep_of_no_round i rest hr, takeEvent_reaches h]
  · rw [step_of_event hd hs, eventStep_of_no_round i rest hr, takeEvent_lost h]
  · rw [step_issues hd hr hs hh hp hm hf]
    refine ⟨fun g i n hi => ?_, fun x hx => ?_, fun hw => ?_⟩
    · subst hi; rfl
    · subst hx; rfl
    · subst hw
      rw [← fetchHeld_eq]
      rfl
  · have hun1 : cachedWord s1 s1.cur.arch.pc.toNat = none := by rw [hpc1]; exact (hun 0 (by omega)).1
    have hun2 : Uncached s2 s2.cur.arch.pc.toNat := fun i hi => by rw [hpc2]; exact (hun i hi).2
    rw [fetch_of_device ht hc, fetchCell_of_uncached hbusy hun1, fetchRead_of_uncached hs2 hplaced hpoison (hun2 0 (by omega)), ← hpc2]
    exact ⟨fun hblock g i k hdec => fetchedAt_decodes hun2 hjump hblock hdec, fun hblock => fetchedAt_crosses hjump hblock⟩

/-- Settles O59: the step by its cases, and the fetch of words that the instruction cache does not hold. -/
theorem stepRunsDecodedInstruction : Obligations.StepRunsDecodedInstruction := stepRunsDecoded

end Sys2Proof.Proofs
end

section
/-! What the homes and the records of the device leave as it is, whatever errors are waiting (R97 to R109, R361, R363, R389, R392,
R418): every field but the memories, the copies, the state of the groups and the partitions' logs. -/
namespace Sys2Proof.Proofs
open Sys2Proof Sys2Proof.Machine Sys2Proof.Claims

/-- The state without what the homes, the Cox's records and its interrupts change. -/
def besidesHomes (s : State) : State :=
  { s with cur := State.reset.cur, groups := [], mem := [], hostMem := [], copies := [], hostAcks := [], heldWrites := [],
           l2 := [], latent := [], found := [], free := 0, clock := 0, parts := [], interrupts := [], mcWptr := 0, mcSeq := 0, mcDrops := 0 }

/-- What each step of a fold keeps, the fold keeps. -/
theorem foldl_keeps {α β : Type} {φ : State → β} {f : State → α → State} (hf : ∀ s x, φ (f s x) = φ s) (xs : List α) (s : State) :
    φ (xs.foldl f s) = φ s := by
  induction xs generalizing s with
  | nil => rfl
  | cons x xs ih => exact (ih (f s x)).trans (hf s x)

/-! The fields that later proofs read off. -/

theorem gens_of_besidesHomes {s t : State} (h : besidesHomes t = besidesHomes s) : t.gens = s.gens := (congrArg State.gens h :)
theorem coxBumps_of_besidesHomes {s t : State} (h : besidesHomes t = besidesHomes s) : t.coxBumps = s.coxBumps :=
  (congrArg State.coxBumps h :)
theorem conns_of_besidesHomes {s t : State} (h : besidesHomes t = besidesHomes s) : t.conns = s.conns := (congrArg State.conns h :)

variable (s : State)

@[simp] theorem besidesHomes_setCopy (client line : Nat) (f : Copy → Copy) :
    besidesHomes (setCopy client line f s) = besidesHomes s := rfl
@[simp] theorem besidesHomes_removeCopy (client line : Nat) : besidesHomes (removeCopy client line s) = besidesHomes s := rfl
@[simp] theorem besidesHomes_notice (client line : Nat) : besidesHomes (notice client line s) = besidesHomes s := rfl
@[simp] theorem besidesHomes_storeSeen (core line : Nat) : besidesHomes (storeSeen core line s) = besidesHomes s := rfl
@[simp] theorem besidesHomes_writeSectors (line : Nat) (m : LineMask) : besidesHomes (writeSectors line m s) = besidesHomes s := rfl
@[simp] theorem besidesHomes_putLine (m : LineMask) (d : LineData) (line : Nat) : besidesHomes (putLine m d line s) = besidesHomes s := rfl
@[simp] theorem besidesHomes_setPart (p : Nat) (f : Part → Part) : besidesHomes (setPart p f s) = besidesHomes s := rfl
@[simp] theorem besidesHomes_logEvent (part kind queue code : Nat) (data : Word) :
    besidesHomes (logEvent part kind queue code data s) = besidesHomes s := rfl

@[simp] theorem besidesHomes_l2Touch (line : Nat) (sec : BitVec 4) (owner : Option (BitVec 18)) :
    besidesHomes (l2Touch line sec owner s) = besidesHomes s := by
  unfold l2Touch
  dsimp only
  split
  · rfl
  split
  · rfl
  split
  · rfl
  · exact foldl_keeps (φ := besidesHomes) (f := fun s e => leaveL2 e s) (fun _ _ => rfl) _ s

@[simp] theorem besidesHomes_writeBack (m : LineMask) (c : Copy) : besidesHomes (writeBack m c s) = besidesHomes s := by
  unfold writeBack
  dsimp only
  split
  · rfl
  · simp

@[simp] theorem besidesHomes_takeBack (c : Copy) : besidesHomes (takeBack c s) = besidesHomes s := by
  have h : besidesHomes (notice c.client c.line (removeCopy c.client c.line (writeBack (BitVec.allOnes 128) c s))) = besidesHomes s := by
    simp
  unfold takeBack
  dsimp only
  split <;> exact h

@[simp] theorem besidesHomes_dropWords (m : LineMask) (c : Copy) : besidesHomes (dropWords m c s) = besidesHomes s := by
  have h := besidesHomes_writeBack s (bytesOf (wordsOf m)) c
  unfold dropWords
  dsimp only
  split
  · rfl
  · split <;> split <;> exact h

@[simp] theorem besidesHomes_recallAll (cs : List Copy) : besidesHomes (recallAll cs s) = besidesHomes s := by
  induction cs generalizing s with
  | nil => rfl
  | cons c cs ih => rw [recallAll, ih, besidesHomes_takeBack]

@[simp] theorem besidesHomes_dropWordsAll (m : LineMask) (cs : List Copy) : besidesHomes (dropWordsAll m cs s) = besidesHomes s := by
  induction cs generalizing s with
  | nil => rfl
  | cons c cs ih => rw [dropWordsAll, ih, besidesHomes_dropWords]

@[simp] theorem besidesHomes_homeStore (client line : Nat) (m : LineMask) (d : LineData) (owner : BitVec 18) :
    besidesHomes (homeStore client line m d owner s) = besidesHomes s := by
  simp [homeStore, homePrepare]

@[simp] theorem besidesHomes_putPhys (owner : BitVec 18) (a : Nat) (bs : List Byte) :
    besidesHomes (putPhys owner a bs s) = besidesHomes s := by
  induction bs generalizing s a with
  | nil => rfl
  | cons b bs ih =>
    rw [putPhys, ih]
    split
    · rfl
    · unfold putByte
      split
      · rfl
      · exact besidesHomes_homeStore s _ _ _ _ _

@[simp] theorem besidesHomes_ringBytes (base size at_ : Nat) (bs : List Byte) :
    besidesHomes (ringBytes base size at_ bs s) = besidesHomes s := by
  induction bs generalizing s at_ with
  | nil => rfl
  | cons b bs ih => exact ih (putHost (base + at_ % size) [b] s) (at_ + 1)

@[simp] theorem besidesHomes_recordWake (part kind port : Nat) (body : List Byte) :
    besidesHomes (recordWake part kind port body s) = besidesHomes s := by
  unfold recordWake
  dsimp only
  split
  · rw [besidesHomes_ringBytes]
    rfl
  · rfl

@[simp] theorem besidesHomes_raiseInt (part v : Nat) : besidesHomes (raiseInt part v s) = besidesHomes s := by
  rw [raiseInt, besidesHomes_recordWake]
  rfl

@[simp] theorem besidesHomes_raiseTurn (part n : Nat) : besidesHomes (raiseTurn part n s) = besidesHomes s := by
  induction n generalizing s with
  | zero => rfl
  | succ n ih =>
    unfold raiseTurn
    dsimp only
    split
    · rfl
    split
    · simp [ih]
    split
    · simp [ih]
    · rfl

@[simp] theorem besidesHomes_interrupt (part v : Nat) : besidesHomes (interrupt part v s) = besidesHomes s := by
  unfold interrupt
  dsimp only
  split <;> simp

@[simp] theorem besidesHomes_machineCheck (w0 : Word) (pa : Nat) (kv : Bool) (part : Nat) (asid : BitVec 16) :
    besidesHomes (machineCheck w0 pa kv part asid s) = besidesHomes s := by
  have hheld (u : State) : besidesHomes (doHeld (.interrupt part 33) u) = besidesHomes u := by
    rw [doHeld]
    split
    · exact besidesHomes_interrupt u part 33
    · rfl
  unfold machineCheck machineCheckAt
  dsimp only
  split
  · rfl
  · rw [hheld, besidesHomes_logEvent, besidesHomes_putPhys]
    rfl

@[simp] theorem besidesHomes_coxCheck (pa part : Nat) : besidesHomes (coxCheck pa part s) = besidesHomes s := by
  unfold coxCheck
  split
  · exact besidesHomes_machineCheck s _ _ _ _ _
  · rfl

@[simp] theorem besidesHomes_cleanCore (core : Nat) : besidesHomes (cleanCore core s) = besidesHomes s :=
  foldl_keeps (φ := besidesHomes) (fun s c => by simp) _ s

@[simp] theorem besidesHomes_cleanAll : besidesHomes (cleanAll s) = besidesHomes s :=
  foldl_keeps (φ := besidesHomes) (fun s c => besidesHomes_cleanCore s c) _ s

theorem homeStep_coxCheck (pa part : Nat) : HomeStep s (coxCheck pa part s) := by
  unfold coxCheck
  split
  · exact homeStep_noRegionCheck s pa part
  · exact .refl s

end Sys2Proof.Proofs
end

section
/-! `gen.bump` and the bumps of the Cox (R68, R69, R283): the generation advances at once; a bump that can complete moves on past a
lap flush. -/
namespace Sys2Proof.Proofs
open Sys2Proof Sys2Proof.Machine Sys2Proof.Claims
variable {s : State}

/-- An instruction whose next state is known by another name completes there. -/
theorem completes_of_eq {i : Instr} {t u : State} {P : State → Prop} (he : exec i s = .next t) (ht : t = u) (hp : P u) :
    Completes i s P := ⟨u, he.trans (congrArg _ ht), hp⟩

/-- A system instruction that is ready acts (R268, R269). -/
theorem systemOp_go {k : State → State} (h : SystemReady s) : systemOp s k = k s := by
  rw [systemOp, afterFence_go h.2, onceForGroup_go 16 h.1]

/-- A system instruction that no crew may issue acts on a group in SIMT mode. -/
theorem notCrew_systemOp_go {k : State → State} (hc : s.cur.crew = none) (h : SystemReady s) :
    notCrew s (fun s => systemOp s k) = k s := by
  rw [notCrew_go (by simp [inCrew, hc]), systemOp_go h]

/-- A flush performs nothing where the reduction unit holds nothing (R417). -/
theorem flushPas_nil (h : s.redUnit = []) (pas : List Nat) : flushPas pas s = s := by
  induction pas with
  | nil => rfl
  | cons pa pas ih => simpa [flushPas, h] using ih

theorem flushWhere_nil (h : s.redUnit = []) (sel : RedEntry → Bool) : flushWhere sel s = s := flushPas_nil h _

/-- The cores write back nothing where none of them holds a dirty word. -/
theorem cleanAll_clean (h : ∀ c ∈ s.copies, c.dirty = 0 ∨ c.client = hostClient) : cleanAll s = s := by
  have hnone : s.copies.filter (fun c => c.dirty != 0 && c.client != hostClient) = [] := by
    rw [List.filter_eq_nil_iff]
    intro c hc
    rcases h c hc with h | h <;> simp [h]
  unfold cleanAll
  rw [hnone]
  rfl

/-- What blocking on a wait leaves of the state (R86). -/
theorem block_eq (w : Wait) (s : State) :
    ∃ since tick, block w s = { s with cur := { s.cur with wait := some w, since := since }, tick := tick } := by
  unfold block
  split
  · exact ⟨_, _, rfl⟩
  · exact ⟨s.cur.since, s.tick, rfl⟩

/-- An operation on the issuing group, while it is placed. -/
theorem onGroup_cur (f : State → State) (h : s.cur.placed = true) : onGroup s.cur.gid f s = f s := by
  simp [onGroup, h]

/-! The new generation (R68). -/

theorem besidesHomes_bumpGen (asid : BitVec 16) (s : State) :
    besidesHomes (bumpGen asid s) = besidesHomes { s with gens := tset 0 s.gens asid.toNat (tget 0 s.gens asid.toNat + 1) } := by
  rw [bumpGen, besidesHomes_putPhys, besidesHomes_coxCheck]

theorem bumpGen_gens (asid : BitVec 16) (s : State) :
    (bumpGen asid s).gens = tset 0 s.gens asid.toNat (tget 0 s.gens asid.toNat + 1) :=
  gens_of_besidesHomes (besidesHomes_bumpGen asid s)

theorem bumpGen_coxBumps (asid : BitVec 16) (s : State) : (bumpGen asid s).coxBumps = s.coxBumps :=
  (coxBumps_of_besidesHomes (besidesHomes_bumpGen asid s) :)

theorem bumpGen_own (asid : BitVec 16) (s : State) : tget 0 (bumpGen asid s).gens asid.toNat = tget 0 s.gens asid.toNat + 1 := by
  rw [bumpGen_gens, tget_tset_same]

theorem genAdvanced_of_gens {asid : BitVec 16} {t : State} (h : t.gens = (bumpGen asid s).gens) : GenAdvanced asid s t := by
  rw [GenAdvanced, h]
  refine ⟨bumpGen_own asid s, fun x hx => ?_⟩
  rw [bumpGen_gens, tget_tset_other _ _ _ hx.symm]

/-- The table's write in memory touches no more of a group than its monitor (R180), where no fence of it is incomplete. -/
theorem bumpGen_cur (asid : BitVec 16) (hf : s.cur.fence = none) : ∃ mon, (bumpGen asid s).cur = { s.cur with mon := mon } := by
  have hstep : HomeStep { s with gens := tset 0 s.gens asid.toNat (tget 0 s.gens asid.toNat + 1) } (bumpGen asid s) :=
    (homeStep_coxCheck _ _ _).trans (homeStep_putPhys _ _ _ _)
  obtain ⟨f, hkept, hcur, _⟩ := hstep.groups
  exact ⟨_, hcur.trans ((hkept s.cur).still hf)⟩

/-! The end of a bump (R68, R69). -/

theorem lapped_eq (asid gen : BitVec 16) (s : State) : (if gen = 0 then lapFlush asid s else s) = Lapped asid gen s := rfl

/-- A bump that can complete does. -/
theorem endBump_completes {x gen : BitVec 16} {since : Nat} (k : State → State) (hr : s.redUnit = [])
    (hd : bumpDone x since (cleanAll s) = true) : endBump x gen since s k = k (Lapped x gen (cleanAll s)) := by
  rw [endBump, flushAsid, flushPas_nil hr, if_pos hd, lapped_eq]

theorem lapped_coxBumps (x gen : BitVec 16) (s : State) : (Lapped x gen s).coxBumps = s.coxBumps := by
  unfold Lapped
  split <;> rfl

theorem sameBytes_lapped (x gen : BitVec 16) (s : State) : SameBytes s (Lapped x gen s) := by
  unfold Lapped
  split <;> exact sameBytes_of_eq

/-- What `gen.bump` does for a group that does not yet wait, and may bump the generation (R283). -/
theorem genBump_begins {a : SReg} (hc : s.cur.crew = none) (hs : SystemReady s) (hw : s.cur.wait = none)
    (hp : s.cur.priv = true ∨ (getS s a).setWidth 16 = s.cur.asid) :
    exec (.genBump a) s = .next (block (.bump ((getS s a).setWidth 16) (tget 0 s.gens ((getS s a).setWidth 16).toNat + 1))
      (bumpGen ((getS s a).setWidth 16) s)) := by
  have hallowed : (!s.cur.priv && (getS s a).setWidth 16 != s.cur.asid) = false := by
    rcases hp with h | h <;> simp [h]
  show Host.Outcome.next _ = _
  rw [notCrew_systemOp_go hc hs]
  dsimp only
  rw [hw]
  dsimp only
  rw [hallowed, if_neg Bool.false_ne_true, bumpGen_own]

theorem genBump_refused {a : SReg} (hc : s.cur.crew = none) (hs : SystemReady s) (hw : s.cur.wait = none)
    (hp : s.cur.priv = false) (ha : (getS s a).setWidth 16 ≠ s.cur.asid) :
    exec (.genBump a) s = .next (raiseGroup .privilege (getS s a) s) := by
  have hrefused : (!s.cur.priv && (getS s a).setWidth 16 != s.cur.asid) = true := by simp [hp, ha]
  show Host.Outcome.next _ = _
  rw [notCrew_systemOp_go hc hs]
  dsimp only
  rw [hw]
  dsimp only
  rw [hrefused, if_pos rfl]

theorem genBump_waiting {a : SReg} {x gen : BitVec 16} (hc : s.cur.crew = none) (hs : SystemReady s)
    (hw : s.cur.wait = some (.bump x gen)) : exec (.genBump a) s = .next (endBump x gen s.cur.since s (advance 16)) := by
  show Host.Outcome.next _ = _
  rw [notCrew_systemOp_go hc hs]
  dsimp only
  rw [hw]

theorem genBumpComplete_waiting {x gen : BitVec 16} (hp : s.cur.placed = true) (hw : s.cur.wait = some (.bump x gen)) :
    exec (.genBumpComplete s.cur.gid) s = .next (endBump x gen s.cur.since s (advance 16)) := by
  show Host.Outcome.next _ = _
  rw [onGroup_cur _ hp, hw]

/-- The completion of the oldest bump of the Cox for an ASID. -/
theorem coxGenBumpComplete_oldest {x gen : BitVec 16} {since : Nat} {rest : List (BitVec 16 × BitVec 16 × Nat)}
    (hb : s.coxBumps = (x, gen, since) :: rest) (hr : s.redUnit = []) (hd : bumpDone x since (cleanAll s) = true) :
    exec (.coxGenBumpComplete x) s = .next { Lapped x gen (cleanAll s) with coxBumps := rest } := by
  show Host.Outcome.next _ = _
  rw [hb, List.find?_cons_of_pos (by simp)]
  dsimp only
  rw [endBump_completes _ hr hd, lapped_coxBumps, coxBumps_of_besidesHomes (besidesHomes_cleanAll s), hb,
    List.eraseP_cons_of_pos (by simp)]

theorem generationBump : GenerationBump := by
  intro s a hc hs asid
  refine ⟨fun hw hp => ?_, fun x gen hw hr hd => ?_, cleanAll_clean, genBump_refused hc hs, fun x => ?_,
    fun x gen since rest hb hr hd => ?_⟩
  · obtain ⟨mon, hcur⟩ := bumpGen_cur asid hs.2
    obtain ⟨since, tick, hblock⟩ := block_eq (.bump asid (tget 0 s.gens asid.toNat + 1)) (bumpGen asid s)
    exact completes_of_eq (genBump_begins hc hs hw hp) hblock ⟨genAdvanced_of_gens rfl, rfl, by rw [hcur]⟩
  · have hend := endBump_completes (gen := gen) (advance 16) hr hd
    have hadv := advanced_advance 16 (Lapped x gen (cleanAll s))
    exact ⟨completes_of_eq (genBump_waiting hc hs hw) hend hadv, fun hp => completes_of_eq (genBumpComplete_waiting hp hw) hend hadv⟩
  · refine ⟨_, rfl, genAdvanced_of_gens rfl, (bumpGen x s).tick + 1, ?_⟩
    rw [← bumpGen_own, ← bumpGen_coxBumps x s]
  · exact ⟨_, coxGenBumpComplete_oldest hb hr hd, rfl, sameBytes_lapped x gen (cleanAll s)⟩

end Sys2Proof.Proofs
end

section
/-! `fence.table`, GO and the commit of the region table (R113, R284, R406). -/
namespace Sys2Proof.Proofs
open Sys2Proof Sys2Proof.Machine Sys2Proof.Claims
variable {s : State}

/-- A Cox that has nothing to do does nothing (R107, R371). -/
theorem endDue_rest (h : CoxAtRest s) : endDue s = s := by
  obtain ⟨hheld, hdue, hsig⟩ := h
  have hretry : retryHeld s = s := by
    rw [retryHeld, hheld, List.foldl_nil, ← hheld]
  rw [endDue, hretry, hdue]
  dsimp only [List.isEmpty_nil]
  rw [if_pos rfl, hsig, List.foldl_nil]

theorem sameBytes_startCommit (s : State) : SameBytes s (startCommit s) := sameBytes_of_eq rfl rfl rfl rfl rfl

/-- The state in which a commit has completed, before what waited for it goes on (R113). -/
def commitEnded (s : State) : State :=
  { s with commitPend := false, commitGo := if s.commitGo = 2 then min 1 s.goMore else s.commitGo,
           goMore := if s.commitGo = 2 then s.goMore - 1 else s.goMore }

/-- A commit that completes while the Cox has nothing to do: the fences that made it go on, and a GO that waits starts the next. -/
theorem endCommit_completes (hp : s.commitPend = true) (hd : drainCount s = 0) (hr : s.redUnit = []) (hc : CoxAtRest s) :
    endCommit s =
      (let u := ((allGroups s).filter (fun g => g.wait == some .commit)).foldl (fun s g => onGroup g.gid (advance 16) s) (commitEnded s)
       if u.commitGo = 1 then startCommit { u with commitGo := 2 } else u) := by
  have hrest : CoxAtRest (commitEnded s) := hc
  rw [endCommit, if_pos hp, flushWhere_nil hr]
  dsimp only
  rw [if_pos (by simp [hp, hd])]
  exact congrArg (fun v : State =>
    let u := ((allGroups v).filter (fun g => g.wait == some .commit)).foldl (fun s g => onGroup g.gid (advance 16) s) v
    if u.commitGo = 1 then startCommit { u with commitGo := 2 } else u) (endDue_rest hrest)

/-- The same where no fence waits for the commit. -/
theorem endCommit_unfenced (hp : s.commitPend = true) (hd : drainCount s = 0) (hr : s.redUnit = []) (hc : CoxAtRest s)
    (hg : ∀ g ∈ allGroups s, g.wait ≠ some .commit) :
    endCommit s = if (commitEnded s).commitGo = 1 then startCommit { commitEnded s with commitGo := 2 } else commitEnded s := by
  have hnone : (allGroups s).filter (fun g => g.wait == some .commit) = [] := by
    rw [List.filter_eq_nil_iff]
    exact fun g h => by simpa using hg g h
  rw [endCommit_completes hp hd hr hc, hnone]
  rfl

/-- A commit that cannot complete yet stays pending. -/
theorem endCommit_waits (hd : drainCount s ≠ 0) (hr : s.redUnit = []) : endCommit s = s := by
  rw [endCommit, flushWhere_nil hr, ite_self]
  dsimp only
  rw [if_neg (by simp [hd])]

theorem fenceTable_starts (hc : s.cur.crew = none) (hs : SystemReady s) (hp : s.cur.priv = true) (hn : s.commitPend = false)
    (hw : s.cur.wait = none) : exec .fenceTable s = .next (block .commit (startCommit s)) := by
  show Host.Outcome.next _ = _
  rw [notCrew_systemOp_go hc hs]
  simp [hp, hn, hw]

theorem fenceTable_refused (hc : s.cur.crew = none) (hs : SystemReady s) (hp : s.cur.priv = false) :
    exec .fenceTable s = .next (raiseOpen .privilege s) := by
  show Host.Outcome.next _ = _
  rw [notCrew_systemOp_go hc hs]
  simp [hp]

theorem goCommit_starts (h : s.commitGo = 0) (hn : s.commitPend = false) : goCommit s = startCommit { s with commitGo := 2 } := by
  simp [goCommit, h, hn]

theorem goCommit_waits (h : s.commitGo = 0) (hp : s.commitPend = true) : goCommit s = { s with commitGo := 1 } := by
  simp [goCommit, h, hp]

theorem goCommit_follows (h : s.commitGo ≠ 0) : goCommit s = { s with goMore := s.goMore + 1 } := by
  simp [goCommit, h]

theorem tableCommit : TableCommit := by
  intro s
  refine ⟨fun hc hs hp hn hw => ?_, fenceTable_refused, fun h hn => ?_, fun h hp => ?_, fun h => ?_,
    fun hp hd hr hrest hgo hgroups hplaced hw => ?_, fun hp hd hr hrest hgo hg => ⟨fun hmore => ?_, fun n hmore => ?_⟩, fun hd hr => ?_⟩
  · obtain ⟨since, tick, hblock⟩ := block_eq .commit (startCommit s)
    exact completes_of_eq (fenceTable_starts hc hs hp hn hw) hblock ⟨rfl, rfl, rfl, rfl, rfl, sameBytes_startCommit s⟩
  · exact completes_of_eq rfl (goCommit_starts h hn) ⟨rfl, sameBytes_startCommit s⟩
  · exact completes_of_eq rfl (goCommit_waits h hp) rfl
  · exact completes_of_eq rfl (goCommit_follows h) rfl
  · have hended : commitEnded s = { s with commitPend := false } := by simp [commitEnded, hgo]
    have hall : (allGroups s).filter (fun g => g.wait == some .commit) = [s.cur] := by simp [allGroups, hgroups, hplaced, hw]
    have hend : endCommit s = advance 16 { s with commitPend := false } := by
      rw [endCommit_completes hp hd hr hrest, hall, hended, List.foldl_cons, List.foldl_nil]
      dsimp only
      rw [onGroup_cur (s := { s with commitPend := false }) _ hplaced]
      exact if_neg (by simp [advance, hgo])
    exact completes_of_eq rfl hend (advanced_advance 16 _)
  · have hend : endCommit s = { s with commitPend := false, commitGo := 0 } := by
      rw [endCommit_unfenced hp hd hr hrest hg]
      simp [commitEnded, hgo, hmore]
    exact completes_of_eq rfl hend ⟨rfl, sameBytes_of_eq⟩
  · have hend : endCommit s = { s with regions := s.shadowRegions, ver := s.ver + 1, commitGo := 2, goMore := n } := by
      rw [endCommit_unfenced hp hd hr hrest hg]
      simp [commitEnded, startCommit, hgo, hmore, hp]
    exact completes_of_eq rfl hend ⟨rfl, sameBytes_of_eq⟩
  · exact completes_of_eq rfl (endCommit_waits hd hr) rfl

/-- Settles O17: a bump writes the table through the homes, which keep the generations and the group but for its monitor, and what
completes a bump or a commit finds nothing else to do. -/
theorem generationsAndTableCommit : Obligations.GenerationsAndTableCommit := ⟨generationBump, tableCommit⟩

end Sys2Proof.Proofs
end

section
/-! The records that the Cox writes and the interrupts that it raises (R389, R392, R393, R418): where the bytes stand, and what of a
partition they leave. -/
namespace Sys2Proof.Proofs
open Sys2Proof Sys2Proof.Machine Sys2Proof.Claims
variable {s : State}

/-- Reading a table in which a run of keys was written. -/
theorem tget_tsetList {α : Type} [DecidableEq α] (d : α) (xs : List α) (t : List (Nat × α)) (n a : Nat) :
    tget d (tsetList d t n xs) a = if n ≤ a ∧ a < n + xs.length then xs.getD (a - n) d else tget d t a := by
  induction xs generalizing t n with
  | nil => rw [tsetList, if_neg (by simp)]
  | cons x xs ih =>
    rw [tsetList, ih, tget_tset, List.length_cons]
    rcases lt_trichotomy a n with hlt | rfl | hgt
    · rw [if_neg (by omega), if_neg (by omega), if_neg (by omega)]
    · rw [if_neg (by omega), if_pos rfl, if_pos (by omega), Nat.sub_self, List.getD_cons_zero]
    · obtain ⟨k, rfl⟩ := Nat.exists_eq_add_of_lt hgt
      rw [show n + k + 1 - n = k + 1 by omega, show n + k + 1 - (n + 1) = k by omega, List.getD_cons_succ,
        if_neg (by omega : n ≠ n + k + 1)]
      exact if_congr (by omega) rfl rfl

theorem bytesPut_putHost (a : Nat) (bs : List Byte) (s : State) : BytesPut a bs s.hostMem (putHost a bs s).hostMem :=
  tget_tsetList 0 bs s.hostMem a

theorem clock_le_tickClock (s : State) : s.clock ≤ (tickClock s).clock := Nat.le_max_left _ _

/-! The partitions' records. -/

theorem partOf_setPart_same {p : Nat} (f : Part → Part) (hp : p < s.parts.length) : partOf (setPart p f s) p = f (partOf s p) := by
  simp [partOf, setPart, List.getD_eq_getElem?_getD, hp]

/-- What a change of one record keeps of every record, it keeps of each partition's. -/
theorem partOf_modify_keeps {β : Type} {φ : Part → β} {f : Part → Part} {p : Nat} {t : State} (ht : t.parts = s.parts.modify p f)
    (q : Nat) (hf : ∀ x, φ (f x) = φ x := by intro _; rfl) : φ (partOf t q) = φ (partOf s q) := by
  simp only [partOf, ht, List.getD_eq_getElem?_getD, List.getElem?_modify]
  cases s.parts[q]? with
  | none => rfl
  | some x =>
    show φ (if p = q then f x else x) = φ x
    split
    · exact hf x
    · rfl

theorem partOf_logEvent {p : Nat} (kind queue code : Nat) (data : Word) (hp : p < s.parts.length) :
    partOf (logEvent p kind queue code data s) p = { partOf s p with elSeq := (partOf s p).elSeq + 1 } :=
  partOf_setPart_same (s := tickClock s) _ hp

theorem record_logEvent (p kind queue code : Nat) (data : Word) (s : State) :
    (partOf (logEvent p kind queue code data s) p).record = (partOf s p).record :=
  partOf_modify_keeps (φ := Part.record) rfl p

theorem replay_logEvent (p kind queue code : Nat) (data : Word) (s : State) :
    (partOf (logEvent p kind queue code data s) p).replay = (partOf s p).replay :=
  partOf_modify_keeps (φ := Part.replay) rfl p

/-- A record of the event log stands in its ring (R389). -/
theorem logged_logEvent {p kind : Nat} (queue code : Nat) (data : Word) (hp : p < s.parts.length) (hk : kind < 256) :
    Logged p kind queue code data s (logEvent p kind queue code data s) := by
  have hword : (BitVec.ofNat 64 (code % 65536 * 65536 + queue % 32 * 256 + kind)).toNat =
      code % 2 ^ 16 * 2 ^ 16 + queue % 32 * 2 ^ 8 + kind := by
    rw [BitVec.toNat_ofNat]
    exact Nat.mod_eq_of_lt (by omega)
  refine ⟨clock_le_tickClock s, partOf_logEvent kind queue code data hp, ?_⟩
  rw [← hword]
  exact bytesPut_putHost _ _ s

/-! What raising an interrupt keeps (R393, R418). -/

theorem parts_ringBytes (base size at_ : Nat) (bs : List Byte) (s : State) : (ringBytes base size at_ bs s).parts = s.parts := by
  induction bs generalizing s at_ with
  | nil => rfl
  | cons b bs ih => exact ih (at_ + 1) _

theorem interrupts_ringBytes (base size at_ : Nat) (bs : List Byte) (s : State) :
    (ringBytes base size at_ bs s).interrupts = s.interrupts := by
  induction bs generalizing s at_ with
  | nil => rfl
  | cons b bs ih => exact ih (at_ + 1) _

theorem interrupts_recordWake (p kind port : Nat) (body : List Byte) (s : State) :
    (recordWake p kind port body s).interrupts = s.interrupts := by
  unfold recordWake
  dsimp only
  split
  · exact interrupts_ringBytes _ _ _ _ _
  · rfl

theorem elSeq_recordWake (p kind port : Nat) (body : List Byte) (q : Nat) (s : State) :
    (partOf (recordWake p kind port body s) q).elSeq = (partOf s q).elSeq := by
  unfold recordWake
  dsimp only
  split
  · exact partOf_modify_keeps (φ := Part.elSeq) (parts_ringBytes _ _ _ _ _) q
  · rfl

theorem elSeq_raiseInt_setPart {f : Part → Part} (p v q : Nat) (s : State)
    (hf : ∀ x, (f x).elSeq = x.elSeq := by intro _; rfl) : (partOf (raiseInt p v (setPart p f s)) q).elSeq = (partOf s q).elSeq :=
  (elSeq_recordWake _ _ _ _ q _).trans (partOf_modify_keeps (φ := Part.elSeq) (f := f) (p := p) rfl q hf)

theorem elSeq_raiseTurn (p n q : Nat) (s : State) : (partOf (raiseTurn p n s) q).elSeq = (partOf s q).elSeq := by
  induction n generalizing s with
  | zero => rfl
  | succ n ih =>
    unfold raiseTurn
    dsimp only
    split
    · rfl
    split
    · exact (ih _).trans (elSeq_raiseInt_setPart _ _ q s)
    split
    · exact (ih _).trans (elSeq_raiseInt_setPart _ _ q s)
    · rfl

theorem elSeq_interrupt (p v q : Nat) (s : State) : (partOf (interrupt p v s) q).elSeq = (partOf s q).elSeq := by
  unfold interrupt
  dsimp only
  split
  · exact (elSeq_raiseTurn _ _ _ _).trans (partOf_modify_keeps (φ := Part.elSeq) rfl q)
  · exact elSeq_recordWake _ _ _ _ q _

/-- Outside a replay an interrupt is raised at once. -/
theorem interrupt_of_not_replay {p : Nat} (v : Nat) (h : (partOf s p).replay = false) : interrupt p v s = raiseInt p v s := by
  rw [interrupt, replaying, h, Bool.false_and, if_neg Bool.false_ne_true]

theorem interrupts_interrupt {p : Nat} (v : Nat) (h : (partOf s p).replay = false) :
    (interrupt p v s).interrupts = s.interrupts ++ [v] := by
  rw [interrupt_of_not_replay v h]
  exact interrupts_recordWake _ _ _ _ _

/-- Where the partition does not record either, nothing but the interrupt comes of it. -/
theorem interrupt_unrecorded {p : Nat} (v : Nat) (h : (partOf s p).replay = false) (hr : (partOf s p).record = false) :
    interrupt p v s = { s with interrupts := s.interrupts ++ [v] } := by
  rw [interrupt_of_not_replay v h]
  exact recordWake_off _ _ _ hr

end Sys2Proof.Proofs
end

section
/-! The states of a connection group (R409 to R413): an entry changes, and a bandwidth-change event follows or not. -/
namespace Sys2Proof.Proofs
open Sys2Proof Sys2Proof.Machine Sys2Proof.Claims
variable {s t : State} {i : Nat} {c d : Conn}

theorem connAt_setConn_same (f : Conn → Conn) (hi : i < s.conns.length) : connAt (setConn i f s) i = f (connAt s i) := by
  simp [connAt, setConn, List.getD_eq_getElem?_getD, hi]

theorem connAt_setConn_other {j : Nat} (f : Conn → Conn) (s : State) (hj : j ≠ i) : connAt (setConn i f s) j = connAt s j := by
  simp [connAt, setConn, List.getD_eq_getElem?_getD, hj.symm]

@[simp] theorem length_conns_setConn (i : Nat) (f : Conn → Conn) (s : State) : (setConn i f s).conns.length = s.conns.length :=
  List.length_modify _ _ _

theorem connBecomes_setConn (f : Conn → Conn) (hi : i < s.conns.length) : ConnBecomes i (f (connAt s i)) s (setConn i f s) :=
  ⟨connAt_setConn_same f hi, fun _ hj => connAt_setConn_other f s hj⟩

theorem connQuiet_setConn (f : Conn → Conn) (hi : i < s.conns.length) : ConnQuiet i (f (connAt s i)) s (setConn i f s) :=
  ⟨connBecomes_setConn f hi, rfl, sameBytes_of_eq rfl rfl rfl rfl rfl⟩

/-- A move to another state changes the entry, and the table of unreachable peers where the set of UP groups changes (R410, R413). -/
theorem connQuiet_moveConn (st lanes : Nat) (hi : i < s.conns.length) :
    ConnQuiet i { connAt s i with state := st, lanes := lanes } s (moveConn i st lanes s) := by
  have hset := connQuiet_setConn (fun c => { c with state := st, lanes := lanes }) hi
  unfold moveConn
  dsimp only
  split
  · exact hset
  · exact ⟨hset.1, rfl, sameBytes_of_eq rfl rfl rfl rfl rfl⟩

/-- One quiet change after another. -/
theorem connQuiet_trans {u : State} (h1 : ConnQuiet i c s t) (h2 : ConnQuiet i d t u) : ConnQuiet i d s u := by
  obtain ⟨⟨_, ho1⟩, ht, hb1⟩ := h1
  obtain ⟨⟨hd, ho2⟩, hu, hb2⟩ := h2
  refine ⟨⟨hd, fun j hj => (ho2 j hj).trans (ho1 j hj)⟩, by rw [hu, ht], fun a => ?_⟩
  obtain ⟨h1, h2, h3, h4, h5⟩ := hb1 a
  obtain ⟨k1, k2, k3, k4, k5⟩ := hb2 a
  exact ⟨k1.trans h1, k2.trans h2, k3.trans h3, k4.trans h4, k5.trans h5⟩

/-- An entry written, then moved. -/
theorem connQuiet_moveConn_setConn (f : Conn → Conn) (st lanes : Nat) (hi : i < s.conns.length) :
    ConnQuiet i { f (connAt s i) with state := st, lanes := lanes } s (moveConn i st lanes (setConn i f s)) := by
  have hmove := connQuiet_moveConn (s := setConn i f s) st lanes (by rw [length_conns_setConn]; exact hi)
  rw [connAt_setConn_same f hi] at hmove
  exact connQuiet_trans (connQuiet_setConn f hi) hmove

theorem litTo_of_conns (peer : Nat) (h : t.conns = s.conns) : litTo t peer = litTo s peer := by rw [litTo, litTo, h]

theorem connAt_of_conns (j : Nat) (h : t.conns = s.conns) : connAt t j = connAt s j := by rw [connAt, connAt, h]

/-- A record that follows a change of other fields. -/
theorem logged_of_eq {u : State} {part kind queue code : Nat} {data : Word} (hp : t.parts = s.parts) (hc : t.clock = s.clock)
    (hm : t.hostMem = s.hostMem) (h : Logged part kind queue code data t u) : Logged part kind queue code data s u := by
  have hpart : partOf t part = partOf s part := by rw [partOf, partOf, hp]
  rw [Logged, hpart, hc, hm] at h
  exact h

theorem bandwidthEvent_eq (h : connAt t i = c) : bandwidthEvent i t = interrupt c.part 32
    (logEvent c.part 6 0 c.lanes (BitVec.ofNat 64 (i + 256 * c.peer + 65536 * litTo t c.peer)) t) := by
  rw [bandwidthEvent, h]

theorem conns_bandwidthEvent (i : Nat) (s : State) : (bandwidthEvent i s).conns = s.conns := by
  rw [bandwidthEvent, conns_of_besidesHomes (besidesHomes_interrupt _ _ _), conns_of_besidesHomes (besidesHomes_logEvent _ _ _ _ _ _)]

/-- The event of R412 after a quiet change: its record stands in the log of the entry's partition, and interrupt 32 is raised. -/
theorem connAnnounced_bandwidthEvent (h : ConnQuiet i c s t) : ConnAnnounced i c s (bandwidthEvent i t) := by
  obtain ⟨⟨hc, hothers⟩, ht, -⟩ := h
  have hparts : t.parts = s.parts := (congrArg State.parts ht :)
  have hpart : partOf t c.part = partOf s c.part := by rw [partOf, partOf, hparts]
  have hconns := conns_bandwidthEvent i t
  have hreplay (data : Word) (h : (partOf s c.part).replay = false) :
      (partOf (logEvent c.part 6 0 c.lanes data t) c.part).replay = false := by
    rw [replay_logEvent, hpart, h]
  refine ⟨⟨(connAt_of_conns i hconns).trans hc, fun j hj => (connAt_of_conns j hconns).trans (hothers j hj)⟩, fun h => ?_,
    fun hp hlen => ?_, fun hp hlen hrec hrep => ?_⟩
  · rw [bandwidthEvent_eq hc, interrupts_interrupt _ (hreplay _ h)]
    exact congrArg (· ++ [32]) (congrArg State.interrupts ht :)
  · rw [bandwidthEvent_eq hc, elSeq_interrupt, partOf_logEvent _ _ _ _ (by rw [hparts, hlen]; exact hp), hpart]
  · have hlogged := logged_logEvent (s := t) (kind := 6) 0 c.lanes
      (BitVec.ofNat 64 (i + 2 ^ 8 * c.peer + 2 ^ 16 * litTo t c.peer))
      (show c.part < t.parts.length by rw [hparts, hlen]; exact hp) (by decide)
    rw [litTo_of_conns c.peer hconns, bandwidthEvent_eq hc, interrupt_unrecorded _ (hreplay _ hrep) (by rw [record_logEvent, hpart, hrec])]
    exact logged_of_eq hparts (congrArg State.clock ht :) (congrArg State.hostMem ht :) hlogged

/-! What each event does, by the state of the entry (R409 to R411). -/

theorem reqUp_down (hi : i < s.conns.length) (hst : (connAt s i).state = 0) :
    reqUp i s = if (connAt s i).pport ≤ 11 then moveConn i 1 0 (setConn i (fun c => { c with req := true }) s)
      else bandwidthEvent i (moveConn i 4 0 (setConn i (fun c => { c with req := true }) s)) := by
  rw [reqUp, connAt_setConn_same _ hi]
  dsimp only
  rw [hst]
  rfl

theorem reqUp_other (hi : i < s.conns.length) (hst : (connAt s i).state ≠ 0) :
    reqUp i s = setConn i (fun c => { c with req := true }) s := by
  rw [reqUp, connAt_setConn_same _ hi]
  exact if_pos (bne_iff_ne.2 hst)

theorem reqDown_eq (hi : i < s.conns.length) :
    reqDown i s =
      if (connAt s i).state = 1 ∨ (connAt s i).state = 4 then moveConn i 0 0 (setConn i (fun c => { c with req := false }) s)
      else if (connAt s i).state = 2 then moveConn i 3 (connAt s i).lanes (setConn i (fun c => { c with req := false }) s)
      else setConn i (fun c => { c with req := false }) s := by
  rw [reqDown, connAt_setConn_same _ hi]
  simp only [Bool.or_eq_true, decide_eq_true_eq]

/-- REQ written (R410). -/
theorem connQuiet_reqUp_valid (hi : i < s.conns.length) (hst : (connAt s i).state = 0) (hp : (connAt s i).pport ≤ 11) :
    ConnQuiet i { connAt s i with req := true, state := 1, lanes := 0 } s (reqUp i s) := by
  rw [reqUp_down hi hst, if_pos hp]
  exact connQuiet_moveConn_setConn _ 1 0 hi

theorem connAnnounced_reqUp_invalid (hi : i < s.conns.length) (hst : (connAt s i).state = 0) (hp : 11 < (connAt s i).pport) :
    ConnAnnounced i { connAt s i with req := true, state := 4, lanes := 0 } s (reqUp i s) := by
  rw [reqUp_down hi hst, if_neg (by omega)]
  exact connAnnounced_bandwidthEvent (connQuiet_moveConn_setConn _ 4 0 hi)

theorem connQuiet_reqUp_other (hi : i < s.conns.length) (hst : (connAt s i).state ≠ 0) :
    ConnQuiet i { connAt s i with req := true } s (reqUp i s) := by
  rw [reqUp_other hi hst]
  exact connQuiet_setConn _ hi

theorem connQuiet_reqDown_ends (hi : i < s.conns.length) (hst : (connAt s i).state = 1 ∨ (connAt s i).state = 4) :
    ConnQuiet i { connAt s i with req := false, state := 0, lanes := 0 } s (reqDown i s) := by
  rw [reqDown_eq hi, if_pos hst]
  exact connQuiet_moveConn_setConn _ 0 0 hi

theorem connQuiet_reqDown_drains (hi : i < s.conns.length) (hst : (connAt s i).state = 2) :
    ConnQuiet i { connAt s i with req := false, state := 3 } s (reqDown i s) := by
  rw [reqDown_eq hi, if_neg (by omega), if_pos hst]
  exact connQuiet_moveConn_setConn (fun c => { c with req := false }) 3 (connAt s i).lanes hi

theorem connQuiet_reqDown_other (hi : i < s.conns.length) (hst : (connAt s i).state = 0 ∨ (connAt s i).state = 3) :
    ConnQuiet i { connAt s i with req := false } s (reqDown i s) := by
  rw [reqDown_eq hi, if_neg (by omega), if_neg (by omega)]
  exact connQuiet_setConn _ hi

theorem connFarEntry_setup {f : FarState} (hf : f ∈ [FarState.setupMatch, .upMatch]) :
    exec (.connFarEntry i f) s = .next (if (connAt s i).state = 1 then bandwidthEvent i (moveConn i 2 8 s) else s) := by
  rw [List.mem_pair] at hf
  rcases hf with rfl | rfl <;> rfl

/-- ERRCNT of an UP entry has reached its ERRTH (R411). -/
theorem connFeather_due (hst : (connAt s i).state = 2) (hth : (connAt s i).errth ≠ 0) (hcnt : (connAt s i).errth ≤ (connAt s i).errcnt) :
    exec (.connFeather i) s = .next (if 1 < (connAt s i).lanes
      then bandwidthEvent i (setConn i (fun c => { c with lanes := c.lanes / 2, errcnt := 0 }) s)
      else bandwidthEvent i (moveConn i 4 0 s)) :=
  congrArg _ (if_pos (by simp [hst, hth, hcnt]))

theorem connectionGroups : ConnectionGroups := by
  intro s i hlt hlen c
  have hi : i < s.conns.length := by rw [hlen]; exact hlt
  have hmove (st lanes : Nat) := connAnnounced_bandwidthEvent (connQuiet_moveConn st lanes hi)
  have hset (f : Conn → Conn) := connAnnounced_bandwidthEvent (connQuiet_setConn f hi)
  refine ⟨fun hst hp => ⟨_, rfl, connQuiet_reqUp_valid hi hst hp⟩, fun hst hp => ⟨_, rfl, connAnnounced_reqUp_invalid hi hst hp⟩,
    fun hst => ⟨_, rfl, connQuiet_reqUp_other hi hst⟩, fun hst => ⟨_, rfl, connQuiet_reqDown_ends hi hst⟩,
    fun hst => ⟨_, rfl, connQuiet_reqDown_drains hi hst⟩, fun hst => ⟨_, rfl, connQuiet_reqDown_other hi hst⟩,
    fun hst f hf => completes_of_eq (connFarEntry_setup hf) (if_pos hst) (hmove 2 8),
    fun hst => completes_of_eq rfl (if_pos hst) (hmove 4 0),
    fun hst => completes_of_eq rfl (if_pos hst) (connQuiet_moveConn 3 c.lanes hi),
    fun hst hth hcnt => ⟨fun hl => completes_of_eq (connFeather_due hst hth hcnt) (if_pos hl) (hset _),
      fun hl => completes_of_eq (connFeather_due hst hth hcnt) (if_neg (Nat.not_lt.2 hl)) (hmove 4 0)⟩,
    fun hst hl => completes_of_eq rfl (if_pos (Bool.and_eq_true_iff.2 ⟨decide_eq_true hst, decide_eq_true hl⟩)) (hset _),
    fun h => completes_of_eq rfl (if_neg ?_) rfl, fun hst => completes_of_eq rfl (if_pos hst) (hmove 0 0),
    ⟨_, rfl, connBecomes_setConn (s := { s with hostRead := [connWord c] }) _ hi, rfl, rfl, sameBytes_of_eq rfl rfl rfl rfl rfl⟩,
    ⟨_, rfl, connQuiet_setConn _ hi⟩, fun hst => ?_⟩
  · rw [Bool.and_eq_true, decide_eq_true_eq, decide_eq_true_eq, not_and_or, Nat.not_lt]
    exact h
  · have hcount : (if c.state = 2 || c.state = 3 then min (c.errcnt + 1) 255 else c.errcnt) = min (c.errcnt + 1) 255 :=
      if_pos (by simpa using hst)
    rw [← hcount]
    exact ⟨_, rfl, connQuiet_setConn _ hi⟩

end Sys2Proof.Proofs
end

section
/-! The registers of the package window: what the driver writes and reads at each offset (R95, R363, R364, R406 to R409, R415). -/
namespace Sys2Proof.Proofs
open Sys2Proof Sys2Proof.Machine Sys2Proof.Claims
variable {s : State} {off : Nat} {v : Word}

/-! The halves of a 128-bit entry: entry j of a table at a base, low half first. -/

theorem half_index {base j : Nat} (h : Bool) (hb : base % 16 = 0) :
    (base + 16 * j + 8 * h.toNat - base) / 16 = j ∧ decide ((base + 16 * j + 8 * h.toNat) % 16 = 8) = h := by
  cases h
  · exact ⟨by simp, decide_eq_false (by simp; omega)⟩
  · exact ⟨by simp; omega, decide_eq_true (by simp; omega)⟩

theorem extract_putHalf_same (e : BitVec 128) (h : Bool) (v : Word) : (putHalf e h v).extractLsb' (64 * h.toNat) 64 = v := by
  cases h
  · exact (slice_append_low (s := 0) (by decide)).trans BitVec.extractLsb'_eq_self
  · exact (slice_append_high (s := 64) (by decide)).trans BitVec.extractLsb'_eq_self

theorem extract_putHalf_other (e : BitVec 128) (h : Bool) (v : Word) :
    (putHalf e h v).extractLsb' (64 * (!h).toNat) 64 = e.extractLsb' (64 * (!h).toNat) 64 := by
  cases h
  · exact (slice_append_high (s := 64) (by decide)).trans BitVec.extractLsb'_eq_self
  · rw [show e.extractLsb' (64 * (!true).toNat) 64 = e.setWidth 64 from BitVec.setWidth_eq_extractLsb' (by decide) |>.symm]
    exact (slice_append_low (s := 0) (by decide)).trans BitVec.extractLsb'_eq_self

/-- The fields of a region-table entry, half by half (R95). -/
theorem extract_regionMask (h : Bool) :
    regionMask.extractLsb' (64 * h.toNat) 64 = if h then 0x00001FFFFFFFFFFF else 0x000FFFFFFFF00000 := by
  revert h
  decide

theorem halfOf_entry (t : List (BitVec 128)) {base j : Nat} (h : Bool) (hb : base % 16 = 0) :
    halfOf t base (base + 16 * j + 8 * h.toNat) = (t.getD j 0).extractLsb' (64 * h.toNat) 64 := by
  obtain ⟨hidx, hhigh⟩ := half_index (j := j) h hb
  rw [halfOf, hidx]
  cases h
  · exact (if_neg (of_decide_eq_false hhigh)).trans (BitVec.setWidth_eq_extractLsb' (by decide))
  · exact if_pos (of_decide_eq_true hhigh)

/-! Where a write goes. -/

theorem writeRegister_misaligned (h : off % 8 ≠ 0) : writeRegister off v s = s := if_pos (by simpa using h)

theorem writeRegister_go (v : Word) (s : State) :
    writeRegister 0x048 v s = if v.getLsbD 0 && s.boot == .ready then goCommit s else s := rfl

theorem writeRegister_conn (h8 : off % 8 = 0) (hlo : 0x100 ≤ off) (hhi : off < 0x400) :
    writeRegister off v s = writeConn ((off - 0x100) / 8) v s := by
  simp (disch := omega) only [writeRegister, bne_iff_ne, Bool.and_eq_true, decide_eq_true_eq, if_neg, if_pos]

theorem writeRegister_window (h8 : off % 8 = 0) (hlo : 0x800 ≤ off) (hhi : off < 0x900) :
    writeRegister off v s = writeWindow ((off - 0x800) / 16) (putHalf (s.windows.getD ((off - 0x800) / 16) 0) (off % 16 = 8) v) s := by
  simp (disch := omega) only [writeRegister, bne_iff_ne, Bool.and_eq_true, decide_eq_true_eq, if_neg, if_pos]

theorem writeRegister_shadow (h8 : off % 8 = 0) (hlo : 0x1100 ≤ off) (hhi : off < 0x1200) :
    writeRegister off v s = { s with
      shadowRegions := s.shadowRegions.modify ((off - 0x1100) / 16) (fun e => putHalf e (off % 16 = 8) v &&& regionMask) } := by
  simp (disch := omega) only [writeRegister, bne_iff_ne, Bool.and_eq_true, decide_eq_true_eq, if_neg, if_pos]

theorem writeRegister_queue {q r : Nat} (hq : q < 32) (hr : r < 64) (h8 : r % 8 = 0) :
    writeRegister (0x10000 + 64 * q + r) v s = writeQueueReg q r v s := by
  simp (disch := omega) only [writeRegister, bne_iff_ne, Bool.and_eq_true, decide_eq_true_eq, if_neg, if_pos]
  rw [show (0x10000 + 64 * q + r - 0x10000) / 64 = q by omega, show (0x10000 + 64 * q + r) % 64 = r by omega]

/-- A field of one bit. -/
theorem wbits_one (v : Word) (n : Nat) : decide (wbits v n 1 = 1) = v.getLsbD n := by
  rw [wbits, BitVec.getLsbD, Nat.testBit_eq_decide_div_mod_eq, pow_one]

/-- A queue's control register written without RST, once the boot is done (R364). -/
theorem writeQueueReg_control {q : Nat} (hb : s.boot = .ready) (hrst : v.getLsbD 12 = false) :
    writeQueueReg q 8 v s = writeEn q (wbits v 13 1 = 1) (setQueue q (writeFields v) s) := by
  simp only [writeQueueReg, hb, hrst, wbits_one, beq_self_eq_true, Bool.not_true, Bool.false_eq_true, if_false, if_true,
    OfNat.ofNat_ne_zero]

theorem writeQueueReg_submit {q : Nat} (hb : s.boot = .ready) : exec (.doorbell q v) s = .next (writeQueueReg q 0x10 v s) := by
  simp [writeQueueReg, hb]
  rfl

/-- A connection entry written before the boot is done: its fields change, and REQ has no effect (R409, R426). -/
theorem writeConn_unready {i : Nat} (hb : s.boot ≠ .ready) (hi : i < s.conns.length) :
    ConnQuiet i (if (connAt s i).state = 0
      then { connAt s i with errth := wbits v 32 8, peer := wbits v 56 8, pport := wbits v 52 4, part := wbits v 45 3 }
      else { connAt s i with errth := wbits v 32 8 }) s (writeConn i v s) := by
  rw [writeConn, if_pos (bne_iff_ne.2 hb)]
  exact connQuiet_setConn _ hi

theorem exec_registerWrite {u : State} (h : writeRegister off v s = u) : exec (.registerWrite off v) s = .next u :=
  congrArg Host.Outcome.next h

theorem writeMccons_accepted (h1 : s.mcCons ≤ v.toNat) (h2 : v.toNat ≤ s.mcWptr) : writeMccons v s = { s with mcCons := v.toNat } := by
  simp [writeMccons, h1, h2]

theorem writeMccons_refused (h : v.toNat < s.mcCons ∨ s.mcWptr < v.toNat) : writeMccons v s = s := by
  have hout : (s.mcCons ≤ v.toNat && v.toNat ≤ s.mcWptr) ≠ true := by
    rw [Ne, Bool.and_eq_true, decide_eq_true_eq, decide_eq_true_eq]
    omega
  exact if_neg hout

/-! The step of the clock (R282, R285). -/

theorem mem_foldl_insert {k : Nat} (keys ks : List Nat) :
    k ∈ keys.foldl (fun ks k => if ks.contains k then ks else k :: ks) ks ↔ k ∈ ks ∨ k ∈ keys := by
  induction keys generalizing ks with
  | nil => simp
  | cons x keys ih =>
    rw [List.foldl_cons, ih, List.mem_cons]
    split
    · next h =>
      rw [List.contains_iff_mem] at h
      constructor
      · rintro (h | h) <;> simp [h]
      · rintro (h1 | rfl | h1) <;> simp [*]
    · rw [List.mem_cons, or_comm (a := k = x), or_assoc]

/-- A launch with a span on the device makes its context one that runs. -/
theorem key_mem_contextKeys {l : Launch} (hl : l ∈ s.launches) (hx : ∃ x ∈ l.spans, x.st = .placed ∨ x.st = .saved ∨ x.st = .parked) :
    l.asid.toNat + 65536 * l.part ∈ contextKeys s := by
  obtain ⟨x, hx, hst⟩ := hx
  have hruns : contextRuns s l.asid l.part = true := by
    simp only [contextRuns, List.any_eq_true, Bool.and_eq_true, beq_iff_eq, decide_eq_true_eq]
    exact ⟨l, hl, ⟨rfl, rfl⟩, x, hx, by rcases hst with h | h | h <;> rw [h]⟩
  exact List.mem_map.2 ⟨l, List.mem_filter.2 ⟨hl, hruns⟩, rfl⟩

theorem packageWindow : PackageWindow := by
  intro s v
  refine ⟨⟨_, rfl, rfl, sameBytes_of_eq rfl rfl rfl rfl rfl⟩, fun j h hj hlen => ?_, fun j h hj => ?_, fun hgo hb => ?_, rfl,
    fun q hq hb => ⟨?_, fun hrst => ?_⟩, fun i hlt hlen hb => ?_, fun off h => ⟨_, exec_registerWrite (writeRegister_misaligned h), rfl⟩,
    fun h1 h2 => completes_of_eq rfl (writeMccons_accepted h1 h2) ⟨rfl, sameBytes_of_eq⟩,
    fun h => completes_of_eq rfl (writeMccons_refused h) rfl,
    ⟨_, rfl, rfl, fun l hl hx => (mem_foldl_insert _ _).2 (.inr (key_mem_contextKeys hl hx)),
      fun k hk => (mem_foldl_insert _ _).2 (.inl hk), sameBytes_of_eq rfl rfl rfl rfl rfl⟩,
    fun lock => ⟨_, rfl, rfl, sameBytes_of_eq rfl rfl rfl rfl rfl⟩⟩
  · obtain ⟨hidx, hhigh⟩ := half_index (base := 0x1100) (j := j) h (by decide)
    have hle := h.toNat_le
    have hw := writeRegister_shadow (s := s) (v := v) (off := 0x1100 + 16 * j + 8 * h.toNat) (by omega) (by omega) (by omega)
    rw [hidx, hhigh] at hw
    refine ⟨_, exec_registerWrite hw, ⟨rfl, fun i hi => ?_, fun e he => ?_⟩⟩
    · simp [hi.symm]
    · refine ⟨putHalf e h v &&& regionMask, by simp [he], ?_, ?_⟩
      · rw [BitVec.extractLsb'_and, extract_putHalf_same, extract_regionMask]
      · rw [BitVec.extractLsb'_and, extract_putHalf_other, extract_regionMask]
        cases h <;> rfl
  · obtain ⟨hidx, hhigh⟩ := half_index (base := 0x800) (j := j) h (by decide)
    have hle := h.toNat_le
    have hw := writeRegister_window (s := s) (v := v) (off := 0x800 + 16 * j + 8 * h.toNat) (by omega) (by omega) (by omega)
    rw [hidx, hhigh] at hw
    exact exec_registerWrite hw
  · exact exec_registerWrite ((writeRegister_go v s).trans (if_pos (by rw [hgo, hb]; rfl)))
  · rw [writeQueueReg_submit hb]
    exact exec_registerWrite (writeRegister_queue hq (by decide) (by decide))
  · exact exec_registerWrite ((writeRegister_queue hq (by decide) (by decide)).trans (writeQueueReg_control hb hrst))
  · have hw := writeRegister_conn (s := s) (v := v) (off := 0x100 + 8 * i) (by omega) (by omega) (by omega)
    rw [show (0x100 + 8 * i - 0x100) / 8 = i by omega] at hw
    exact ⟨_, exec_registerWrite hw, writeConn_unready hb (by rw [hlen]; exact hlt)⟩

end Sys2Proof.Proofs
end

section
/-! The driver's reads of the package window (R95, R364, R406 to R409, R415, R418) and the Cox's read of the fault records (R73). -/
namespace Sys2Proof.Proofs
open Sys2Proof Sys2Proof.Machine Sys2Proof.Claims
variable {s : State} {off : Nat} {v : Word}

/-- A read of an offset that is no connection entry returns its word, and changes nothing else. -/
theorem windowRead_returns (hoff : off < 0x100 ∨ 0x400 ≤ off) (hv : registerAt s off = v) :
    Completes (.windowRead off) s (fun t => t = { s with hostRead := [v] } ∧ SameBytes s t) := by
  have hplain : ¬ (off % 8 = 0 && 0x100 ≤ off && off < 0x400) = true := by
    simp only [Bool.and_eq_true, decide_eq_true_eq]
    omega
  subst hv
  exact completes_of_eq rfl (if_neg hplain) ⟨rfl, sameBytes_of_eq⟩

/-- A read of a connection entry clears its ERRCNT (R409). -/
theorem windowRead_conn {i : Nat} (hi : i < 96) : exec (.windowRead (0x100 + 8 * i)) s = exec (.connErrcntRead i) s := by
  have hconn : (decide ((0x100 + 8 * i) % 8 = 0) && decide (0x100 ≤ 0x100 + 8 * i) && decide (0x100 + 8 * i < 0x400)) = true := by
    simp only [Bool.and_eq_true, decide_eq_true_eq]
    omega
  have hword : registerAt s (0x100 + 8 * i) = connWord (connAt s i) := by
    simp (disch := omega) only [registerAt, bne_iff_ne, Bool.and_eq_true, decide_eq_true_eq, if_neg, if_pos]
    rw [show (0x100 + 8 * i - 0x100) / 8 = i by omega]
  refine congrArg Host.Outcome.next ((if_pos hconn).trans ?_)
  rw [show (0x100 + 8 * i - 0x100) / 8 = i by omega, hword]

/-! The word at each offset (R406). -/

theorem registerAt_ratio {d : Nat} (hd : d < 4) : registerAt s (0x010 + 8 * d) = BitVec.ofNat 64 (s.ratios.getD d 0) := by
  simp (disch := omega) only [registerAt, bne_iff_ne, Bool.and_eq_true, decide_eq_true_eq, if_neg, if_pos]
  rw [show (0x010 + 8 * d - 0x010) / 8 = d by omega]

theorem registerAt_windows (h8 : off % 8 = 0) (hlo : 0x800 ≤ off) (hhi : off < 0x900) : registerAt s off = halfOf s.windows 0x800 off := by
  simp (disch := omega) only [registerAt, bne_iff_ne, Bool.and_eq_true, decide_eq_true_eq, if_neg, if_pos]

theorem registerAt_regions (h8 : off % 8 = 0) (hlo : 0x1000 ≤ off) (hhi : off < 0x1100) :
    registerAt s off = halfOf s.regions 0x1000 off := by
  simp (disch := omega) only [registerAt, bne_iff_ne, Bool.and_eq_true, decide_eq_true_eq, if_neg, if_pos]

theorem registerAt_shadow (h8 : off % 8 = 0) (hlo : 0x1100 ≤ off) (hhi : off < 0x1200) :
    registerAt s off = halfOf s.shadowRegions 0x1100 off := by
  simp (disch := omega) only [registerAt, bne_iff_ne, Bool.and_eq_true, decide_eq_true_eq, if_neg, if_pos]

theorem registerAt_queue {q i : Nat} (hq : q < 32) (hi : i < 8) :
    registerAt s (0x10000 + 64 * q + 8 * i) = (queueBlock s q).getD i 0 := by
  simp (disch := omega) only [registerAt, bne_iff_ne, Bool.and_eq_true, decide_eq_true_eq, if_neg, if_pos]
  rw [show (0x10000 + 64 * q + 8 * i - 0x10000) / 64 = q by omega, show (0x10000 + 64 * q + 8 * i) % 64 / 8 = i by omega]

/-- An offset is reserved (R406). -/
def ReservedOffset (off : Nat) : Prop :=
  (0x030 ≤ off ∧ off < 0x040) ∨ (0x070 ≤ off ∧ off < 0x100) ∨ (0x400 ≤ off ∧ off < 0x800) ∨ (0x900 ≤ off ∧ off < 0x1000) ∨
    (0x1200 ≤ off ∧ off < 0x10000) ∨ 0x10800 ≤ off

theorem registerAt_reserved (h : ReservedOffset off) : registerAt s off = 0 := by
  unfold ReservedOffset at h
  simp (disch := omega) only [registerAt, bne_iff_ne, Bool.and_eq_true, decide_eq_true_eq, if_neg]
  exact ite_self 0

/-- The version and the pending commit in the table-control register (R113). -/
theorem toNat_tableControl (s : State) :
    (tableControl s).toNat = min (drainCount s) 65535 * 16 + 8 * s.commitPend.toNat + s.ver.toNat := by
  have hpend := s.commitPend.toNat_le
  have hver := s.ver.isLt
  rw [tableControl, BitVec.toNat_ofNat]
  exact Nat.mod_eq_of_lt (by omega)

theorem tableControl_ver (s : State) : (tableControl s).toNat % 2 ^ 3 = s.ver.toNat := by
  have hver := s.ver.isLt
  rw [toNat_tableControl]
  omega

theorem tableControl_pending (s : State) : (tableControl s).getLsbD 3 = s.commitPend := by
  have hver := s.ver.isLt
  rw [BitVec.getLsbD, Nat.testBit_eq_decide_div_mod_eq, toNat_tableControl]
  cases s.commitPend
  · exact decide_eq_false (by simp; omega)
  · exact decide_eq_true (by simp; omega)

theorem windowReads : WindowReads := by
  intro s
  refine ⟨windowRead_returns (by decide) rfl, windowRead_returns (by decide) rfl,
    fun d hd => windowRead_returns (by omega) (registerAt_ratio hd),
    ⟨_, windowRead_returns (by decide) rfl, tableControl_ver s, tableControl_pending s⟩,
    windowRead_returns (by decide) rfl, windowRead_returns (by decide) rfl, windowRead_returns (by decide) rfl,
    windowRead_returns (by decide) rfl, windowRead_returns (by decide) rfl, fun i hi => windowRead_conn hi, fun h w hw => ?_,
    fun q i hq hi => windowRead_returns (by omega) (registerAt_queue hq hi),
    fun off h => windowRead_returns (by omega) (registerAt_reserved h)⟩
  have hle := h.toNat_le
  exact ⟨windowRead_returns (by omega) ((registerAt_windows (by omega) (by omega) (by omega)).trans (halfOf_entry _ h (by decide))),
    windowRead_returns (by omega) ((registerAt_regions (by omega) (by omega) (by omega)).trans (halfOf_entry _ h (by decide))),
    windowRead_returns (by omega) ((registerAt_shadow (by omega) (by omega) (by omega)).trans (halfOf_entry _ h (by decide)))⟩

theorem faultBufferReads : FaultBufferReads := fun s die =>
  ⟨_, rfl, rfl, rfl, fun r => by simp⟩

/-- Settles O52: an entry changes quietly or its event follows, whose record stands in the log; a register is written and read at
its offset, and no other place of the window is reached. -/
theorem connectionsAndWindow : Obligations.ConnectionsAndWindow := ⟨connectionGroups, packageWindow, windowReads, faultBufferReads⟩

end Sys2Proof.Proofs
end

section
/-! The bytes, words and lines of the homes (R6, R7, R93, R98): which bytes and words a mask holds, and what a merged, a written
and a written-back line reads. -/
namespace Sys2Proof.Proofs
open Sys2Proof Sys2Proof.Machine Sys2Proof.Claims

/-- A fold that may take up the bits of one element after the other holds the bits that one of them brings. -/
theorem getLsbD_foldl_or {α : Type} {n : Nat} (p : α → Bool) (b : α → BitVec n) (xs : List α) (m : BitVec n) (k : Nat) :
    (xs.foldl (fun m x => if p x then m ||| b x else m) m).getLsbD k = (m.getLsbD k || xs.any (fun x => p x && (b x).getLsbD k)) := by
  induction xs generalizing m with
  | nil => simp
  | cons x xs ih =>
    rw [List.foldl_cons, ih, List.any_cons]
    cases p x <;> simp [Bool.or_assoc]

theorem getLsbD_maskRange (off n k : Nat) :
    (maskRange off n).getLsbD k = (decide (k < 128) && decide (off ≤ k ∧ k < off + n)) := by
  rw [maskRange, BitVec.getLsbD_ofNat, Nat.testBit_mul_two_pow, Nat.testBit_two_pow_sub_one, ← Bool.decide_and]
  congr 1
  exact decide_eq_decide.2 (by omega)

theorem getLsbD_bytesOf (w : BitVec 32) {k : Nat} (hk : k < 128) : (bytesOf w).getLsbD k = w.getLsbD (k / 4) := by
  have hword (i : Nat) : (maskRange (4 * i) 4).getLsbD k = decide (i = k / 4) := by
    rw [getLsbD_maskRange, decide_eq_true hk, Bool.true_and]
    exact decide_eq_decide.2 (by omega)
  rw [bytesOf, getLsbD_foldl_or, Bool.eq_iff_iff]
  simp only [hword, BitVec.ofNat_eq_ofNat, BitVec.getLsbD_zero, Bool.false_or, List.any_eq_true, List.mem_range, Bool.and_eq_true,
    decide_eq_true_eq]
  exact ⟨fun ⟨i, _, hi, he⟩ => he ▸ hi, fun h => ⟨k / 4, by omega, h, rfl⟩⟩

/-- The word of a byte of a mask is one of its words. -/
theorem wordsOf_of_byte {m : LineMask} {k : Nat} (h : m.getLsbD k = true) : (wordsOf m).getLsbD (k / 4) = true := by
  have hk : k < 128 := BitVec.lt_of_getLsbD h
  have hne : m.extractLsb' (4 * (k / 4)) 4 ≠ 0 := fun h0 => by
    have hb := congrArg (fun v : BitVec 4 => v.getLsbD (k % 4)) h0
    simp only [BitVec.getLsbD_extractLsb', BitVec.ofNat_eq_ofNat, BitVec.getLsbD_zero, show 4 * (k / 4) + k % 4 = k by omega, h,
      Bool.and_true, decide_eq_false_iff_not] at hb
    omega
  have hf : wordsOf m =
      (List.range 32).foldl (fun w i => if !decide (m.extractLsb' (4 * i) 4 = 0) then w ||| BitVec.twoPow 32 i else w) 0 := by
    rw [wordsOf]
    congr 1
    funext w i
    by_cases h0 : m.extractLsb' (4 * i) 4 = 0 <;> simp [h0]
  rw [hf, getLsbD_foldl_or, Bool.or_eq_true, List.any_eq_true]
  refine Or.inr ⟨k / 4, List.mem_range.2 (by omega), ?_⟩
  rw [decide_eq_false hne, BitVec.getLsbD_twoPow]
  simp only [Bool.not_false, decide_true, Bool.and_true, Bool.true_and, decide_eq_true_eq]
  omega

theorem lineByte_setByte (d : LineData) (b : Byte) {k j : Nat} (hk : k < 128) :
    lineByte (setByte d k b) j = if j = k then b else lineByte d j := by
  apply BitVec.eq_of_getLsbD_eq
  intro i hi
  have hmask : (0xFF#1024).getLsbD (8 * j + i - 8 * k) = decide (8 * j + i - 8 * k < 8) := by
    rw [show (0xFF#1024) = BitVec.ofNat 1024 (2 ^ 8 - 1) from rfl, BitVec.getLsbD_ofNat, Nat.testBit_two_pow_sub_one, ← Bool.decide_and]
    exact decide_eq_decide.2 (by omega)
  rw [apply_ite (fun v : Byte => v.getLsbD i)]
  simp only [lineByte, setByte, BitVec.getLsbD_extractLsb', BitVec.getLsbD_or, BitVec.getLsbD_and, BitVec.getLsbD_not,
    BitVec.getLsbD_shiftLeft, BitVec.getLsbD_setWidth, hmask, hi, decide_true, Bool.true_and]
  rcases lt_trichotomy j k with hlt | rfl | hgt
  · have h1 : 8 * j + i < 8 * k := by omega
    simp [h1, hlt.ne, show 8 * j + i < 1024 by omega]
  · rw [if_pos rfl, show 8 * j + i - 8 * j = i by omega]
    simp [show ¬ 8 * j + i < 8 * j by omega, show 8 * j + i < 1024 by omega, show i < 1024 by omega, hi]
  · have h2 : ¬ 8 * j + i - 8 * k < 8 := by omega
    have hb : b.getLsbD (8 * j + i - 8 * k) = false := BitVec.getLsbD_of_ge b _ (by omega)
    by_cases h3 : 8 * j + i < 1024
    · simp [h2, h3, hb, hgt.ne']
    · simp [h3, hgt.ne', BitVec.getLsbD_of_ge d (8 * j + i) (by omega)]

/-- A fold that may write the cell of one key after the other: the cell of one key holds what was written there. -/
theorem foldl_write {α β γ : Type} [DecidableEq α] (read : β → γ) (p : α → Bool) (write : β → α → β) (v : α → γ) (j : α) (ks : List α)
    (hw : ∀ d, ∀ k ∈ ks, read (write d k) = if k = j then v k else read d) (d : β) :
    read (ks.foldl (fun d k => if p k then write d k else d) d) = if j ∈ ks ∧ p j = true then v j else read d := by
  induction ks generalizing d with
  | nil => simp
  | cons k ks ih =>
    rw [List.foldl_cons, ih fun d x hx => hw d x (List.mem_cons_of_mem k hx)]
    by_cases hj : j ∈ ks ∧ p j = true
    · rw [if_pos hj, if_pos ⟨List.mem_cons_of_mem k hj.1, hj.2⟩]
    rw [if_neg hj]
    by_cases he : k = j
    · subst he
      by_cases hp : p k = true <;> simp [hp, hw d k List.mem_cons_self]
    · have hread : read (if p k = true then write d k else d) = read d := by
        rw [apply_ite read, hw d k List.mem_cons_self, if_neg he, ite_self]
      rw [hread, if_neg]
      rintro ⟨hmem, hp⟩
      exact hj ⟨(List.mem_cons.1 hmem).resolve_left (Ne.symm he), hp⟩

/-- A merged line has the bytes of the mask from the new one. -/
theorem lineByte_mergeLine (m : LineMask) (new old : LineData) (k : Nat) :
    lineByte (mergeLine m new old) k = if m.getLsbD k = true then lineByte new k else lineByte old k := by
  rw [mergeLine, foldl_write (fun d => lineByte d k) m.getLsbD _ (lineByte new) k _ fun d j hj => by
    rw [lineByte_setByte d _ (List.mem_range.1 hj)]
    exact if_congr eq_comm rfl rfl]
  exact if_congr ⟨And.right, fun h => ⟨List.mem_range.2 (BitVec.lt_of_getLsbD h), h⟩⟩ rfl rfl

/-- The byte of a number of bytes, lowest first (R7). -/
theorem leVal_byte (bs : List Byte) (i : Nat) : BitVec.ofNat 8 (leVal bs / 2 ^ (8 * i)) = bs.getD i 0 := by
  induction bs generalizing i with
  | nil => simp [leVal]
  | cons b bs ih =>
    have hb : b.toNat < 256 := b.isLt
    cases i with
    | zero =>
      apply BitVec.eq_of_toNat_eq
      simp only [leVal, Nat.mul_zero, pow_zero, Nat.div_one, BitVec.toNat_ofNat, List.getD_cons_zero]
      omega
    | succ i =>
      rw [List.getD_cons_succ, ← ih, leVal, show 8 * (i + 1) = 8 + 8 * i by ring, pow_add, ← Nat.div_div_eq_div_mul,
        show (b.toNat + 256 * leVal bs) / 2 ^ 8 = leVal bs by omega]

/-- Bytes placed in a line stand where they were placed. -/
theorem lineByte_lineOfBytes {off : Nat} {bs : List Byte} {k : Nat} (hlo : off ≤ k) (hk : k < 128) :
    lineByte (lineOfBytes off bs) k = bs.getD (k - off) 0 := by
  rw [← leVal_byte]
  obtain ⟨j, rfl⟩ := Nat.exists_eq_add_of_le hlo
  apply BitVec.eq_of_toNat_eq
  rw [lineByte, lineOfBytes, BitVec.extractLsb'_toNat, BitVec.toNat_ofNat, BitVec.toNat_ofNat, Nat.shiftRight_eq_div_pow]
  rw [show (1024 : Nat) = 8 * (off + j) + (1024 - 8 * (off + j)) by omega, pow_add, Nat.mod_mul_right_div_self,
    Nat.mod_mod_of_dvd _ (pow_dvd_pow 2 (by omega)), show 8 * (off + j) = 8 * j + 8 * off by ring, pow_add,
    Nat.mul_div_mul_right _ _ (by positivity), show off + j - off = j by omega]

/-- Device memory after bytes of a line were written. -/
theorem tget_putLine (m : LineMask) (d : LineData) (line : Nat) (s : State) (a : Nat) :
    tget 0 (putLine m d line s).mem a = if a / 128 = line ∧ m.getLsbD (a % 128) = true then lineByte d (a % 128) else tget 0 s.mem a := by
  by_cases hline : a / 128 = line
  · rw [putLine, foldl_write (fun t => tget 0 t a) m.getLsbD _ (lineByte d) (a % 128) _ fun t k hk => by
      rw [List.mem_range] at hk
      rw [tget_tset]
      exact if_congr (by omega) rfl rfl]
    exact if_congr (by simp [hline, Nat.mod_lt]) rfl rfl
  · rw [putLine, foldl_write (fun t => tget 0 t a) m.getLsbD _ (lineByte d) 128 _ fun t k hk => by
      rw [List.mem_range] at hk
      rw [tget_tset]
      exact if_congr (by omega) rfl rfl]
    rw [if_neg (by simp), if_neg fun h => hline h.1]

end Sys2Proof.Proofs
end

section
/-! The operations of the homes on copies and device memory (R97 to R105): what each does to the bytes of a line, which copies it
leaves, and that it leaves every table but those of the homes. -/
namespace Sys2Proof.Proofs
open Sys2Proof Sys2Proof.Machine Sys2Proof.Claims
variable (s : State)

/-- The state without what a slice's L2 changes (R93, R419). -/
def besidesL2 (s : State) : State := { s with l2 := [], latent := [], found := [], free := 0 }

theorem besidesL2_l2Touch (line : Nat) (sec : BitVec 4) (owner : Option (BitVec 18)) : besidesL2 (l2Touch line sec owner s) = besidesL2 s := by
  unfold l2Touch
  dsimp only
  split
  · rfl
  split
  · rfl
  split
  · rfl
  · exact foldl_keeps (φ := besidesL2) (f := fun s e => leaveL2 e s) (fun _ _ => rfl) _ s

@[simp] theorem mem_l2Touch (line : Nat) (sec : BitVec 4) (owner : Option (BitVec 18)) : (l2Touch line sec owner s).mem = s.mem :=
  (congrArg State.mem (besidesL2_l2Touch s line sec owner) :)
@[simp] theorem copies_l2Touch (line : Nat) (sec : BitVec 4) (owner : Option (BitVec 18)) : (l2Touch line sec owner s).copies = s.copies :=
  (congrArg State.copies (besidesL2_l2Touch s line sec owner) :)
@[simp] theorem hostAcks_l2Touch (line : Nat) (sec : BitVec 4) (owner : Option (BitVec 18)) :
    (l2Touch line sec owner s).hostAcks = s.hostAcks :=
  (congrArg State.hostAcks (besidesL2_l2Touch s line sec owner) :)

/-- The state without what the homes change: the memory and its slices, the copies, and the groups' monitors and fences. -/
def besidesCaches (s : State) : State :=
  { s with cur := State.reset.cur, groups := [], mem := [], copies := [], hostAcks := [], l2 := [], latent := [], found := [], free := 0 }

@[simp] theorem besidesCaches_setCopy (client line : Nat) (f : Copy → Copy) : besidesCaches (setCopy client line f s) = besidesCaches s := rfl
@[simp] theorem besidesCaches_storeSeen (core line : Nat) : besidesCaches (storeSeen core line s) = besidesCaches s := rfl
@[simp] theorem besidesCaches_writeSectors (line : Nat) (m : LineMask) : besidesCaches (writeSectors line m s) = besidesCaches s := rfl
@[simp] theorem besidesCaches_putLine (m : LineMask) (d : LineData) (line : Nat) : besidesCaches (putLine m d line s) = besidesCaches s := rfl

@[simp] theorem besidesCaches_l2Touch (line : Nat) (sec : BitVec 4) (owner : Option (BitVec 18)) :
    besidesCaches (l2Touch line sec owner s) = besidesCaches s := (congrArg besidesCaches (besidesL2_l2Touch s line sec owner) :)

@[simp] theorem besidesCaches_writeBack (m : LineMask) (c : Copy) : besidesCaches (writeBack m c s) = besidesCaches s := by
  unfold writeBack
  dsimp only
  split
  · rfl
  · simp

@[simp] theorem besidesCaches_takeBack (c : Copy) : besidesCaches (takeBack c s) = besidesCaches s := by
  have h := besidesCaches_writeBack s (BitVec.allOnes 128) c
  unfold takeBack
  dsimp only
  split <;> exact h

@[simp] theorem besidesCaches_dropWords (m : LineMask) (c : Copy) : besidesCaches (dropWords m c s) = besidesCaches s := by
  have h := besidesCaches_writeBack s (bytesOf (wordsOf m)) c
  unfold dropWords
  dsimp only
  split
  · rfl
  · split <;> split <;> exact h

@[simp] theorem besidesCaches_recallAll (cs : List Copy) : besidesCaches (recallAll cs s) = besidesCaches s := by
  induction cs generalizing s with
  | nil => rfl
  | cons c cs ih => rw [recallAll, ih, besidesCaches_takeBack]

@[simp] theorem besidesCaches_dropWordsAll (m : LineMask) (cs : List Copy) : besidesCaches (dropWordsAll m cs s) = besidesCaches s := by
  induction cs generalizing s with
  | nil => rfl
  | cons c cs ih => rw [dropWordsAll, ih, besidesCaches_dropWords]

@[simp] theorem besidesCaches_homePrepare (client line : Nat) (m : LineMask) :
    besidesCaches (homePrepare client line m s) = besidesCaches s := by
  rw [homePrepare, besidesCaches_dropWordsAll, besidesCaches_recallAll]

@[simp] theorem besidesCaches_homeStore (client line : Nat) (m : LineMask) (d : LineData) (owner : BitVec 18) :
    besidesCaches (homeStore client line m d owner s) = besidesCaches s := by
  simp [homeStore]

/-! What a write-back and a recall do to the memory and the copies (R98, R102). -/

theorem homeByte_of_line {line a : Nat} (h : a / 128 = line) : homeByte s line (a % 128) = tget 0 s.mem a := by
  rw [homeByte, ← h, Nat.div_add_mod]

/-- The dirty words of a copy stand at its home after their write-back, and nothing else changes there. -/
theorem lineBytes_writeBack (m : LineMask) (c : Copy) : LineBytes c.line (cleanedBytes m c s) s (writeBack m c s) := by
  intro a
  have hbit : (bytesOf (c.dirty &&& wordsOf m)).getLsbD (a % 128) = true ↔
      c.dirty.getLsbD (a % 128 / 4) = true ∧ (wordsOf m).getLsbD (a % 128 / 4) = true := by
    rw [getLsbD_bytesOf _ (Nat.mod_lt a (by omega)), BitVec.getLsbD_and, Bool.and_eq_true]
  have hcleaned (ha : a / 128 = c.line) : cleanedBytes m c s (a % 128) =
      if (bytesOf (c.dirty &&& wordsOf m)).getLsbD (a % 128) = true then lineByte c.data (a % 128) else tget 0 s.mem a := by
    rw [cleanedBytes, homeByte_of_line s ha]
    exact (if_congr hbit rfl rfl).symm
  unfold writeBack
  dsimp only
  split
  · next hw =>
    split
    · next ha =>
      rw [hcleaned ha, if_neg]
      rw [getLsbD_bytesOf _ (Nat.mod_lt a (by omega)), hw]
      simp
    · rfl
  · rw [mem_l2Touch, tget_putLine, ite_and]
    split
    · next ha =>
      rw [hcleaned ha]
      rfl
    · rfl

theorem writeBack_clean (m : LineMask) {c : Copy} (h : c.dirty = 0) : writeBack m c s = s := by
  rw [writeBack, h]
  exact if_pos (by simp)

@[simp] theorem copies_writeBack (m : LineMask) (c : Copy) : (writeBack m c s).copies = s.copies := by
  unfold writeBack
  dsimp only
  split
  · rfl
  · exact copies_l2Touch _ _ _ _

@[simp] theorem hostAcks_writeBack (m : LineMask) (c : Copy) : (writeBack m c s).hostAcks = s.hostAcks := by
  unfold writeBack
  dsimp only
  split
  · rfl
  · exact hostAcks_l2Touch _ _ _ _

theorem mem_takeBack (c : Copy) : (takeBack c s).mem = (writeBack (BitVec.allOnes 128) c s).mem := by
  unfold takeBack
  dsimp only
  split <;> rfl

theorem copies_takeBack (c : Copy) : (takeBack c s).copies = s.copies.filter (fun x => !(x.client = c.client && x.line = c.line)) := by
  have h : (removeCopy c.client c.line (writeBack (BitVec.allOnes 128) c s)).copies =
      s.copies.filter (fun x => !(x.client = c.client && x.line = c.line)) := by
    rw [removeCopy, copies_writeBack]
  unfold takeBack
  dsimp only
  split <;> exact h

/-- Copies that have been recalled are gone, and no other copy is. -/
theorem mem_copies_recallAll (cs : List Copy) (x : Copy) :
    x ∈ (recallAll cs s).copies ↔ x ∈ s.copies ∧ ∀ c ∈ cs, ¬ (x.client = c.client ∧ x.line = c.line) := by
  induction cs generalizing s with
  | nil => simp [recallAll]
  | cons c cs ih =>
    rw [recallAll, ih, copies_takeBack, List.mem_filter, List.forall_mem_cons, and_assoc]
    simp only [Bool.not_eq_true', Bool.and_eq_false_iff, decide_eq_false_iff_not, not_and_or]

theorem mem_recallAll_clean {cs : List Copy} (h : ∀ c ∈ cs, c.dirty = 0) : (recallAll cs s).mem = s.mem := by
  induction cs generalizing s with
  | nil => rfl
  | cons c cs ih =>
    obtain ⟨hc, hcs⟩ := List.forall_mem_cons.1 h
    rw [recallAll, ih _ hcs, mem_takeBack, writeBack_clean s _ hc]

end Sys2Proof.Proofs
end

section
/-! Copies through the operations of a home (R97 to R103): what is left of each, that a line without dirty words is prepared for a
store without a write, and what a store at the home writes. -/
namespace Sys2Proof.Proofs
open Sys2Proof Sys2Proof.Machine Sys2Proof.Claims

/-- What is left of a copy: the same client's copy of the same line in the same state, clean where it was. -/
structure CopyLeft (x y : Copy) : Prop where
  client : y.client = x.client
  line : y.line = x.line
  kind : y.kind = x.kind
  clean : x.dirty = 0 → y.dirty = 0

theorem CopyLeft.refl (x : Copy) : CopyLeft x x := ⟨rfl, rfl, rfl, id⟩

/-- Every copy is what is left of an earlier one. -/
def CopiesLeft (s t : State) : Prop := ∀ y ∈ t.copies, ∃ x ∈ s.copies, CopyLeft x y

theorem CopiesLeft.of_subset {s t : State} (h : ∀ y ∈ t.copies, y ∈ s.copies) : CopiesLeft s t := fun y hy => ⟨y, h y hy, .refl y⟩

theorem CopiesLeft.trans {s t u : State} (a : CopiesLeft s t) (b : CopiesLeft t u) : CopiesLeft s u := fun z hz => by
  obtain ⟨y, hy, hyz⟩ := b z hz
  obtain ⟨x, hx, hxy⟩ := a y hy
  exact ⟨x, hx, hyz.client.trans hxy.client, hyz.line.trans hxy.line, hyz.kind.trans hxy.kind, hyz.clean ∘ hxy.clean⟩

theorem CopiesLeft.cleanLine {s t : State} {line : Nat} (h : CopiesLeft s t) (hc : CleanLine line s) : CleanLine line t := fun y hy hl => by
  obtain ⟨x, hx, hxy⟩ := h y hy
  exact hxy.clean (hc x hx (hxy.line.symm.trans hl))

variable (s : State)

theorem copiesLeft_setCopy (client line : Nat) {f : Copy → Copy} (hf : ∀ x, CopyLeft x (f x)) : CopiesLeft s (setCopy client line f s) := by
  intro y hy
  obtain ⟨x, hx, rfl⟩ := List.mem_map.1 hy
  refine ⟨x, hx, ?_⟩
  split
  · exact hf x
  · exact .refl x

theorem copiesLeft_dropWords (m : LineMask) (c : Copy) : CopiesLeft s (dropWords m c s) := by
  have hremove : CopiesLeft s (removeCopy c.client c.line (writeBack (bytesOf (wordsOf m)) c s)) :=
    .of_subset fun y hy => by
      rw [removeCopy, copies_writeBack] at hy
      exact List.mem_of_mem_filter hy
  have hset : CopiesLeft s (setCopy c.client c.line (fun x => { x with
      r := c.r &&& ~~~(bytesOf (wordsOf m)), w := c.w &&& ~~~(bytesOf (wordsOf m)), dirty := x.dirty &&& ~~~(wordsOf m) })
      (writeBack (bytesOf (wordsOf m)) c s)) :=
    (CopiesLeft.of_subset (t := writeBack (bytesOf (wordsOf m)) c s) fun y hy => by rwa [copies_writeBack] at hy).trans
      (copiesLeft_setCopy _ _ _ fun x => ⟨rfl, rfl, rfl, fun h => by simp [h]⟩)
  unfold dropWords
  dsimp only
  split
  · exact .of_subset fun y hy => hy
  · split <;> split
    · exact hremove
    · exact hset
    · exact hremove
    · exact hset

theorem mem_dropWords_clean (m : LineMask) {c : Copy} (h : c.dirty = 0) : (dropWords m c s).mem = s.mem := by
  unfold dropWords
  dsimp only
  rw [writeBack_clean s _ h]
  split
  · rfl
  · split <;> split <;> rfl

theorem copiesLeft_dropWordsAll (m : LineMask) (cs : List Copy) : CopiesLeft s (dropWordsAll m cs s) := by
  induction cs generalizing s with
  | nil => exact .of_subset fun y hy => hy
  | cons c cs ih => exact (copiesLeft_dropWords s m c).trans (ih _)

theorem mem_dropWordsAll_clean (m : LineMask) {cs : List Copy} (h : ∀ c ∈ cs, c.dirty = 0) : (dropWordsAll m cs s).mem = s.mem := by
  induction cs generalizing s with
  | nil => rfl
  | cons c cs ih =>
    obtain ⟨hc, hcs⟩ := List.forall_mem_cons.1 h
    rw [dropWordsAll, ih _ hcs, mem_dropWords_clean s m hc]

theorem copiesLeft_recallAll (cs : List Copy) : CopiesLeft s (recallAll cs s) := .of_subset fun y hy => ((mem_copies_recallAll s cs y).1 hy).1

theorem copiesLeft_homePrepare (client line : Nat) (m : LineMask) : CopiesLeft s (homePrepare client line m s) :=
  (copiesLeft_recallAll s _).trans (copiesLeft_dropWordsAll _ m _)

variable {s}

/-- A line without dirty words is prepared for a store without a write (R102). -/
theorem mem_homePrepare_clean {line : Nat} (client : Nat) (m : LineMask) (h : CleanLine line s) : (homePrepare client line m s).mem = s.mem := by
  rw [homePrepare, mem_dropWordsAll_clean, mem_recallAll_clean]
  · intro c hc
    simp only [List.mem_filter, Bool.and_eq_true, decide_eq_true_eq] at hc
    exact h c hc.1 hc.2.1.1
  · intro c hc
    simp only [holders, List.mem_filter, Bool.and_eq_true, decide_eq_true_eq] at hc
    exact h c hc.1 hc.2.1

/-- No other client shares a line after it has been prepared for a store (R102). -/
theorem shared_of_homePrepare {client line : Nat} {m : LineMask} {y : Copy} (hy : y ∈ (homePrepare client line m s).copies)
    (hl : y.line = line) (hk : y.kind = .shared) : y.client = client := by
  obtain ⟨x, hx, hxy⟩ := copiesLeft_dropWordsAll _ m _ y hy
  obtain ⟨hxs, hnot⟩ := (mem_copies_recallAll s _ x).1 hx
  by_contra hne
  refine hnot x (List.mem_filter.2 ⟨hxs, ?_⟩) ⟨rfl, rfl⟩
  rw [hxy.client] at hne
  rw [hxy.line] at hl
  rw [hxy.kind] at hk
  simp [hl, hk, hne]

theorem mem_homeStore (client line : Nat) (m : LineMask) (d : LineData) (owner : BitVec 18) (s : State) (a : Nat) :
    tget 0 (homeStore client line m d owner s).mem a =
      if a / 128 = line ∧ m.getLsbD (a % 128) = true then lineByte d (a % 128) else tget 0 (homePrepare client line m s).mem a := by
  have hmem : (homeStore client line m d owner s).mem = (putLine m d line (writeSectors line m (setCopy client line
      (fun c => { c with data := mergeLine m d c.data }) (homePrepare client line m s)))).mem := mem_l2Touch _ _ _ _
  rw [hmem, tget_putLine]
  rfl

theorem copies_homeStore (client line : Nat) (m : LineMask) (d : LineData) (owner : BitVec 18) (s : State) :
    (homeStore client line m d owner s).copies =
      (setCopy client line (fun c => { c with data := mergeLine m d c.data }) (homePrepare client line m s)).copies :=
  copies_l2Touch _ _ _ _

/-- A store at the home of a clean line writes its bytes, and nothing else changes there. -/
theorem lineBytes_homeStore {line : Nat} (client : Nat) (m : LineMask) (d : LineData) (owner : BitVec 18) (h : CleanLine line s) :
    LineBytes line (storedBytes m d line s) s (homeStore client line m d owner s) := by
  intro a
  rw [mem_homeStore, mem_homePrepare_clean client m h, ite_and]
  split
  · next ha => rw [storedBytes, homeByte_of_line s ha]
  · rfl

/-- Bytes stored in a line of device memory stand there, and every other byte is as before. -/
theorem bytesPut_of_lineBytes {line off : Nat} {bs : List Byte} {t : State} (hoff : off + bs.length ≤ 128)
    (h : LineBytes line (storedBytes (maskRange off bs.length) (lineOfBytes off bs) line s) s t) :
    BytesPut (128 * line + off) bs s.mem t.mem := by
  intro a
  rw [h a]
  by_cases ha : a / 128 = line
  · have hk : a % 128 < 128 := Nat.mod_lt a (by omega)
    rw [if_pos ha, storedBytes, homeByte_of_line s ha, getLsbD_maskRange, decide_eq_true hk, Bool.true_and]
    by_cases hin : off ≤ a % 128 ∧ a % 128 < off + bs.length
    · rw [if_pos (decide_eq_true hin), if_pos (by omega), lineByte_lineOfBytes hin.1 hk, show a - (128 * line + off) = a % 128 - off by omega]
    · rw [if_neg (by simpa using hin), if_neg (by omega)]
  · rw [if_neg ha, if_neg (by omega)]

end Sys2Proof.Proofs
end

section
/-! Requests of clients at the home (R97, R100 to R103): fills, loads served without a copy, and `.own` accesses. -/
namespace Sys2Proof.Proofs
open Sys2Proof Sys2Proof.Machine Sys2Proof.Claims
variable {s : State}

/-! Finding a client's copy. -/

theorem mem_of_copyOf {client line : Nat} {c : Copy} (h : copyOf client line s = some c) :
    c ∈ s.copies ∧ c.client = client ∧ c.line = line := by
  have hp := List.find?_some h
  rw [Bool.and_eq_true, decide_eq_true_eq, decide_eq_true_eq] at hp
  exact ⟨List.mem_of_find?_eq_some h, hp⟩

theorem copyOf_of_head {client line : Nat} {c : Copy} {cs : List Copy} (h : s.copies = c :: cs) (hc : c.client = client) (hl : c.line = line) :
    copyOf client line s = some c := by
  rw [copyOf, h]
  exact List.find?_cons_of_pos (by simp [hc, hl])

theorem copyOf_setCopy {client line : Nat} {f : Copy → Copy} {c : Copy} (hf : ∀ x, (f x).client = x.client ∧ (f x).line = x.line)
    (h : copyOf client line s = some c) : copyOf client line (setCopy client line f s) = some (f c) := by
  obtain ⟨-, hclient, hline⟩ := mem_of_copyOf h
  have hsame : (fun x : Copy => decide (x.client = client) && decide (x.line = line)) ∘
      (fun x => if x.client = client && x.line = line then f x else x) = fun x => decide (x.client = client) && decide (x.line = line) := by
    funext x
    simp only [Function.comp]
    split
    · rw [(hf x).1, (hf x).2]
    · rfl
  rw [copyOf] at h
  rw [copyOf, setCopy, List.find?_map, hsame, h]
  simp [hclient, hline]

/-- A copy moved to the front of the order of use is found there. -/
theorem copyOf_useCopy (client line : Nat) (s : State) : copyOf client line (Machine.useCopy client line s) = copyOf client line s := by
  unfold Machine.useCopy
  split
  · rfl
  · next c hc =>
    obtain ⟨-, hclient, hline⟩ := mem_of_copyOf hc
    rw [hc]
    exact copyOf_of_head (s := { s with copies := c :: (removeCopy client line s).copies }) rfl hclient hline

theorem mem_copies_useCopy {client line : Nat} {x : Copy} (h : x ∈ (Machine.useCopy client line s).copies) : x ∈ s.copies := by
  unfold Machine.useCopy at h
  split at h
  · exact h
  · next c hc =>
    rcases List.mem_cons.1 h with rfl | h
    · exact (mem_of_copyOf hc).1
    · exact List.mem_of_mem_filter h

/-! A fill (R81, R98): the line that makes room in the client's L1 is another one. -/

theorem mem_copies_evict {c x : Copy} (h : x ∈ (evict c s).copies) : x ∈ s.copies ∨ x.kind = .shared := by
  have hleft (h : x ∈ (removeCopy c.client c.line (writeBack (BitVec.allOnes 128) c s)).copies) : x ∈ s.copies := by
    rw [removeCopy, copies_writeBack] at h
    exact List.mem_of_mem_filter h
  unfold evict at h
  dsimp only at h
  split at h
  · rcases List.mem_cons.1 h with rfl | h
    · exact Or.inr rfl
    · exact Or.inl (hleft h)
  · exact Or.inl (hleft h)

theorem mem_evict (c : Copy) (s : State) : (evict c s).mem = (writeBack (BitVec.allOnes 128) c s).mem := by
  unfold evict
  dsimp only
  split <;> rfl

/-- Making room for a line evicts nothing, or one copy of the client. -/
theorem l1Place_cases (client pa : Nat) (s : State) :
    (l1Place client pa s).1 = s ∨ ∃ c ∈ s.copies, c.client = client ∧ (l1Place client pa s).1 = evict c s := by
  unfold l1Place
  split
  · exact Or.inl rfl
  split
  · exact Or.inl rfl
  split
  · next c hc =>
    have hmem := List.mem_of_getLast? hc
    simp only [l1Set, List.mem_filter, Bool.and_eq_true, decide_eq_true_eq] at hmem
    obtain ⟨⟨hcopy, ⟨hclient, -⟩, -⟩, -⟩ := hmem
    exact Or.inr ⟨c, hcopy, hclient, rfl⟩
  · exact Or.inl rfl

/-- The state in which a fill makes room: the client has no copy of the line any longer (R98). -/
def beforeFill (client line : Nat) (s : State) : State := l2Touch line 0xF none (readSectors line 0xF (removeCopy client line s))

theorem copies_beforeFill (client line : Nat) (s : State) : (beforeFill client line s).copies = (removeCopy client line s).copies :=
  copies_l2Touch _ _ _ _
theorem mem_beforeFill (client line : Nat) (s : State) : (beforeFill client line s).mem = s.mem := mem_l2Touch _ _ _ _

theorem freshCopy_fill (client line pa : Nat) (kind : CopyKind) (r w : LineMask) (s : State) :
    FreshCopy client line pa kind r w s (fill client line pa kind r w s) := ⟨_, copyOf_of_head rfl rfl rfl⟩

/-- Any other copy after a fill stood before it, or is the record of a monitored line. -/
theorem mem_copies_fill {client line pa : Nat} {kind : CopyKind} {r w : LineMask} {x : Copy}
    (h : x ∈ (fill client line pa kind r w s).copies) (hx : x.client ≠ client) (hk : x.kind = .held) : x ∈ s.copies := by
  have hbefore (h : x ∈ (beforeFill client line s).copies) : x ∈ s.copies := by
    rw [copies_beforeFill] at h
    exact List.mem_of_mem_filter h
  have hplace : x ∈ (l1Place client pa (beforeFill client line s)).1.copies := by
    rcases List.mem_cons.1 h with rfl | h
    · exact absurd rfl hx
    · exact h
  rcases l1Place_cases client pa (beforeFill client line s) with hp | ⟨c, -, -, hp⟩
  · exact hbefore (hp ▸ hplace)
  · rw [hp] at hplace
    rcases mem_copies_evict hplace with h | h
    · exact hbefore h
    · rw [h] at hk
      cases hk

/-- A fill leaves its line's bytes at the home. -/
theorem homeByte_fill (client line pa : Nat) (kind : CopyKind) (r w : LineMask) (s : State) {k : Nat} (hk : k < 128) :
    homeByte (fill client line pa kind r w s) line k = homeByte s line k := by
  have hfill : homeByte (fill client line pa kind r w s) line k = homeByte (l1Place client pa (beforeFill client line s)).1 line k := rfl
  rw [hfill]
  rcases l1Place_cases client pa (beforeFill client line s) with hp | ⟨c, hmem, hclient, hp⟩
  · rw [hp, homeByte, homeByte, mem_beforeFill]
  · have hline : c.line ≠ line := fun hl => by
      rw [copies_beforeFill] at hmem
      simpa [hclient, hl] using (List.mem_filter.1 hmem).2
    rw [hp, homeByte, mem_evict, lineBytes_writeBack, if_neg (by omega), homeByte, mem_beforeFill]

/-! Loads served at the home without a copy (R102). -/

theorem copies_homeServe (line : Nat) (m : LineMask) (s : State) : (homeServe line m s).copies = (cleanFor m (holders line s) s).copies :=
  copies_l2Touch _ _ _ _
theorem mem_homeServe (line : Nat) (m : LineMask) (s : State) : (homeServe line m s).mem = (cleanFor m (holders line s) s).mem :=
  mem_l2Touch _ _ _ _

/-- What a copy is but for its dirty words and its use. -/
def copyMasks (c : Copy) : Nat × Nat × CopyKind × LineMask × LineMask × LineData := (c.client, c.line, c.kind, c.r, c.w, c.data)

/-- The write-backs for a load leave every copy but for its dirty words. -/
theorem masks_cleanFor (m : LineMask) (cs : List Copy) (s : State) : (cleanFor m cs s).copies.map copyMasks = s.copies.map copyMasks := by
  induction cs generalizing s with
  | nil => rfl
  | cons c cs ih =>
    rw [cleanFor, ih]
    split
    · rfl
    · rw [setCopy, copies_writeBack, List.map_map]
      refine List.map_congr_left fun x _ => ?_
      simp only [Function.comp]
      split <;> rfl

theorem served_homeServe (line : Nat) (m : LineMask) (s : State) : Served m line s (homeServe line m s) := by
  refine ⟨?_, fun h hh => ?_, fun hh => ?_⟩
  · rw [copies_homeServe]
    exact masks_cleanFor m _ s
  · have hline : h.line = line := by
      have hmem : h ∈ holders line s := hh ▸ List.mem_singleton_self h
      simp only [holders, List.mem_filter, Bool.and_eq_true, decide_eq_true_eq] at hmem
      exact hmem.2.1
    intro a
    rw [mem_homeServe, hh, cleanFor, cleanFor]
    by_cases hw : h.w &&& m = 0
    · rw [if_pos hw, if_pos hw]
      split
      · next ha => rw [homeByte_of_line s ha]
      · rfl
    · rw [if_neg hw, if_neg hw]
      have hwrite := lineBytes_writeBack s m h a
      rw [hline] at hwrite
      exact hwrite
  · rw [mem_homeServe, copies_homeServe, hh]
    exact ⟨rfl, rfl⟩

/-- A load served at the home of a line that nobody holds leaves the line's bytes. -/
theorem memLine_homeServe {line : Nat} (m : LineMask) (h : holders line s = []) : memLine (homeServe line m s) line = memLine s line := by
  rw [memLine, memLine, mem_homeServe, h, cleanFor]

end Sys2Proof.Proofs
end

section
/-! The `.own` access at the home (R100 to R103), and the coherent accesses of O40. -/
namespace Sys2Proof.Proofs
open Sys2Proof Sys2Proof.Machine Sys2Proof.Claims
variable {s : State}

theorem mem_holders {line : Nat} {c : Copy} : c ∈ holders line s ↔ c ∈ s.copies ∧ c.line = line ∧ c.kind = .held := by
  simp [holders]

theorem mem_recorded {line : Nat} {c : Copy} : c ∈ recorded line s ↔ c ∈ s.copies ∧ c.line = line ∧ c.kind ≠ .unrecorded := by
  simp [recorded]

/-- A fill gives its client a copy with the masks, where no other client holds a byte against them any longer. -/
theorem owned_of_fill {client line pa : Nat} {r w : LineMask} {u : State} (h : NoConflict client line r w u) :
    Covers client line r w (fill client line pa .held r w u) ∧ NoConflict client line r w (fill client line pa .held r w u) := by
  obtain ⟨way, hcopy⟩ := freshCopy_fill client line pa .held r w u
  exact ⟨⟨_, hcopy, fun _ _ => ⟨id, id⟩⟩, fun c hc hl hne hk => h c (mem_copies_fill hc hne hk) hl hne hk⟩

/-- Where the holders of a line but its client are recalled, nobody else holds it. -/
theorem noConflict_recallAll {client line : Nat} {r w : LineMask} {cs : List Copy}
    (h : ∀ c ∈ holders line s, c.client ≠ client → c ∈ cs) : NoConflict client line r w (recallAll cs s) := by
  intro c hc hl hne hk
  obtain ⟨hs, hnot⟩ := (mem_copies_recallAll s cs c).1 hc
  exact absurd ⟨rfl, rfl⟩ (hnot c (h c (mem_holders.2 ⟨hs, hl, hk⟩) hne))

/-- The masks of a holder after they have grown. -/
theorem copyOf_extend {c : Copy} {r w : LineMask} {x : Copy} (h : copyOf c.client c.line s = some x) :
    ∃ d, copyOf c.client c.line (extend c r w s) = some { x with r := c.r ||| r, w := c.w ||| w, data := d } :=
  ⟨_, copyOf_setCopy (s := readSectors c.line (sectorsOf (missing c r w s)) s) (fun _ => ⟨rfl, rfl⟩) h⟩

theorem mem_copies_extend {c x : Copy} {r w : LineMask} (h : x ∈ (extend c r w s).copies) (hx : x.client ≠ c.client) : x ∈ s.copies := by
  obtain ⟨y, hy, rfl⟩ := List.mem_map.1 h
  split at hx
  · next hc =>
    rw [Bool.and_eq_true, decide_eq_true_eq] at hc
    exact absurd hc.1 hx
  · next hc =>
    rw [if_neg hc]
    exact hy

theorem copyOf_isSome {client line : Nat} {c : Copy} (hc : c ∈ s.copies) (hclient : c.client = client) (hl : c.line = line) :
    ∃ x, copyOf client line s = some x := by
  rw [← Option.isSome_iff_exists, copyOf, List.find?_isSome]
  exact ⟨c, hc, by simp [hclient, hl]⟩

/-- A holder whose masks grow, where no other holder conflicts (R100, R102). -/
theorem owned_of_extend {client line : Nat} {r w : LineMask} {mine : Copy} (hm : mine ∈ holders line s) (hc : mine.client = client)
    (h : NoConflict client line r w s) :
    Covers client line r w (Machine.useCopy client line (extend mine r w s)) ∧
      NoConflict client line r w (Machine.useCopy client line (extend mine r w s)) := by
  obtain ⟨hmem, hline, -⟩ := mem_holders.1 hm
  subst hc hline
  obtain ⟨x, hx⟩ := copyOf_isSome hmem rfl rfl
  obtain ⟨d, hd⟩ := copyOf_extend (r := r) (w := w) hx
  refine ⟨⟨_, (copyOf_useCopy _ _ _).trans hd, fun k _ => ⟨fun hr => ?_, fun hw => ?_⟩⟩, fun c hc hl hne hk =>
    h c (mem_copies_extend (mem_copies_useCopy hc) hne) hl hne hk⟩
  · rw [BitVec.getLsbD_or, hr, Bool.or_true]
  · rw [BitVec.getLsbD_or, hw, Bool.or_true]

/-- The holders of a line other than a client. -/
theorem mem_others {client line : Nat} {c : Copy} :
    c ∈ (holders line s).filter (fun c => c.client != client) ↔ c ∈ holders line s ∧ c.client ≠ client := by
  simp

theorem noConflict_of_others {client line : Nat} {r w : LineMask}
    (h : ((holders line s).filter (fun c => c.client != client)).any (conflicts r w) = false) : NoConflict client line r w s := by
  intro c hc hl hne hk
  rw [List.any_eq_false] at h
  simpa using h c (mem_others.2 ⟨mem_holders.2 ⟨hc, hl, hk⟩, hne⟩)

/-- After an `.own` access its client covers the bytes, and no other client holds a byte against it. -/
theorem owned_ownAccess (client line pa : Nat) (r w : LineMask) (s : State) :
    Covers client line r w (ownAccess client line pa r w s) ∧ NoConflict client line r w (ownAccess client line pa r w s) := by
  have hothers : ∀ c ∈ holders line s, c.client ≠ client → c ∈ (holders line s).filter (fun c => c.client != client) :=
    fun c hc hne => mem_others.2 ⟨hc, hne⟩
  unfold ownAccess
  dsimp only
  split
  · next mine hmine =>
    have hclient : mine.client = client := by simpa using List.find?_some hmine
    split
    · exact owned_of_fill (noConflict_recallAll fun c hc _ => hc)
    · next hno => exact owned_of_extend (List.mem_of_find?_eq_some hmine) hclient (noConflict_of_others (by simpa using hno))
  split
  · next hempty =>
    refine owned_of_fill (noConflict_recallAll fun c hc hne => ?_)
    rw [List.isEmpty_iff] at hempty
    rw [hempty] at hothers
    cases hothers c hc hne
  split
  · exact owned_of_fill (noConflict_recallAll hothers)
  · next hno =>
    rw [Bool.or_eq_true, not_or] at hno
    exact owned_of_fill (noConflict_of_others (by simpa using hno.1))

/-- An `.own` access to a line of which no copy is recorded fills it from the home (R102). -/
theorem ownAccess_of_unrecorded {client line pa : Nat} {r w : LineMask} (h : recorded line s = []) :
    ownAccess client line pa r w s = fill client line pa .held r w s := by
  have hholders : holders line s = [] := by
    rw [List.eq_nil_iff_forall_not_mem] at h ⊢
    intro c hc
    obtain ⟨hs, hl, hk⟩ := mem_holders.1 hc
    exact h c (mem_recorded.2 ⟨hs, hl, by rw [hk]; decide⟩)
  rw [ownAccess, hholders, h]
  rfl

/-! Requests of clients at the home of a line that nothing holds up. -/

theorem lineBusy_of_homeOpen {pa line : Nat} (h : HomeOpen pa line s) : lineBusy s line = false := by
  obtain ⟨_, -, -, hcommit, hacks⟩ := h
  simpa [lineBusy, hostWaits, hcommit] using hacks

/-- A client's request at the home of such a line is acted on at once. -/
theorem clientRequest_go {pa line : Nat} (client : Nat) (sec : Nat → State → BitVec 4) (k : Nat → State → State) (h : HomeAt pa line s) :
    clientRequest client pa sec s k = k line s := by
  have hbusy := lineBusy_of_homeOpen h.1
  obtain ⟨⟨cell, hcell, rfl, hcommit, -⟩, hlatent, hfound⟩ := h
  simp [clientRequest, atHome, hcommit, hcell, hbusy, checkSectors_clean _ _ hlatent hfound]

theorem keepsNone_of_canKeep {client line : Nat} (hk : notKept line s = false) (hc : CanKeep client s) : keepsNone client line s = false := by
  rw [keepsNone, hk, Bool.or_false]
  rcases hc with rfl | hc
  · simp [hostClient]
  · simp [hc]

theorem exec_homeOwnAccess {client pa line : Nat} (r w : LineMask) (h : HomeAt pa line s) (hk : notKept line s = false)
    (hc : CanKeep client s) : exec (.homeOwnAccess client pa r w) s = .next (ownAccess client line pa r w s) := by
  show execHomeOwnAccess client pa r w s = _
  rw [execHomeOwnAccess, clientRequest_go _ _ _ h, keepsNone_of_canKeep hk hc]
  rfl

theorem clientLoad_go {client pa line : Nat} (rt : ReqTy) (r : LineMask) (h : HomeAt pa line s) :
    clientLoad client pa rt r s = homeLoad client line pa rt r s := clientRequest_go _ _ _ h

theorem ownAccessAtHome : OwnAccessAtHome := by
  intro s client pa r w line h hk hc
  obtain ⟨hcovers, hno⟩ := owned_ownAccess client line pa r w s
  refine ⟨_, exec_homeOwnAccess r w h hk hc, hcovers, hno, fun hrec => ?_⟩
  rw [ownAccess_of_unrecorded hrec]
  exact ⟨freshCopy_fill _ _ _ _ _ _ s, fun k hk => homeByte_fill _ _ _ _ _ _ s hk⟩

/-- A load of a client that does not hold the line, by its type (R97, R102). -/
theorem homeLoad_of_not_held {client line pa : Nat} {m : LineMask} (rt : ReqTy) (hkeep : keepsNone client line s = false)
    (hheld : ∀ c ∈ s.copies, c.client = client → c.line = line → c.kind ≠ .held) :
    homeLoad client line pa rt m s = match rt with
      | .own => ownAccess client line pa m 0 s
      | .wt => if holders line s = [] then fill client line pa .shared (BitVec.allOnes 128) 0 s else homeServe line m s
      | .si =>
        if (copyOf client line s).any (fun c => c.kind == .shared) then
          (if holders line s = [] then fill client line pa .shared (BitVec.allOnes 128) 0 s else homeServe line m s)
        else fill client line pa .unrecorded (BitVec.allOnes 128) 0 (homeServe line m s)
      | .unc | .none => homeServe line m s := by
  have hnone : (copyOf client line s).any (fun c => c.kind == .held) = false := by
    cases hcopy : copyOf client line s with
    | none => rfl
    | some c =>
      obtain ⟨hmem, hclient, hline⟩ := mem_of_copyOf hcopy
      simpa using hheld c hmem hclient hline
  cases rt <;> simp [homeLoad, hkeep, hnone]

/-- A holder's load outside its masks is an `.own` access (R102). -/
theorem homeLoad_of_held {client line pa : Nat} {m : LineMask} (rt : ReqTy) {c : Copy} (hkeep : keepsNone client line s = false)
    (hc : copyOf client line s = some c) (hk : c.kind = .held) : homeLoad client line pa rt m s = ownAccess client line pa m 0 s := by
  cases rt <;> simp [homeLoad, hkeep, hc, hk]

/-- What a client's load completes with is what the load does at the home. -/
theorem completes_clientLoad {i : Instr} {client pa line : Nat} {rt : ReqTy} {r : LineMask} {u : State} {P : State → Prop}
    (hi : exec i s = .next (clientLoad client pa rt r s)) (h : HomeAt pa line s) (hl : homeLoad client line pa rt r s = u) (hp : P u) :
    Completes i s P := ⟨u, hi.trans (by rw [clientLoad_go rt r h, hl]), hp⟩

theorem loadsAtHome : LoadsAtHome := by
  intro s client pa r line h hk hc
  have hkeep := keepsNone_of_canKeep hk hc
  refine ⟨fun hheld => ?_, fun c hcopy hkind i hi => ?_⟩
  · have hload := fun rt => homeLoad_of_not_held (pa := pa) (m := r) rt hkeep hheld
    have hserved := served_homeServe line r s
    have hshared := freshCopy_fill client line pa .shared (BitVec.allOnes 128) 0 s
    refine ⟨fun hnone => ?_, fun hsome => ?_, fun hcopy hnone => ?_, fun c hcopy hkind => ⟨fun hnone => ?_, fun hsome => ?_⟩, ?_⟩
    · exact completes_clientLoad rfl h ((hload .wt).trans (if_pos hnone)) hshared
    · exact completes_clientLoad rfl h ((hload .wt).trans (if_neg hsome)) hserved
    · refine completes_clientLoad rfl h ((hload .si).trans (if_neg (by simp [hcopy]))) ?_
      have hfill := freshCopy_fill client line pa .unrecorded (BitVec.allOnes 128) 0 (homeServe line r s)
      rwa [FreshCopy, memLine_homeServe r hnone] at hfill
    · exact completes_clientLoad rfl h (((hload .si).trans (if_pos (by simp [hcopy, hkind]))).trans (if_pos hnone)) hshared
    · exact completes_clientLoad rfl h (((hload .si).trans (if_pos (by simp [hcopy, hkind]))).trans (if_neg hsome)) hserved
    · exact completes_clientLoad rfl h (hload .unc) hserved
  · rw [exec_homeOwnAccess r 0 h hk hc]
    have hload (rt : ReqTy) : clientLoad client pa rt r s = ownAccess client line pa r 0 s :=
      (clientLoad_go rt r h).trans (homeLoad_of_held rt hkeep hcopy hkind)
    fin_cases hi
    · exact congrArg _ (hload .wt)
    · exact congrArg _ (hload .si)
    · exact congrArg _ (hload .unc)

/-- Settles O40: after an `.own` access the holders that conflict have been recalled and the client's copy has been filled or its masks
have grown; a load of a client that does not hold the line fills its L1 or is served at the home, by its type. -/
theorem coherentAccesses : Obligations.CoherentAccesses := ⟨ownAccessAtHome, loadsAtHome⟩

end Sys2Proof.Proofs
end

section
/-! The record that a block accumulation leaves (R205, R214): its scale is the smallest that fits, and its elements are the codes of
the sums under it. -/
namespace Sys2Proof.Proofs
open Sys2Proof Sys2Proof.Machine Sys2Proof.Claims

@[simp] theorem length_leBytes (n v : Nat) : (leBytes n v).length = n := by
  induction n generalizing v with
  | zero => rfl
  | succ n ih => rw [leBytes, List.length_cons, ih]

theorem leVal_leBytes (n v : Nat) : leVal (leBytes n v) = v % 256 ^ n := by
  induction n generalizing v with
  | zero => simp [leBytes, leVal, Nat.mod_one]
  | succ n ih =>
    rw [leBytes, leVal, ih, BitVec.toNat_ofNat, pow_succ' 256 n]
    exact Nat.mod_mul.symm

/-- The packed number of the first elements of a record, each in its own bits. -/
def packedElems (w : Nat) (elems : List Nat) (n : Nat) : Nat :=
  (List.range n).foldl (fun v i => v + elems.getD i 0 % 2 ^ w * 2 ^ (w * i)) 0

theorem packedElems_succ (w : Nat) (elems : List Nat) (n : Nat) :
    packedElems w elems (n + 1) = packedElems w elems n + elems.getD n 0 % 2 ^ w * 2 ^ (w * n) := by
  rw [packedElems, List.range_succ, List.foldl_append]
  rfl

theorem packedElems_lt (w : Nat) (elems : List Nat) (n : Nat) : packedElems w elems n < 2 ^ (w * n) := by
  induction n with
  | zero => simp [packedElems]
  | succ n ih =>
    have he : elems.getD n 0 % 2 ^ w + 1 ≤ 2 ^ w := Nat.mod_lt _ (by positivity)
    calc packedElems w elems (n + 1) < 2 ^ (w * n) + elems.getD n 0 % 2 ^ w * 2 ^ (w * n) := by
          rw [packedElems_succ]
          exact Nat.add_lt_add_right ih _
      _ = (elems.getD n 0 % 2 ^ w + 1) * 2 ^ (w * n) := by ring
      _ ≤ 2 ^ w * 2 ^ (w * n) := Nat.mul_le_mul_right _ he
      _ = 2 ^ (w * (n + 1)) := by ring

/-- Unpacking gives an element's low bits back. -/
theorem packedElems_elem (w : Nat) (elems : List Nat) {n i : Nat} (hi : i < n) :
    packedElems w elems n / 2 ^ (w * i) % 2 ^ w = elems.getD i 0 % 2 ^ w := by
  induction n with
  | zero => omega
  | succ n ih =>
    rw [packedElems_succ]
    rcases Nat.lt_succ_iff_lt_or_eq.1 hi with hlt | rfl
    · obtain ⟨j, rfl⟩ := Nat.exists_eq_add_of_lt hlt
      rw [show elems.getD (i + j + 1) 0 % 2 ^ w * 2 ^ (w * (i + j + 1)) =
        2 ^ (w * i) * (2 ^ w * (elems.getD (i + j + 1) 0 % 2 ^ w * 2 ^ (w * j))) by ring,
        Nat.add_mul_div_left _ _ (by positivity), Nat.add_mul_mod_self_left, ih hlt]
    · rw [Nat.add_mul_div_right _ _ (by positivity), Nat.div_eq_of_lt (packedElems_lt w elems i), Nat.zero_add, Nat.mod_mod]

theorem recordOf_eq (t : Ty) (scale : Nat) (elems : List Nat) :
    recordOf t scale elems = BitVec.ofNat 8 scale :: leBytes (4 * tyBits t) (packedElems (tyBits t) elems 32) := rfl

/-- Element i of a record is the low bits of the code put there (R205). -/
theorem recordElem_recordOf (t : Ty) (scale : Nat) (elems : List Nat) {i : Nat} (hi : i < 32) :
    recordElem t (recordOf t scale elems) i = elems.getD i 0 % 2 ^ tyBits t := by
  have hfit : packedElems (tyBits t) elems 32 < 256 ^ (4 * tyBits t) := by
    have h := packedElems_lt (tyBits t) elems 32
    rwa [show tyBits t * 32 = 8 * (4 * tyBits t) by ring, pow_mul] at h
  rw [recordElem, recordOf_eq, List.drop_one, List.tail_cons, leVal_leBytes, Nat.mod_eq_of_lt hfit, packedElems_elem _ _ hi]

theorem length_recordOf (t : Ty) (scale : Nat) (elems : List Nat) : (recordOf t scale elems).length = recordBytes t := by
  rw [recordOf_eq, List.length_cons, length_leBytes, recordBytes, Nat.add_comm]

/-- The chosen scale is the smallest under which a magnitude fits, or 254 (R214). -/
theorem chooseScale_spec (fd : Ty) (m : Machine.Num) :
    chooseScale fd m ≤ 254 ∧
    (∀ k, k < chooseScale fd m → numLt (scaleNum (largest fd) ((k : Int) - 127)) m = true) ∧
    (chooseScale fd m < 254 → numLt (scaleNum (largest fd) ((chooseScale fd m : Int) - 127)) m = false) := by
  unfold chooseScale
  cases hfind : (List.range 255).find? (fun (k : Nat) => !(numLt (scaleNum (largest fd) ((k : Int) - 127)) m)) with
  | none =>
    rw [List.find?_eq_none] at hfind
    refine ⟨le_rfl, fun k hk => ?_, fun h => absurd h (lt_irrefl 254)⟩
    simpa using hfind k (List.mem_range.2 (Nat.lt_succ_of_lt hk))
  | some k =>
    obtain ⟨hfits, hk, hbefore⟩ := List.find?_range_eq_some.1 hfind
    rw [List.mem_range] at hk
    exact ⟨by simpa using Nat.le_of_lt_succ hk, fun j hj => by simpa using hbefore j hj, fun _ => by simpa using hfits⟩

/-- The code of a real under a scale: saturated at the largest magnitude, else rounded (R214). -/
theorem blockElem_fin {fd : Ty} {scale : Nat} {x : Machine.Num} {n : Bool} {m : Nat} {e : Int} {sgn : Bool} {lm : Nat} {le : Int}
    (hx : scaleNum x (127 - (scale : Int)) = .fin n m e) (hl : largest fd = .fin sgn lm le) :
    blockElem fd scale x = if numLt (largest fd) (.fin false m e) then (roundFloat (fmtOf fd) .rn false n lm le).1
      else (roundFloat (fmtOf fd) .rn false n m e).1 := by
  simp only [blockElem, hx, hl, absNum]

/-- The record that an accumulation leaves is that of R214. -/
theorem accumulated_accumulate (fd fs : Ty) (ss : Nat) (act : Mask) (elems old : List Byte) :
    Accumulated fd fs ss act elems old (accumulate fd fs ss act elems old) := by
  have hbad : ((old.getD 0 0).toNat = 255 || ss = 255 || (List.range 32).any (fun i => notReal (decodeNum fd (recordElem fd old i))
      || (act.getLsbD i && notReal (decodeNum fs (elems.getD i 0).toNat)))) = true ↔
      ((old.getD 0 0).toNat = 255 ∨ ss = 255 ∨ ∃ i, i < 32 ∧ (notReal (decodeNum fd (recordElem fd old i)) = true ∨
        (act.getLsbD i = true ∧ notReal (decodeNum fs (elems.getD i 0).toNat) = true))) := by
    simp [or_assoc]
  refine ⟨fun h => if_pos (hbad.2 h), fun h => ?_⟩
  have hnew : accumulate fd fs ss act elems old = _ := if_neg (mt hbad.1 h)
  rw [hnew]
  have hscale := chooseScale_spec fd (maxAbs ((List.range 32).map (accElem fd fs old (old.getD 0 0).toNat ss act elems)))
  obtain ⟨hle, hbelow, hfits⟩ := hscale
  refine ⟨length_recordOf _ _ _, _, hle, rfl, fun k hk => ne_false_of_eq_true (hbelow k hk), hfits, fun i n m e sgn lm le hi hx hl => ?_⟩
  rw [recordElem_recordOf _ _ _ hi, List.map_map, List.getD_eq_getElem?_getD, List.getElem?_map, List.getElem?_range hi]
  exact congrArg (· % _) (blockElem_fin hx hl)

end Sys2Proof.Proofs
end

section
/-! A machine-check record (R363, R418, R430): its count, its place, and the interrupt that follows it, at once or behind its bytes. -/
namespace Sys2Proof.Proofs
open Sys2Proof Sys2Proof.Machine Sys2Proof.Claims
variable {s : State}

/-! What writes of the Cox leave, and when they leave nothing waiting. -/

/-- The state without what the homes change and what the Cox still has to write. -/
def besidesWrites (s : State) : State := besidesCaches { s with heldWrites := [] }

theorem besidesWrites_of_besidesCaches {s t : State} (h : besidesCaches t = besidesCaches s) : besidesWrites t = besidesWrites s :=
  (congrArg (fun u : State => ({ u with heldWrites := [] } : State)) h :)

theorem besidesWrites_putPhys (owner : BitVec 18) (a : Nat) (bs : List Byte) (s : State) :
    besidesWrites (putPhys owner a bs s) = besidesWrites s := by
  induction bs generalizing s a with
  | nil => rfl
  | cons b bs ih =>
    rw [putPhys, ih]
    split
    · rfl
    · unfold putByte
      split
      · rfl
      · exact besidesWrites_of_besidesCaches (besidesCaches_homeStore s _ _ _ _ _)

theorem copiesLeft_homeStore (client line : Nat) (m : LineMask) (d : LineData) (owner : BitVec 18) (s : State) :
    CopiesLeft s (homeStore client line m d owner s) := by
  refine (copiesLeft_homePrepare s client line m).trans ?_
  have hset := copiesLeft_setCopy (homePrepare client line m s) client line (f := fun c => { c with data := mergeLine m d c.data })
    fun x => ⟨rfl, rfl, rfl, id⟩
  rwa [CopiesLeft, ← copies_homeStore client line m d owner s] at hset

/-- Without a copy of the host port a recall leaves no acknowledgement due (R105). -/
theorem hostAcks_recallAll {cs : List Copy} (h : ∀ c ∈ cs, c.client ≠ hostClient) : (recallAll cs s).hostAcks = s.hostAcks := by
  induction cs generalizing s with
  | nil => rfl
  | cons c cs ih =>
    obtain ⟨hc, hcs⟩ := List.forall_mem_cons.1 h
    have htake : (takeBack c s).hostAcks = s.hostAcks := by
      rw [takeBack, if_neg hc]
      exact hostAcks_writeBack s _ c
    rw [recallAll, ih hcs, htake]

theorem hostAcks_dropWords (m : LineMask) {c : Copy} (h : c.client ≠ hostClient) : (dropWords m c s).hostAcks = s.hostAcks := by
  have hback := hostAcks_writeBack s (bytesOf (wordsOf m)) c
  unfold dropWords
  dsimp only
  rw [if_neg h]
  split
  · rfl
  · split <;> exact hback

theorem hostAcks_dropWordsAll (m : LineMask) {cs : List Copy} (h : ∀ c ∈ cs, c.client ≠ hostClient) :
    (dropWordsAll m cs s).hostAcks = s.hostAcks := by
  induction cs generalizing s with
  | nil => rfl
  | cons c cs ih =>
    obtain ⟨hc, hcs⟩ := List.forall_mem_cons.1 h
    rw [dropWordsAll, ih hcs, hostAcks_dropWords m hc]

theorem hostAcks_homeStore {client line : Nat} {m : LineMask} {d : LineData} {owner : BitVec 18}
    (h : ∀ c ∈ s.copies, c.client ≠ hostClient) : (homeStore client line m d owner s).hostAcks = s.hostAcks := by
  have hprep : (homePrepare client line m s).hostAcks = s.hostAcks := by
    rw [homePrepare, hostAcks_dropWordsAll m fun c hc => h c (mem_holders.1 hc).1,
      hostAcks_recallAll fun c hc => h c (List.mem_of_mem_filter hc)]
  rw [← hprep]
  exact hostAcks_l2Touch _ _ _ _

/-- Nothing holds a write of the Cox up, and no write can come to hold up another. -/
structure WritesFlow (s : State) : Prop where
  held : s.heldWrites = []
  commit : s.commitPend = false
  acks : s.hostAcks = []
  host : ∀ c ∈ s.copies, c.client ≠ hostClient

theorem WritesFlow.homeStore (h : WritesFlow s) (client line : Nat) (m : LineMask) (d : LineData) (owner : BitVec 18) :
    WritesFlow (homeStore client line m d owner s) where
  held := (congrArg State.heldWrites (besidesCaches_homeStore s client line m d owner) :).trans h.held
  commit := (congrArg State.commitPend (besidesCaches_homeStore s client line m d owner) :).trans h.commit
  acks := (hostAcks_homeStore h.host).trans h.acks
  host := fun y hy => by
    obtain ⟨x, hx, hxy⟩ := copiesLeft_homeStore client line m d owner s y hy
    rw [hxy.client]
    exact h.host x hx

theorem WritesFlow.putPhys (h : WritesFlow s) (owner : BitVec 18) (a : Nat) (bs : List Byte) : WritesFlow (putPhys owner a bs s) := by
  induction bs generalizing s a with
  | nil => exact h
  | cons b bs ih =>
    have hgo : writeWaits s a = false := by simp [writeWaits, h.held, h.commit, h.acks, hostWaits]
    rw [Machine.putPhys, hgo]
    refine ih ?_ (a + 1)
    rw [if_neg Bool.false_ne_true]
    unfold putByte
    split
    · exact h
    · exact h.homeStore _ _ _ _ _

theorem heldWrites_putPhys_held (owner : BitVec 18) (a : Nat) (bs : List Byte) (h : s.heldWrites ≠ []) :
    (putPhys owner a bs s).heldWrites ≠ [] := by
  induction bs generalizing s a with
  | nil => exact h
  | cons b bs ih =>
    have hwait : writeWaits s a = true := by simp [writeWaits, h]
    rw [putPhys, if_pos hwait]
    exact ih _ (by simp)

/-- Where something holds the first byte up, the Cox is left with something to write. -/
theorem heldWrites_putPhys (owner : BitVec 18) (a : Nat) (b : Byte) (bs : List Byte) (h : s.heldWrites ≠ [] ∨ s.commitPend = true) :
    (putPhys owner a (b :: bs) s).heldWrites ≠ [] := by
  have hwait : writeWaits s a = true := by rcases h with h | h <;> simp [writeWaits, h]
  rw [putPhys, if_pos hwait]
  exact heldWrites_putPhys_held owner _ _ (by simp)

/-! What interrupts leave. -/

/-- The counts and positions of machine-check records (R363). -/
def mcCounts (s : State) : Nat × Nat × Nat × Nat := (s.mcSeq, s.mcCons, s.mcWptr, s.mcDrops)

theorem mcCounts_ringBytes (base size at_ : Nat) (bs : List Byte) (s : State) : mcCounts (ringBytes base size at_ bs s) = mcCounts s := by
  induction bs generalizing s at_ with
  | nil => rfl
  | cons b bs ih => exact ih (at_ + 1) (putHost (base + at_ % size) [b] s)

theorem mcCounts_recordWake (part kind port : Nat) (body : List Byte) (s : State) :
    mcCounts (recordWake part kind port body s) = mcCounts s := by
  unfold recordWake
  dsimp only
  split
  · rw [mcCounts_ringBytes]
    rfl
  · rfl

theorem mcCounts_raiseInt (part v : Nat) (s : State) : mcCounts (raiseInt part v s) = mcCounts s := mcCounts_recordWake _ _ _ _ _

theorem mcCounts_raiseTurn (part n : Nat) (s : State) : mcCounts (raiseTurn part n s) = mcCounts s := by
  induction n generalizing s with
  | zero => rfl
  | succ n ih =>
    unfold raiseTurn
    dsimp only
    split
    · rfl
    split
    · rw [ih, mcCounts_raiseInt]
      rfl
    split
    · rw [ih, mcCounts_raiseInt]
      rfl
    · rfl

theorem mcCounts_interrupt (part v : Nat) (s : State) : mcCounts (interrupt part v s) = mcCounts s := by
  unfold interrupt
  dsimp only
  split
  · exact mcCounts_raiseTurn _ _ _
  · exact mcCounts_raiseInt _ _ _

theorem mcCounts_doHeld_interrupt (part v : Nat) (s : State) : mcCounts (doHeld (.interrupt part v) s) = mcCounts s := by
  rw [doHeld]
  split
  · exact mcCounts_interrupt part v s
  · rfl

theorem interrupts_doHeld_flows {part : Nat} (v : Nat) (h : s.heldWrites = []) (hr : (partOf s part).replay = false) :
    (doHeld (.interrupt part v) s).interrupts = s.interrupts ++ [v] := by
  rw [doHeld, h]
  exact interrupts_interrupt v hr

/-- An interrupt behind something that the Cox still has to write waits. -/
theorem doHeld_interrupt_waits (part v : Nat) (h : s.heldWrites ≠ []) :
    doHeld (.interrupt part v) s = { s with heldWrites := s.heldWrites ++ [.interrupt part v] } := by
  rw [doHeld]
  exact if_neg (by simpa using h)

/-- A machine-check record is counted, written where there is room, and announced. -/
theorem machineChecked_machineCheckAt (time : Nat) (w0 : Word) (pa : Nat) (kv : Bool) (part : Nat) (asid : BitVec 16) (s : State) :
    MachineChecked part s (machineCheckAt time w0 pa kv part asid s) := by
  unfold machineCheckAt
  dsimp only
  split
  · next hfull => exact ⟨rfl, rfl, fun h => absurd hfull h, fun _ => ⟨rfl, rfl, rfl⟩⟩
  next hroom =>
  generalize hbs : leBytes 8 w0.toNat ++ leBytes 8 pa ++ _ ++ _ ++ _ ++ _ = bs
  obtain ⟨b, rest, rfl⟩ : ∃ b rest, bs = b :: rest := ⟨_, _, hbs.symm⟩
  have hkeep := besidesWrites_putPhys peerTag (s.mcBase + 64 * (s.mcWptr % 1024)) (b :: rest)
    { s with mcSeq := s.mcSeq + 1, mcWptr := s.mcWptr + 1 }
  have hflow (h : WritesFlow s) := WritesFlow.putPhys (s := { s with mcSeq := s.mcSeq + 1, mcWptr := s.mcWptr + 1 })
    ⟨h.held, h.commit, h.acks, h.host⟩ peerTag (s.mcBase + 64 * (s.mcWptr % 1024)) (b :: rest)
  have hwait := heldWrites_putPhys (s := { s with mcSeq := s.mcSeq + 1, mcWptr := s.mcWptr + 1 }) peerTag
    (s.mcBase + 64 * (s.mcWptr % 1024)) b rest
  generalize putPhys peerTag _ (b :: rest) _ = u at hkeep hflow hwait ⊢
  have hcounts : mcCounts u = (s.mcSeq + 1, s.mcCons, s.mcWptr + 1, s.mcDrops) := (congrArg mcCounts hkeep :)
  have hints : u.interrupts = s.interrupts := (congrArg State.interrupts hkeep :)
  have hparts : u.parts = s.parts := (congrArg State.parts hkeep :)
  generalize hv : logEvent part 7 0 _ _ u = v
  have hvcounts : mcCounts v = mcCounts u := by rw [← hv]; rfl
  have hvints : v.interrupts = u.interrupts := by rw [← hv]; rfl
  have hvheld : v.heldWrites = u.heldWrites := by rw [← hv]; rfl
  have hdone := (mcCounts_doHeld_interrupt part 33 v).trans (hvcounts.trans hcounts)
  simp only [mcCounts, Prod.mk.injEq] at hdone
  obtain ⟨hseq, hcons, hwptr, hdrops⟩ := hdone
  refine ⟨hseq, hcons, fun _ => ⟨hwptr, hdrops, fun h1 h2 h3 h4 hr => ?_, fun h => ?_⟩, fun h => absurd h hroom⟩
  · have hreplay : (partOf v part).replay = false := by
      rw [← hv, replay_logEvent, partOf, hparts]
      exact hr
    rw [interrupts_doHeld_flows 33 (hvheld.trans (hflow ⟨h1, h2, h3, h4⟩).held) hreplay, hvints, hints]
  · rw [doHeld_interrupt_waits part 33 (hvheld ▸ hwait h)]
    exact ⟨hvints.trans hints, List.mem_append_right _ (List.mem_singleton_self _)⟩

theorem machineChecked_machineCheck (w0 : Word) (pa : Nat) (kv : Bool) (part : Nat) (asid : BitVec 16) (s : State) :
    MachineChecked part s (machineCheck w0 pa kv part asid s) :=
  machineChecked_machineCheckAt (tickClock s).clock w0 pa kv part asid (tickClock s)

/-- An access in no region leaves a machine-check record (R96). -/
theorem machineChecked_noRegionCheck (pa part : Nat) (s : State) : MachineChecked part s (noRegionCheck pa part s) :=
  machineChecked_machineCheck _ _ _ _ _ s

end Sys2Proof.Proofs
end

section
/-! Accesses of the host port and of peers at the home (R105, R106, R108, R410, R414), and the statements of O42. -/
namespace Sys2Proof.Proofs
open Sys2Proof Sys2Proof.Machine Sys2Proof.Claims
variable {s : State} {pa line : Nat}

/-! A port's request to a line that nothing holds up. -/

/-- A request that meets no poison is acted on at its line. -/
theorem portRequest_go (part : Nat) {m : LineMask} (bad : State → State) (k : Nat → State → State) (h : HomeAt pa line s)
    (hm : meetsPoison s pa line m = false) : portRequest pa part m bad s k = k line s := by
  have hbusy := lineBusy_of_homeOpen h.1
  obtain ⟨⟨cell, hcell, rfl, hcommit, -⟩, hlatent, hfound⟩ := h
  simp [portRequest, hcommit, hcell, hbusy, checkSectors_clean _ _ hlatent hfound, hm]

/-- A load served at the home for a port hands on the line as it then stands there. -/
theorem served_of_copies {m : LineMask} {t u : State} (h : Served m line s u) (hm : t.mem = u.mem := by rfl)
    (hc : t.copies = u.copies := by rfl) : Served m line s t := by
  obtain ⟨h1, h2, h3⟩ := h
  exact ⟨by rw [hc]; exact h1, fun x hx a => by rw [hm]; exact h2 x hx a, fun hx => by rw [hm, hc]; exact h3 hx⟩

/-- One read-modify-write of a port at the home of a clean line. -/
theorem bytesPut_portBytes (client : Nat) {off n : Nat} {f : List Byte → List Byte} (owner : BitVec 18) (hc : CleanLine line s)
    (hoff : off + n ≤ 128) (hf : (f (tbytes s.mem (128 * line + off) n)).length = n) :
    BytesPut (128 * line + off) (f (tbytes s.mem (128 * line + off) n)) s.mem (portBytes client line off n f owner s).mem := by
  have hmem := mem_homePrepare_clean client (bytesOf (wordsOf (maskRange off n))) hc
  have hclean := (copiesLeft_homePrepare s client line (bytesOf (wordsOf (maskRange off n)))).cleanLine hc
  rw [portBytes]
  generalize homePrepare client line (bytesOf (wordsOf (maskRange off n))) s = u at hmem hclean
  rw [← hmem]
  rw [← hmem] at hf
  refine bytesPut_of_lineBytes (s := u) (by rw [hf]; exact hoff) ?_
  rw [hf]
  exact lineBytes_homeStore client _ _ owner hclean

theorem portRmw_old (client : Nat) (off n : Nat) (f : Nat → Nat) (owner : BitVec 18) (hc : CleanLine line s) :
    (portRmw client line off n f owner s).2 = leVal (tbytes s.mem (128 * line + off) n) := by
  rw [portRmw]
  dsimp only
  rw [mem_homePrepare_clean client _ hc]

theorem bytesPut_portRmw (client : Nat) {off n : Nat} (f : Nat → Nat) (owner : BitVec 18) (hc : CleanLine line s) (hoff : off + n ≤ 128) :
    BytesPut (128 * line + off) (leBytes n (f (leVal (tbytes s.mem (128 * line + off) n)))) s.mem
      (portRmw client line off n f owner s).1.mem :=
  bytesPut_portBytes (f := fun old => leBytes n (f (leVal old))) client owner hc hoff (length_leBytes _ _)

/-- The operand of an atomic has 4 or 8 bytes (R169). -/
theorem atomOk_bytes {op : AtomOp} {ty : Ty} (h : atomOk op ty = true) : tyBits ty / 8 = 4 ∨ tyBits ty / 8 = 8 := by
  revert h
  cases op <;> cases ty <;> decide

/-- An aligned operand of an atomic lies in one line. -/
theorem atomOk_inLine {op : AtomOp} {ty : Ty} (h : atomOk op ty = true) (ha : pa % (tyBits ty / 8) = 0) : pa % 128 + tyBits ty / 8 ≤ 128 := by
  rcases atomOk_bytes h with hn | hn <;> rw [hn] at ha ⊢ <;> omega

/-! The host's accesses (R105, R108). -/

theorem useCopy_eq (client line : Nat) (s : State) :
    Machine.useCopy client line s = { s with copies := (Machine.useCopy client line s).copies } := by
  unfold Machine.useCopy
  split <;> rfl

theorem hostCacheableRead_held {r : LineMask} {c : Copy} (h : hostHolds pa r s = some c) :
    exec (.hostCacheableRead pa r) s = .next (hostGot c.data (Machine.useCopy hostClient c.line s)) := by
  show execHostCacheableRead pa r s = _
  rw [execHostCacheableRead, h]

theorem hostCacheableRead_home {r : LineMask} (h : HomeAt pa line s) (hh : hostHolds pa r s = none)
    (hm : meetsPoison s pa line r = false) :
    exec (.hostCacheableRead pa r) s =
      .next (hostGot (hostLine pa line r (homeLoad hostClient line pa .wt r s)) (homeLoad hostClient line pa .wt r s)) := by
  show execHostCacheableRead pa r s = _
  rw [execHostCacheableRead, hh]
  dsimp only
  rw [portRequest_go 0 _ _ h hm, checkSectors_clean _ _ h.2.1 h.2.2]

theorem exec_homeWtLoad (client : Nat) (r : LineMask) (h : HomeAt pa line s) :
    exec (.homeWtLoad client pa r) s = .next (homeLoad client line pa .wt r s) := congrArg _ (clientLoad_go .wt r h)

/-- A client's copy holds bytes that it has written, dirty (R98). -/
def WrittenInCopy (client line : Nat) (w : LineMask) (d : LineData) (t : State) : Prop :=
  Covers client line 0 w t ∧ ∀ c, copyOf client line t = some c → ∀ k, k < 128 → w.getLsbD k = true →
    lineByte c.data k = lineByte d k ∧ c.dirty.getLsbD (k / 4) = true

/-- A write to a copy whose masks cover it (R97, R98). -/
theorem writtenInCopy_l1Store {client : Nat} {w : LineMask} (d : LineData) (owner : BitVec 18) {c : Copy}
    (hc : copyOf client line s = some c) (hw : ∀ k, w.getLsbD k = true → c.w.getLsbD k = true) :
    WrittenInCopy client line w d (if w = 0 then s else l1Store client line w d owner s) := by
  have hnone {k : Nat} (h : (0 : LineMask).getLsbD k = true) : False := by simp at h
  split
  · next h0 =>
    subst h0
    exact ⟨⟨c, hc, fun k _ => ⟨fun h => (hnone h).elim, fun h => (hnone h).elim⟩⟩, fun _ _ k _ h => (hnone h).elim⟩
  · have hstore : copyOf client line (l1Store client line w d owner s) =
        some { c with data := mergeLine w d c.data, dirty := c.dirty ||| wordsOf w, owner := owner } :=
      copyOf_setCopy (fun _ => ⟨rfl, rfl⟩) hc
    refine ⟨⟨_, hstore, fun k _ => ⟨fun h => (hnone h).elim, hw k⟩⟩, fun x hx k _ hk => ?_⟩
    obtain rfl := Option.some.inj (hstore.symm.trans hx)
    exact ⟨by rw [lineByte_mergeLine, if_pos hk], by rw [BitVec.getLsbD_or, wordsOf_of_byte hk, Bool.or_true]⟩

theorem getLsbD_of_covered {w c : LineMask} (h : w &&& ~~~c = 0) {k : Nat} (hk : w.getLsbD k = true) : c.getLsbD k = true := by
  have hlt : k < 128 := BitVec.lt_of_getLsbD hk
  have hbit := congrArg (fun m : LineMask => m.getLsbD k) h
  simpa [hk, hlt] using hbit

/-- The host port's copies of a line, by line and by address: one, where there is any. -/
def HostCopiesAgree (pa line : Nat) (s : State) : Prop :=
  ∀ x ∈ s.copies, x.client = hostClient → (x.pa = pa / 128 * 128 ↔ x.line = line) ∧
    ∀ y ∈ s.copies, y.client = hostClient → y.line = x.line → y = x

theorem writtenInCopy_hostReadForOwnership {r w : LineMask} {data : LineData} (h : HomeAt pa line s)
    (hm : meetsPoison s pa line (r ||| w) = false) (hk : notKept line s = false) (hagree : HostCopiesAgree pa line s) :
    Completes (.hostReadForOwnership pa r w data) s (WrittenInCopy hostClient line w data) := by
  have hexec : exec (.hostReadForOwnership pa r w data) s = execHostReadForOwnership pa r w data s := rfl
  rw [Completes, hexec]
  unfold execHostReadForOwnership
  dsimp only
  refine ⟨_, rfl, ?_⟩
  split
  · next c hown =>
    have hmem := List.mem_of_find?_eq_some hown
    have hfound := List.find?_some hown
    simp only [Bool.and_eq_true, decide_eq_true_eq, beq_iff_eq] at hfound
    obtain ⟨⟨⟨⟨hclient, hpa⟩, -⟩, hw⟩, -⟩ := hfound
    obtain ⟨hline, honly⟩ := hagree c hmem hclient
    obtain rfl := hline.1 hpa
    obtain ⟨x, hx⟩ := copyOf_isSome hmem hclient rfl
    obtain ⟨hxmem, hxclient, hxline⟩ := mem_of_copyOf hx
    obtain rfl := honly x hxmem hxclient hxline
    exact writtenInCopy_l1Store (s := hostGot x.data (Machine.useCopy hostClient x.line s)) data hostTag
      ((copyOf_useCopy hostClient x.line s).trans hx) fun k => getLsbD_of_covered hw
  · rw [portRequest_go 0 _ _ h hm, hostOwn]
    dsimp only
    rw [checkSectors_clean _ _ h.2.1 h.2.2, hk, if_neg Bool.false_ne_true]
    obtain ⟨⟨c, hc, hcover⟩, -⟩ := owned_ownAccess hostClient line pa r w s
    exact writtenInCopy_l1Store (s := hostGot _ (ownAccess hostClient line pa r w s)) data hostTag hc
      fun k hk => (hcover k (BitVec.lt_of_getLsbD hk)).2 hk

theorem hostNoncachingLoad {m : LineMask} (data : LineData) (h : HomeAt pa line s) (hm : meetsPoison s pa line m = false) :
    exec (.hostNoncachingAccess pa false m data) s = .next (hostGot (memLine (homeServe line m s) line) (homeServe line m s)) :=
  congrArg Host.Outcome.next (portRequest_go 0 _ _ h hm)

theorem hostNoncachingStore {m : LineMask} (data : LineData) (h : HomeAt pa line s) (hm : meetsPoison s pa line m = false) :
    exec (.hostNoncachingAccess pa true m data) s = .next (homeStore hostClient line m data hostTag s) :=
  congrArg Host.Outcome.next (portRequest_go 0 _ _ h hm)

/-- After a store at the home nobody else shares the line. -/
theorem shared_of_homeStore {client : Nat} {m : LineMask} {d : LineData} {owner : BitVec 18} {y : Copy}
    (hy : y ∈ (homeStore client line m d owner s).copies) (hl : y.line = line) (hk : y.kind = .shared) : y.client = client := by
  rw [copies_homeStore] at hy
  obtain ⟨x, hx, hxy⟩ := copiesLeft_setCopy _ _ _ (f := fun c => { c with data := mergeLine m d c.data }) (fun _ => ⟨rfl, rfl, rfl, id⟩) y hy
  rw [hxy.client]
  exact shared_of_homePrepare hx (hxy.line.symm.trans hl) (hxy.kind.symm.trans hk)

theorem hostAtomic_go {op : AtomOp} {ty : Ty} (v e : Word) (h : HomeAt pa line s) (hop : atomOk op ty = true)
    (ha : pa % (tyBits ty / 8) = 0) (hm : meetsPoison s pa line (maskRange (pa % 128) (tyBits ty / 8)) = false) :
    exec (.hostAtomic pa op ty v e) s =
      let r := portRmw hostClient line (pa % 128) (tyBits ty / 8) (fun old => atomVal op ty old v.toNat e.toNat) hostTag s
      .next { r.1 with hostRead := [BitVec.ofNat 64 r.2] } := by
  show execHostAtomic pa op ty v e s = _
  rw [execHostAtomic]
  dsimp only
  rw [if_neg (by simp [hop, ha]), portRequest_go 0 _ _ h hm]

/-- The host port's acknowledgement takes the entry of its line away (R105). -/
theorem hostPortAcknowledgement_go {c : Copy} (hc : c.pa = pa / 128 * 128) (hno : ∀ x ∈ s.hostAcks, x.pa ≠ pa / 128 * 128)
    (hrest : CoxAtRest s ∨ s.halted = true ∨ s.boot ≠ .ready) :
    exec (.hostPortAcknowledgement pa) { s with hostAcks := c :: s.hostAcks } = .next s := by
  have hacks : (c :: s.hostAcks).filter (fun c => !(c.pa = pa / 128 * 128)) = s.hostAcks := by
    rw [List.filter_cons_of_neg (by simp [hc])]
    exact List.filter_eq_self.2 fun x hx => by simpa using hno x hx
  have hdue : (if s.halted || s.boot != .ready then s else endDue s) = s := by
    rcases hrest with h | h | h
    · rw [endDue_rest h, ite_self]
    · rw [if_pos (by simp [h])]
    · rw [if_pos (by simp [h])]
  show execHostPortAcknowledgement pa _ = _
  rw [execHostPortAcknowledgement]
  dsimp only
  rw [hacks]
  exact congrArg Host.Outcome.next hdue

theorem hostAccesses : HostAccesses := by
  intro s pa line h
  refine ⟨fun r c hh => ?_, fun r hh hm => ?_, fun r w data hm hk hagree => ?_, fun m data hm => ⟨?_, fun hc => ?_⟩,
    fun op ty v e hop ha hc => ?_, fun c hc hno hrest s' hs' => ?_⟩
  · refine ⟨_, hostCacheableRead_held hh, rfl, ?_⟩
    rw [useCopy_eq]
    exact ⟨rfl, sameBytes_of_eq rfl rfl rfl rfl rfl⟩
  · exact ⟨_, exec_homeWtLoad hostClient r h, _, hostCacheableRead_home h hh hm, rfl, sameBytes_of_eq rfl rfl rfl rfl rfl⟩
  · exact writtenInCopy_hostReadForOwnership h hm hk hagree
  · exact ⟨_, hostNoncachingLoad data h hm, served_of_copies (served_homeServe line m s), rfl⟩
  · exact ⟨_, hostNoncachingStore data h hm, lineBytes_homeStore hostClient m data hostTag hc, fun y => shared_of_homeStore⟩
  · intro n old hm
    have hput := bytesPut_portRmw hostClient (fun x => atomVal op ty x v.toNat e.toNat) hostTag hc (atomOk_inLine hop ha)
    have hold := portRmw_old hostClient (pa % 128) n (fun x => atomVal op ty x v.toNat e.toNat) hostTag hc
    rw [Completes, hostAtomic_go v e h hop ha hm]
    dsimp only
    generalize portRmw _ _ _ _ _ _ s = u at hput hold ⊢
    exact ⟨_, rfl, hput, by rw [hold]⟩
  · subst hs'
    exact ⟨s, hostPortAcknowledgement_go hc hno hrest, rfl, sameBytes_of_eq rfl rfl rfl rfl rfl⟩

end Sys2Proof.Proofs
end

section
/-! Accesses of peers at the home (R106, R210, R214, R410, R414), and the settlement of O42. -/
namespace Sys2Proof.Proofs
open Sys2Proof Sys2Proof.Machine Sys2Proof.Claims
variable {s : State} {pa line entry : Nat} {c : Conn}

/-- A request of a peer on an open group, to an address of a region that nothing holds up: it goes on in the group's partition, and in
another partition's region it is answered as in none. -/
theorem peerArrives_open (ask : PeerAsk) (bad : State → State) (k : Nat → State → State) (hp : PeerOpen entry c s) (h : HomeAt pa line s) :
    peerArrives ask entry pa bad s k =
      if (regionAt s.regions pa).any (fun e => regionPart e = c.part) then k c.part s else bad (noRegionCheck pa c.part s) := by
  have hbusy := lineBusy_of_homeOpen h.1
  obtain ⟨cell, hcell, rfl, hcommit, -⟩ := h.1
  obtain ⟨hconn, hup, hreplay, hrecord⟩ := hp
  have hentry : (s.conns[entry]?).filter (fun c => c.state = 2 || c.state = 3) = some c := by
    rw [hconn]
    exact Option.filter_eq_some_iff.2 ⟨rfl, by simpa using hup⟩
  rw [peerArrives, hentry]
  dsimp only
  rw [if_neg (by simp [hcommit, hcell, hbusy]), admitted, replaying, hreplay,
    Bool.false_and, Bool.not_false, if_pos rfl, recordWake_off _ _ _ hrecord]

theorem peerArrives_go (ask : PeerAsk) (bad : State → State) (k : Nat → State → State) (hp : PeerOpen entry c s) (h : HomeAt pa line s)
    (hpart : InPart pa c.part s) : peerArrives ask entry pa bad s k = k c.part s := by
  obtain ⟨e, he, hpe⟩ := hpart
  rw [peerArrives_open ask bad k hp h, he]
  exact if_pos (by simpa using hpe)

theorem peerArrives_foreign {e : BitVec 128} (ask : PeerAsk) (bad : State → State) (k : Nat → State → State) (hp : PeerOpen entry c s)
    (h : HomeAt pa line s) (he : regionAt s.regions pa = some e) (hne : regionPart e ≠ c.part) :
    peerArrives ask entry pa bad s k = bad (noRegionCheck pa c.part s) := by
  rw [peerArrives_open ask bad k hp h, he]
  exact if_neg (by simpa using hne)

theorem peerLoad_go {m : LineMask} (data : LineData) (hp : PeerOpen entry c s) (h : HomeAt pa line s) (hpart : InPart pa c.part s)
    (hm : meetsPoison s pa line m = false) : exec (.peerRequest entry pa false m data) s =
      .next (peerGot (wordsOfLine (memLine (homeServe line m s) line)) (homeServe line m s)) :=
  congrArg Host.Outcome.next ((peerArrives_go .load _ _ hp h hpart).trans (portRequest_go _ _ _ h hm))

theorem peerStore_go {m : LineMask} (data : LineData) (hp : PeerOpen entry c s) (h : HomeAt pa line s) (hpart : InPart pa c.part s)
    (hm : meetsPoison s pa line m = false) : exec (.peerRequest entry pa true m data) s = .next (homeStore 385 line m data peerTag s) :=
  congrArg Host.Outcome.next ((peerArrives_go .store _ _ hp h hpart).trans (portRequest_go _ _ _ h hm))

theorem peerAtomic_go {op : AtomOp} {ty : Ty} (v e : Word) (hp : PeerOpen entry c s) (h : HomeAt pa line s) (hpart : InPart pa c.part s)
    (hop : atomOk op ty = true) (ha : pa % (tyBits ty / 8) = 0)
    (hm : meetsPoison s pa line (maskRange (pa % 128) (tyBits ty / 8)) = false) :
    exec (.peerAtomic entry pa op ty v e) s =
      let r := portRmw 385 line (pa % 128) (tyBits ty / 8) (fun old => atomVal op ty old v.toNat e.toNat) peerTag s
      .next (peerGot [BitVec.ofNat 64 r.2] r.1) := by
  show execPeerAtomic entry pa op ty v e s = _
  rw [execPeerAtomic]
  dsimp only
  rw [if_neg (by simp [hop, ha]), peerArrives_go .atomic _ _ hp h hpart, portRequest_go _ _ _ h hm]

theorem peerBacc_go {fd fs : Ty} (act : Mask) (scale : Byte) (elems : BitVec 256) (hp : PeerOpen entry c s) (h : HomeAt pa line s)
    (hpart : InPart pa c.part s) (hfd : recordFmt fd = true) (hfs : recordFmt fs = true) (ha : slotAligned fd (BitVec.ofNat 57 pa) = true)
    (hm : meetsPoison s pa line (maskRange (pa % 128) (recordBytes fd)) = false) :
    exec (.peerBacc ⟨entry, pa⟩ fd fs act scale elems) s = .next (portBytes 385 line (pa % 128) (recordBytes fd)
      (accumulate fd fs scale.toNat act ((List.range 32).map (fun i => elems.extractLsb' (8 * i) 8))) peerTag s) := by
  show execPeerBacc ⟨entry, pa⟩ fd fs act scale elems s = _
  rw [execPeerBacc]
  dsimp only
  rw [if_neg (by simp [hfd, hfs, ha]), peerArrives_go .block _ _ hp h hpart, portRequest_go _ _ _ h hm]

/-- A block accumulation that R211 or R212 refuses is not sent (log 40). -/
theorem peerBacc_refused {x : PeerRed} {fd fs : Ty} (act : Mask) (scale : Byte) (elems : BitVec 256)
    (h : recordFmt fd = false ∨ recordFmt fs = false ∨ slotAligned fd (BitVec.ofNat 57 x.pa) = false) :
    exec (.peerBacc x fd fs act scale elems) s = .next s :=
  congrArg Host.Outcome.next (if_pos (by rcases h with h | h | h <;> simp [h]))

theorem peerRequest_foreign {e : BitVec 128} (wr : Bool) (m : LineMask) (data : LineData) (hp : PeerOpen entry c s) (h : HomeAt pa line s)
    (he : regionAt s.regions pa = some e) (hne : regionPart e ≠ c.part) : exec (.peerRequest entry pa wr m data) s =
      .next ((if wr then id else peerOnes) (noRegionCheck pa c.part s)) :=
  congrArg Host.Outcome.next (peerArrives_foreign _ _ _ hp h he hne)

/-- A record at the first byte of a slot lies in its line (R206). -/
theorem slotAligned_inLine {fd : Ty} (h : slotAligned fd (BitVec.ofNat 57 pa) = true) : pa % 128 + recordBytes fd ≤ 128 := by
  simp only [slotAligned, Bool.and_eq_true, decide_eq_true_eq, BitVec.toNat_ofNat] at h
  rw [Nat.mod_mod_of_dvd pa (show 128 ∣ 2 ^ 57 from ⟨2 ^ 50, rfl⟩)] at h
  exact h.2

/-- An accumulation leaves a record of the same length. -/
theorem length_accumulate (fd fs : Ty) (ss : Nat) (act : Mask) (elems old : List Byte) (h : old.length = recordBytes fd) :
    (accumulate fd fs ss act elems old).length = recordBytes fd := by
  have hpos : 1 ≤ recordBytes fd := Nat.le_add_right 1 _
  rw [accumulate]
  dsimp only
  split
  · rw [List.length_cons, List.length_drop, h]
    omega
  · exact length_recordOf _ _ _

theorem peerAccesses : PeerAccesses := by
  intro s entry c pa line hp h
  refine ⟨fun hpart => ⟨fun m data hm => ⟨?_, fun hc => ?_⟩, fun op ty v e hop ha hc => ?_, fun fd fs act scale elems hfd hfs ha hc hm => ?_⟩,
    fun fd fs act scale elems hno => ?_, fun e wr m data he hne => ?_⟩
  · exact ⟨_, peerLoad_go data hp h hpart hm, served_of_copies (served_homeServe line m s), rfl⟩
  · exact ⟨_, peerStore_go data hp h hpart hm, lineBytes_homeStore 385 m data peerTag hc⟩
  · intro n old hm
    have hput := bytesPut_portRmw 385 (fun x => atomVal op ty x v.toNat e.toNat) peerTag hc (atomOk_inLine hop ha)
    have hold := portRmw_old 385 (pa % 128) n (fun x => atomVal op ty x v.toNat e.toNat) peerTag hc
    rw [Completes, peerAtomic_go v e hp h hpart hop ha hm]
    dsimp only
    generalize portRmw _ _ _ _ _ _ s = u at hput hold ⊢
    exact ⟨_, rfl, hput, by rw [hold]; rfl⟩
  · exact ⟨_, peerBacc_go act scale elems hp h hpart hfd hfs ha hm, _,
      bytesPut_portBytes 385 peerTag hc (slotAligned_inLine ha) (length_accumulate _ _ _ _ _ _ (by simp [tbytes])),
      accumulated_accumulate _ _ _ _ _ _⟩
  · exact ⟨_, peerBacc_refused act scale elems hno, rfl⟩
  · refine ⟨_, peerRequest_foreign wr m data hp h he hne, ?_⟩
    have hrecord := machineChecked_noRegionCheck pa c.part s
    cases wr
    · exact ⟨hrecord, fun _ => rfl⟩
    · exact ⟨hrecord, fun hwr => nomatch hwr⟩

/-- Settles O42: a port's request to a line that nothing holds up is a request at its home, where a load is served without a copy, a store
or a read-modify-write puts its bytes, and a block accumulation leaves the record of R214; one of a peer to a region of another partition
leaves the record of an access in no region. -/
theorem hostAndPeerAccesses : Obligations.HostAndPeerAccesses := ⟨hostAccesses, peerAccesses⟩

end Sys2Proof.Proofs
end

section
/-! What an access at a location does, it does alike whatever repechage passes its group has left (R170): no operation of the homes, the
slices' errors, the ends of contexts and the Cox's records looks at the passes or changes them. -/
namespace Sys2Proof.Proofs
open Sys2Proof Sys2Proof.Machine Sys2Proof.Claims

/-- A choice between two results of a function. -/
theorem ite_eq_apply_ite {α β : Type} (f : α → β) {c : Prop} [Decidable c] {a b : β} {a' b' : α} (ha : a = f a') (hb : b = f b') :
    (if c then a else b) = f (if c then a' else b') := by
  split
  · exact ha
  · exact hb

/-- A group with other passes left. -/
def groupPasses (v : Option Passes) (g : Group) : Group := { g with passes := v }

/-- The issuing group with other passes left. -/
def withPasses (v : Option Passes) (s : State) : State := { s with cur := groupPasses v s.cur }

/-- An operation on states that neither looks at the issuing group's passes nor changes them. -/
def PassesApart (f : State → State) : Prop := ∀ v s, f (withPasses v s) = withPasses v (f s)

theorem PassesApart.foldl {α : Type} {f : State → α → State} (hf : ∀ x, PassesApart (fun s => f s x)) (xs : List α) :
    PassesApart (fun s => xs.foldl f s) := by
  intro v s
  induction xs generalizing s with
  | nil => rfl
  | cons x xs ih => exact (congrArg (fun t => xs.foldl f t) (hf x v s)).trans (ih (f s x))

theorem PassesApart.id : PassesApart fun s => s := fun _ _ => rfl

theorem PassesApart.comp {f g : State → State} (hf : PassesApart f) (hg : PassesApart g) : PassesApart fun s => f (g s) :=
  fun v s => (congrArg f (hg v s)).trans (hf v (g s))

theorem PassesApart.ite {c : State → Prop} [∀ s, Decidable (c s)] {f g : State → State} (hc : ∀ v s, c (withPasses v s) = c s)
    (hf : PassesApart f) (hg : PassesApart g) : PassesApart fun s => if c s then f s else g s := by
  intro v s
  have hc := hc v s
  by_cases h : c s
  · exact (if_pos (hc ▸ h)).trans ((hf v s).trans (congrArg (withPasses v) (if_pos h).symm))
  · exact (if_neg (hc ▸ h)).trans ((hg v s).trans (congrArg (withPasses v) (if_neg h).symm))

/-- An operation that a value read from the state, apart from the passes, chooses. -/
theorem PassesApart.reading {α : Type} {r : State → α} {f : α → State → State} (hr : ∀ v s, r (withPasses v s) = r s)
    (hf : ∀ a, PassesApart (f a)) : PassesApart fun s => f (r s) s :=
  fun v s => (congrArg (f · (withPasses v s)) (hr v s)).trans (hf (r s) v s)

theorem PassesApart.mapGroups {f : Group → Group} (hf : ∀ v g, f (groupPasses v g) = groupPasses v (f g)) :
    PassesApart (mapGroups f) := fun v s => congrArg (fun g => { s with cur := g, groups := s.groups.map f }) (hf v s.cur)

/-! The groups (R132, R179). -/

theorem rollback_passes (v : Option Passes) (g : Group) : rollback (groupPasses v g) = groupPasses v (rollback g) := by
  rw [rollback, rollback, show (groupPasses v g).fence = g.fence from rfl]
  cases g.fence <;> rfl

theorem noticed_passes (core line : Nat) (v : Option Passes) (g : Group) :
    noticed core line (groupPasses v g) = groupPasses v (noticed core line g) :=
  ite_eq_apply_ite (groupPasses v) (ite_eq_apply_ite (groupPasses v) (rollback_passes v (triggerOn line g)) rfl) rfl

theorem unseenBy_passes (w : Option Group) (line : Nat) (v : Option Passes) (g : Group) :
    unseenBy w line (groupPasses v g) = groupPasses v (unseenBy w line g) := by
  have hroll := rollback_passes v g
  rw [unseenBy, unseenBy, show (groupPasses v g).fence = g.fence from rfl]
  cases g.fence with
  | none => rfl
  | some f =>
    refine ite_eq_apply_ite _ rfl (ite_eq_apply_ite _ hroll (ite_eq_apply_ite _ rfl ?_))
    cases w with
    | none => exact hroll
    | some h => exact ite_eq_apply_ite _ hroll rfl

theorem passesApart_notice (client line : Nat) : PassesApart (notice client line) := .mapGroups (noticed_passes client line)

theorem passesApart_seenFrom (w : Option Group) (core line : Nat) : PassesApart (seenFrom w core line) := .mapGroups fun v g => by
  have htrigger : (if g.core = core then triggerOn line (groupPasses v g) else groupPasses v g) =
      groupPasses v (if g.core = core then triggerOn line g else g) := ite_eq_apply_ite _ rfl rfl
  exact (congrArg (unseenBy w line) htrigger).trans (unseenBy_passes w line v _)

/-- The passes of a group that writes tell nobody anything. -/
theorem seenFrom_writer (v : Option Passes) (h : Group) (core line : Nat) :
    seenFrom (some (groupPasses v h)) core line = seenFrom (some h) core line := rfl

theorem passesApart_storeSeen (core line : Nat) : PassesApart (storeSeen core line) := by
  intro v s
  by_cases hw : (s.cur.placed && decide (s.cur.core = core)) = true
  · have hs : storeSeen core line s = seenFrom (some s.cur) core line s := congrArg (seenFrom · core line s) (if_pos hw)
    have hv : storeSeen core line (withPasses v s) = seenFrom (some s.cur) core line (withPasses v s) :=
      (congrArg (seenFrom · core line (withPasses v s)) (if_pos hw)).trans (congrFun (seenFrom_writer v s.cur core line) _)
    rw [hs, hv, passesApart_seenFrom]
  · have hs : storeSeen core line s = seenFrom none core line s := congrArg (seenFrom · core line s) (if_neg hw)
    have hv : storeSeen core line (withPasses v s) = seenFrom none core line (withPasses v s) :=
      congrArg (seenFrom · core line (withPasses v s)) (if_neg hw)
    rw [hs, hv, passesApart_seenFrom]

/-! The homes (R93, R97 to R105, R419). -/

theorem passesApart_l2Touch (line : Nat) (sec : BitVec 4) (owner : Option (BitVec 18)) : PassesApart (l2Touch line sec owner) := by
  intro v s
  have hleave (xs : List L2Line) : xs.foldl (fun s e => leaveL2 e s) (withPasses v s) =
      withPasses v (xs.foldl (fun s e => leaveL2 e s) s) := PassesApart.foldl (fun _ _ _ => rfl) xs v s
  unfold l2Touch
  dsimp only
  refine ite_eq_apply_ite _ rfl ?_
  rw [show l2Ways (withPasses v s) line = l2Ways s line from rfl, show (withPasses v s).l2 = s.l2 from rfl]
  cases (l2Ways s line).filter (fun w => !((s.l2.filter (fun e => l2Same e.line line)).any (fun e => e.way = w))) with
  | cons w ws => rfl
  | nil =>
    rw [hleave]
    exact ite_eq_apply_ite _ rfl rfl

theorem passesApart_putLine (m : LineMask) (d : LineData) (line : Nat) : PassesApart (putLine m d line) := by
  unfold putLine
  exact .reading (r := fun s => (List.range 128).foldl (fun t k => if m.getLsbD k then tset 0 t (128 * line + k) (lineByte d k) else t) s.mem)
    (f := fun mem s => { s with mem := mem }) (fun _ _ => rfl) fun _ _ _ => rfl

theorem passesApart_writeSectors (line : Nat) (m : LineMask) : PassesApart (writeSectors line m) := fun _ _ => rfl

theorem passesApart_readSectors (line : Nat) (sec : BitVec 4) : PassesApart (readSectors line sec) := fun _ _ => rfl

theorem passesApart_setCopy (client line : Nat) (f : Copy → Copy) : PassesApart (setCopy client line f) := fun _ _ => rfl

theorem passesApart_removeCopy (client line : Nat) : PassesApart (removeCopy client line) := fun _ _ => rfl

theorem passesApart_writeBack (m : LineMask) (c : Copy) : PassesApart (writeBack m c) := by
  unfold writeBack
  exact .ite (fun _ _ => rfl) .id ((passesApart_l2Touch _ _ _).comp ((passesApart_putLine _ _ _).comp (passesApart_writeSectors _ _)))

theorem passesApart_takeBack (c : Copy) : PassesApart (takeBack c) := by
  unfold takeBack
  have hback := (passesApart_notice c.client c.line).comp
    ((passesApart_removeCopy c.client c.line).comp (passesApart_writeBack (BitVec.allOnes 128) c))
  exact .ite (fun _ _ => rfl) (.comp (f := fun s => { s with hostAcks := c :: s.hostAcks }) (fun _ _ => rfl) hback) hback

theorem passesApart_recallAll (cs : List Copy) : PassesApart (recallAll cs) := by
  induction cs with
  | nil => exact .id
  | cons c cs ih => exact ih.comp (passesApart_takeBack c)

theorem passesApart_dropWords (m : LineMask) (c : Copy) : PassesApart (dropWords m c) := by
  unfold dropWords
  have hwords (r w : LineMask) : PassesApart fun s =>
      let s := writeBack (bytesOf (wordsOf m)) c s
      let s := if r ||| w = 0 then removeCopy c.client c.line s
        else setCopy c.client c.line (fun x => { x with r := r, w := w, dirty := x.dirty &&& ~~~(wordsOf m) }) s
      notice c.client c.line s :=
    (passesApart_notice _ _).comp (.ite (fun _ _ => rfl) ((passesApart_removeCopy _ _).comp (passesApart_writeBack _ c))
      ((passesApart_setCopy _ _ _).comp (passesApart_writeBack _ c)))
  exact .ite (fun _ _ => rfl) .id (.ite (fun _ _ => rfl)
    (.comp (f := fun s => { s with hostAcks := _ :: s.hostAcks }) (fun _ _ => rfl) (hwords _ _)) (hwords _ _))

theorem passesApart_dropWordsAll (m : LineMask) (cs : List Copy) : PassesApart (dropWordsAll m cs) := by
  induction cs with
  | nil => exact .id
  | cons c cs ih => exact ih.comp (passesApart_dropWords m c)

theorem passesApart_homePrepare (client line : Nat) (m : LineMask) : PassesApart (homePrepare client line m) := by
  unfold homePrepare
  exact .reading (r := fun s => holders line s) (f := fun hs s => dropWordsAll m hs (recallAll
    (s.copies.filter (fun c => c.line = line && c.kind == .shared && c.client != client)) s)) (fun _ _ => rfl) fun _ =>
    (passesApart_dropWordsAll m _).comp (.reading (r := fun s => s.copies.filter (fun c => c.line = line && c.kind == .shared && c.client != client))
      (f := recallAll) (fun _ _ => rfl) passesApart_recallAll)

theorem passesApart_homeStore (client line : Nat) (m : LineMask) (d : LineData) (owner : BitVec 18) :
    PassesApart (homeStore client line m d owner) := by
  unfold homeStore
  exact (passesApart_storeSeen _ _).comp ((passesApart_l2Touch _ _ _).comp ((passesApart_putLine _ _ _).comp
    ((passesApart_writeSectors _ _).comp ((passesApart_setCopy _ _ _).comp (passesApart_homePrepare _ _ _)))))

theorem passesApart_untrackedStore (client line : Nat) (m : LineMask) (d : LineData) (owner : BitVec 18) :
    PassesApart (untrackedStore client line m d owner) := by
  unfold untrackedStore
  have hstore := (passesApart_storeSeen client line).comp ((passesApart_l2Touch line (sectorsOf m) (some owner)).comp
    ((passesApart_putLine m d line).comp (passesApart_writeSectors line m)))
  exact .reading (r := recorded line) (f := fun cs s => cs.foldl (fun s c => notice c.client line (setCopy c.client line
    (fun x => { x with stale := true }) s)) (storeSeen client line (l2Touch line (sectorsOf m) (some owner)
      (putLine m d line (writeSectors line m s))))) (fun _ _ => rfl) fun cs =>
    (PassesApart.foldl (fun c => (passesApart_notice _ _).comp (passesApart_setCopy _ _ _)) cs).comp hstore

theorem monitored_withPasses (core line : Nat) (v : Option Passes) (s : State) : monitored core line (withPasses v s) = monitored core line s := by
  unfold monitored allGroups
  rw [show (withPasses v s).cur = groupPasses v s.cur from rfl, show (withPasses v s).groups = s.groups from rfl, List.filter_cons,
    List.filter_cons, show (groupPasses v s.cur).placed = s.cur.placed from rfl]
  cases s.cur.placed <;> rfl

theorem passesApart_evict (c : Copy) : PassesApart (evict c) := by
  unfold evict
  have hback := (passesApart_removeCopy c.client c.line).comp (passesApart_writeBack (BitVec.allOnes 128) c)
  exact PassesApart.comp (f := fun s => if monitored c.client c.line s then { s with copies := monitorCopy c.client c.line c.pa :: s.copies }
    else s) (.ite (fun v s => congrArg (· = true) (monitored_withPasses c.client c.line v s)) (fun _ _ => rfl) .id) hback

end Sys2Proof.Proofs
end

section
/-! What the Cox writes and records, and what the slices' errors and the ends of contexts do (R73, R352, R361, R362, R389, R392), they do alike
whatever passes the issuing group has left. -/
namespace Sys2Proof.Proofs
open Sys2Proof Sys2Proof.Machine Sys2Proof.Claims

/-! The Cox's writes and records (R363, R389, R392, R418). -/

theorem passesApart_putByte (owner : BitVec 18) (a : Nat) (b : Byte) : PassesApart (putByte owner a b) := by
  intro v s
  rw [putByte, putByte, show (withPasses v s).regions = s.regions from rfl]
  cases homeCell s.regions a with
  | none => rfl
  | some cell => exact passesApart_homeStore _ _ _ _ _ v s

theorem passesApart_putPhys (owner : BitVec 18) (a : Nat) (bs : List Byte) : PassesApart (putPhys owner a bs) := by
  induction bs generalizing a with
  | nil => exact .id
  | cons b bs ih =>
    exact (ih (a + 1)).comp (.ite (f := fun s => { s with heldWrites := s.heldWrites ++ [.byte a b owner] }) (fun _ _ => rfl)
      (fun _ _ => rfl) (passesApart_putByte owner a b))

theorem passesApart_putHostRing (a : Nat) (bs : List Byte) : PassesApart (putHostRing a bs) := by
  unfold putHostRing
  exact .ite (fun _ _ => rfl) (fun _ _ => rfl) (fun _ _ => rfl)

theorem passesApart_logEvent (part kind queue code : Nat) (data : Word) : PassesApart (logEvent part kind queue code data) :=
  fun _ _ => rfl

theorem passesApart_ringBytes (base size at_ : Nat) (bs : List Byte) : PassesApart (ringBytes base size at_ bs) := by
  induction bs generalizing at_ with
  | nil => exact .id
  | cons b bs ih => exact (ih (at_ + 1)).comp (g := putHost (base + at_ % size) [b]) fun _ _ => rfl

theorem passesApart_recordWake (part kind port : Nat) (body : List Byte) : PassesApart (recordWake part kind port body) := by
  intro v s
  exact ite_eq_apply_ite _ (passesApart_ringBytes _ _ _ _ v (setPart part
    (fun x => { x with recPos := (x.recPos + 16 + pad16 body.length) % x.recSize }) (tickClock s))) rfl

theorem passesApart_raiseInt (part n : Nat) : PassesApart (raiseInt part n) :=
  (passesApart_recordWake _ _ _ _).comp (g := fun s => { s with interrupts := s.interrupts ++ [n] }) fun _ _ => rfl

theorem nextOf_withPasses (p : Part) (kind fuel at_ : Nat) (v : Option Passes) (s : State) :
    nextOf (withPasses v s) p kind fuel at_ = nextOf s p kind fuel at_ := by
  induction fuel generalizing at_ with
  | zero => rfl
  | succ fuel ih =>
    rw [nextOf, nextOf, ih]
    rfl

theorem passesApart_raiseTurn (part n : Nat) : PassesApart (raiseTurn part n) := by
  induction n with
  | zero => exact .id
  | succ n ih =>
    intro v s
    rw [raiseTurn, raiseTurn, nextOf_withPasses, show partOf (withPasses v s) part = partOf s part from rfl]
    cases (partOf s part).heldInts with
    | nil => rfl
    | cons i is =>
      dsimp only
      cases (if replaying (partOf s part) then nextOf s (partOf s part) 4 ((partOf s part).recSize / 16) (partOf s part).replayInt
        else none) with
      | none => exact (ih.comp (passesApart_raiseInt part i)) v (setPart part (fun x => { x with heldInts := is }) s)
      | some x => exact ite_eq_apply_ite _ ((ih.comp (passesApart_raiseInt part (leVal x.2.1))) v (setPart part
          (fun y => { y with heldInts := y.heldInts.erase (leVal x.2.1), replayInt := x.2.2 }) s)) rfl

theorem passesApart_interrupt (part n : Nat) : PassesApart (interrupt part n) := by
  intro v s
  exact ite_eq_apply_ite _ (passesApart_raiseTurn part _ v (setPart part (fun x => { x with heldInts := x.heldInts ++ [n] }) s))
    (passesApart_raiseInt part n v s)

theorem passesApart_doHeld_interrupt (part n : Nat) : PassesApart (doHeld (.interrupt part n)) := fun v s =>
  ite_eq_apply_ite _ (passesApart_interrupt part n v s) rfl

theorem passesApart_doHeld_status (q seq : Nat) : PassesApart (doHeld (.status q seq)) := fun _ _ => ite_eq_apply_ite _ rfl rfl

theorem passesApart_machineCheckAt (time : Nat) (w0 : Word) (pa : Nat) (kv : Bool) (part : Nat) (asid : BitVec 16) :
    PassesApart (machineCheckAt time w0 pa kv part asid) := by
  intro v s
  unfold machineCheckAt
  dsimp only
  refine ite_eq_apply_ite _ rfl ?_
  exact (passesApart_doHeld_interrupt part 33).comp ((passesApart_logEvent part 7 0 _ _).comp (passesApart_putPhys peerTag _ _)) v
    { s with mcSeq := s.mcSeq + 1, mcWptr := s.mcWptr + 1 }

theorem passesApart_machineCheck (w0 : Word) (pa : Nat) (kv : Bool) (part : Nat) (asid : BitVec 16) :
    PassesApart (machineCheck w0 pa kv part asid) := fun v s => passesApart_machineCheckAt _ w0 pa kv part asid v (tickClock s)

theorem passesApart_noRegionCheck (pa part : Nat) : PassesApart (noRegionCheck pa part) := fun v s =>
  passesApart_machineCheck _ pa false part 0 v s

theorem passesApart_noPeerRoute (peer pa part : Nat) : PassesApart (noPeerRoute peer pa part) := by
  unfold noPeerRoute
  refine PassesApart.comp (f := fun s => if s.noRoute.contains peer then s else interrupt part 32
    (logEvent part 6 0 0 (BitVec.ofNat 64 (127 + peer * 256)) { s with noRoute := peer :: s.noRoute })) ?_ (passesApart_noRegionCheck pa part)
  exact .ite (fun _ _ => rfl) .id ((passesApart_interrupt part 32).comp
    (g := fun s => logEvent part 6 0 0 (BitVec.ofNat 64 (127 + peer * 256)) { s with noRoute := peer :: s.noRoute }) fun _ _ => rfl)

theorem passesApart_portPoison (pa line : Nat) : PassesApart (portPoison pa line) := fun v s =>
  passesApart_machineCheck _ pa false _ 0 v s

/-! Banks, teams and queues at the end of a context (R80, R224, R352, R371). -/

theorem passesApart_leaveFifo (core b : Nat) : PassesApart (leaveFifo core b) := by
  unfold leaveFifo
  exact .comp (f := setFifo core b fun _ => resetFifo) (fun _ _ => rfl) (.ite (fun _ _ => rfl) (fun _ _ => rfl) .id)

theorem passesApart_leaveCache (core b : Nat) : PassesApart (leaveCache core b) := fun v s =>
  PassesApart.foldl (f := fun s c => evict c s) passesApart_evict _ v s

theorem passesApart_setBank (core b : Nat) (f : Bank → Bank) : PassesApart (setBank core b f) := fun _ _ => rfl

theorem passesApart_clearScratch (core b size : Nat) : PassesApart (clearScratch core b size) := fun _ _ => rfl

theorem passesApart_switchBank (core b : Nat) (m : BankMode) (slot : Nat) : PassesApart (switchBank core b m slot) := by
  unfold switchBank
  have hleave : PassesApart fun s => if (Machine.bankOf s core b).mode == .fifo then leaveFifo core b s
      else if (Machine.bankOf s core b).mode == .cache then leaveCache core b s else s :=
    .ite (fun _ _ => rfl) (passesApart_leaveFifo core b) (.ite (fun _ _ => rfl) (passesApart_leaveCache core b) .id)
  have hset := (passesApart_setBank core b (fun x => { x with mode := m, next := none, owner := if m == .fifo then slot else 0, fifo := resetFifo })).comp
    hleave
  exact .ite (fun _ _ => rfl) (passesApart_setBank _ _ _) (.ite (fun _ _ => rfl) ((passesApart_clearScratch _ _ _).comp hset) hset)

/-- What a team takes with it when it leaves its core, but for its FIFO banks (R224). -/
def dropTeam (core slot : Nat) (s : State) : State :=
  let mine := fun (c t : Nat) => c == core && t == slot
  { s with teams := s.teams.filter (fun t => !(mine t.core t.slot)),
           slots := s.slots.filter (fun k => !(mine k.core k.team)),
           copyOps := s.copyOps.filter (fun c => !(mine c.core c.slot)),
           evq := s.evq.filter (fun e => !(mine e.core e.slot)) }

theorem passesApart_freeTeam (core slot : Nat) : PassesApart (freeTeam core slot) := by
  have hbanks (own : List Nat) : PassesApart fun s => dropTeam core slot (own.foldl (fun s b => switchBank core b .cache 0 s) s) :=
    .comp (f := dropTeam core slot) (fun _ _ => rfl) (.foldl (fun b => passesApart_switchBank core b .cache 0) own)
  exact .reading (r := fun s => (List.range 48).filter (fun b => (Machine.bankOf s core b).mode == .fifo && (Machine.bankOf s core b).owner = slot))
    (fun _ _ => rfl) hbanks

theorem passesApart_coxCheck (pa part : Nat) : PassesApart (coxCheck pa part) := by
  unfold coxCheck
  exact .ite (fun _ _ => rfl) (passesApart_noRegionCheck pa part) .id

theorem passesApart_writeRing (k : Queue) (a : Nat) (bs : List Byte) : PassesApart (writeRing k a bs) := by
  unfold writeRing
  exact .ite (fun _ _ => rfl) (passesApart_putHostRing a bs) ((passesApart_putPhys peerTag a bs).comp (passesApart_coxCheck a k.part))

theorem passesApart_setQueue (q : Nat) (f : Queue → Queue) : PassesApart (setQueue q f) := fun _ _ => rfl

theorem passesApart_finishPkt (q seq code : Nat) : PassesApart (finishPkt q seq code) := by
  intro v s
  unfold finishPkt
  rw [show queueAt (withPasses v s) q = queueAt s q from rfl]
  dsimp only
  cases (queueAt s q).pkts.find? (fun p => p.seq = seq && p.status.isNone) with
  | none => rfl
  | some p =>
    have hwritten := ((passesApart_doHeld_status q seq).comp ((passesApart_setQueue q fun k =>
      { k with pkts := k.pkts.map (fun x => if x.seq = seq then { x with status := some code } else x) }).comp
      (passesApart_writeRing (queueAt s q) (unitPhys (queueAt s q) seq + 0x38) (leBytes 8 (code + 65536 * seq))))) v s
    exact ite_eq_apply_ite _ ((congrArg _ hwritten).trans (passesApart_doHeld_interrupt (queueAt s q).part q v _)) hwritten

theorem passesApart_finishWork (q seq code : Nat) : PassesApart (finishWork q seq code) := by
  unfold finishWork
  exact .ite (fun _ _ => rfl) (passesApart_finishPkt q seq code) (.ite (fun _ _ => rfl) .id fun _ _ => rfl)

theorem passesApart_finishLaunch (l : Launch) (code : Nat) : PassesApart (finishLaunch l code) := fun v s =>
  ite_eq_apply_ite _ rfl (passesApart_finishWork l.queue l.seq code v { s with launches := s.launches.filter (fun x => !(x.id = l.id)) })

theorem passesApart_queueFault (q fault fseq : Nat) : PassesApart (queueFault q fault fseq) := fun _ _ => rfl

theorem passesApart_endRecord (code : Nat) (c : BitVec 8) (sub asid : BitVec 16) (part : Nat) :
    PassesApart (endRecord code c sub asid part) := fun _ _ => rfl

theorem passesApart_endBinds (code : Nat) (asid : BitVec 16) (part : Nat) : PassesApart (endBinds code asid part) := by
  unfold endBinds
  refine PassesApart.foldl (fun q => ?_) _
  exact .reading (r := fun s => queueAt s q) (f := fun k s => ((pendingBinds k).filter (fun p => (k.asid = asid && k.part = part) ||
    p.streams.any (fun x => x.taker = some (asid, part)))).foldl (fun s p => finishWork q p.seq code s) s) (fun _ _ => rfl) fun k =>
    .foldl (f := fun s (p : Pkt) => finishWork q p.seq code s) (fun p => passesApart_finishWork q p.seq code) _

/-- What the end of a context takes off the device at once (R352, R385). -/
def dropContext (asid : BitVec 16) (part : BitVec 3) (s : State) : State :=
  let mine := fun (g : Group) => g.asid == asid && g.part == part
  let ls := s.launches.filter (fun l => l.asid = asid && l.part = part.toNat)
  { s with
    roundDue := s.roundDue ++ ls.flatMap reservedDies,
    groups := s.groups.filter (fun g => !(mine g)),
    cur := if mine s.cur then { s.cur with placed := false } else s.cur,
    saves := s.saves.filter (fun v => !(ls.any (fun l => l.id = v.launch))) }

theorem passesApart_dropContext (asid : BitVec 16) (part : BitVec 3) : PassesApart (dropContext asid part) := by
  intro v s
  have hcur : (if s.cur.asid == asid && s.cur.part == part then { groupPasses v s.cur with placed := false } else groupPasses v s.cur) =
      groupPasses v (if s.cur.asid == asid && s.cur.part == part then { s.cur with placed := false } else s.cur) := ite_eq_apply_ite _ rfl rfl
  exact congrArg (fun g => { dropContext asid part s with cur := g }) hcur

/-- The Cox ends a context in this order: its groups, teams, record, bindings, launches and queues. -/
theorem endContext_eq (code : Nat) (cause : BitVec 8) (sub asid : BitVec 16) (part : BitVec 3) (s : State) :
    endContext code cause sub asid part s =
      (List.range 32).foldl (fun s q => if (queueAt s q).asid = asid && (queueAt s q).part = part.toNat && (queueAt s q).state != 0
          then queueFault q 4 (queueAt s q).next s else s)
        ((s.launches.filter (fun l => l.asid = asid && l.part = part.toNat)).foldl (fun s l => finishLaunch l code s)
          (endBinds code asid part.toNat (endRecord code cause sub asid part.toNat
            ((s.teams.filter (fun t => t.asid = asid && t.part = part)).foldl (fun s t => freeTeam t.core t.slot s)
              (dropContext asid part s))))) := rfl

theorem passesApart_endContext (code : Nat) (cause : BitVec 8) (sub asid : BitVec 16) (part : BitVec 3) :
    PassesApart (endContext code cause sub asid part) := by
  intro v s
  have hteams (ts : List Team) : PassesApart fun s => ts.foldl (fun s t => freeTeam t.core t.slot s) s :=
    .foldl (fun t => passesApart_freeTeam t.core t.slot) ts
  have hlaunches (ls : List Launch) : PassesApart fun s => ls.foldl (fun s l => finishLaunch l code s) s :=
    .foldl (fun l => passesApart_finishLaunch l code) ls
  have hqueues : PassesApart fun s => (List.range 32).foldl (fun s q => if (queueAt s q).asid = asid && (queueAt s q).part = part.toNat &&
      (queueAt s q).state != 0 then queueFault q 4 (queueAt s q).next s else s) s :=
    .foldl (fun q => .ite (fun _ _ => rfl) (fun _ _ => rfl) .id) _
  rw [endContext_eq, endContext_eq]
  exact (hqueues.comp ((hlaunches _).comp ((passesApart_endBinds code asid part.toNat).comp
    ((passesApart_endRecord code cause sub asid part.toNat).comp ((hteams _).comp (passesApart_dropContext asid part)))))) v s

/-! The slices' errors (R361, R362, R419). -/

theorem passesApart_endLost (part : Nat) (as : List Nat) : PassesApart (endLost part as) := by
  induction as with
  | nil => exact .id
  | cons a as ih => exact ih.comp (passesApart_endContext _ _ _ _ _)

theorem passesApart_leaveL2 (e : L2Line) : PassesApart (leaveL2 e) := fun _ _ => rfl

theorem passesApart_quarantineWay (line way : Nat) : PassesApart (quarantineWay line way) := by
  intro v s
  exact congrArg (fun s => { s with quarantine := (16 * (line / 2 ^ 24) + way) :: s.quarantine })
    (PassesApart.foldl (f := fun s e => leaveL2 e s) passesApart_leaveL2
      (s.l2.filter (fun e => e.line / 2 ^ 24 = line / 2 ^ 24 && e.way = way)) v s)

theorem passesApart_endLineError (pa line way time : Nat) (w0 : Word) (kv : Bool) (part : Nat) (asid : BitVec 16) :
    PassesApart (endLineError pa line way time w0 kv part asid) := by
  unfold endLineError
  exact PassesApart.comp (f := fun s => if (l2Ways s line).isEmpty then
      machineCheck (mcWord0 0 0 false false 0 s.ver 0 0 (line / 2 ^ 24 % 64) (line / 2 ^ 24 / 64) 7) (pa / 128 * 128) false (pagePart s pa) 0 s
    else s) (.ite (fun _ _ => rfl) (fun v s => passesApart_machineCheck _ _ _ _ _ v s) .id)
    ((passesApart_machineCheckAt _ _ _ _ _ _).comp (passesApart_quarantineWay line way))

/-- A sector is poisoned, its page retired, and its line's other sectors have been written to HBM (R361). -/
def poisonSector (x : FoundError) (s : State) : State :=
  { s with poison := x.sector :: s.poison, retired := (x.pa / 65536) :: s.retired,
           l2 := s.l2.map (fun e => if e.line = x.sector / 4 then { e with dirty := 0 } else e) }

theorem passesApart_loseSector (x : FoundError) : PassesApart (loseSector x) := by
  have hlost : PassesApart fun s => endLost (pagePart s x.pa) (lostContexts s x) (poisonSector x s) := fun v s =>
    passesApart_endLost (pagePart s x.pa) (lostContexts s x) v (poisonSector x s)
  exact .reading (r := fun s => ((s.l2.find? (fun e => e.line = x.sector / 4)).map L2Line.dirty).getD 0 &&&
    ~~~(BitVec.twoPow 4 (x.sector % 4))) (fun _ _ => rfl) fun dirty => hlost.comp (passesApart_readSectors (x.sector / 4) dirty)

theorem passesApart_fillPoison (x : FoundError) : PassesApart (fillPoison x) := by
  intro v s
  have htouch := passesApart_l2Touch (x.sector / 4) (BitVec.twoPow 4 (x.sector % 4)) none v { s with poison := x.sector :: s.poison }
  unfold fillPoison
  dsimp only
  exact (congrArg (fun s => machineCheck (lineWord0 s (x.sector / 4) 5 0 0 false false (BitVec.twoPow 4 (x.sector % 4))) (x.pa / 128 * 128) false
    (pagePart s x.pa) 0 s) htouch).trans (passesApart_machineCheck _ _ _ _ _ v _)

theorem passesApart_recoverSector (x : FoundError) : PassesApart (recoverSector x) := by
  intro v s
  unfold recoverSector
  dsimp only
  rw [show tickClock (withPasses v s) = withPasses v (tickClock s) from rfl]
  generalize tickClock s = t
  rw [show (withPasses v t).copies = t.copies from rfl, passesApart_recallAll _ v t]
  generalize recallAll _ t = u
  refine ite_eq_apply_ite _ (passesApart_endLineError _ _ _ _ _ _ _ _ v u) ?_
  exact ((passesApart_endLineError _ _ _ _ _ _ _ _).comp (passesApart_loseSector (afterRecall u x))) v u

theorem passesApart_recoverError (x : FoundError) : PassesApart (recoverError x) := fun v s =>
  ite_eq_apply_ite _ (passesApart_fillPoison x v s) (passesApart_recoverSector x v s)

theorem passesApart_settleSome (n : Nat) : PassesApart (settleSome n) := by
  induction n with
  | zero => exact .id
  | succ n ih =>
    intro v s
    rw [settleSome, settleSome, show (withPasses v s).found = s.found from rfl]
    cases s.found with
    | nil => rfl
    | cons x xs => exact (ih.comp (passesApart_recoverError x)) v { s with found := xs }

theorem passesApart_settleErrors : PassesApart settleErrors := fun v s => passesApart_settleSome _ v s

theorem passesApart_checkSectors (line : Nat) (sec : BitVec 4) : PassesApart (checkSectors line sec) := fun v s =>
  passesApart_settleErrors v (readSectors line sec s)

/-! One read-modify-write (R99, R106, R171). -/

theorem passesApart_loopStore (core line : Nat) (m : LineMask) (d : LineData) : PassesApart (loopStore core line m d) := by
  unfold loopStore
  exact (passesApart_storeSeen _ _).comp ((passesApart_setCopy _ _ _).comp (passesApart_homeStore _ _ _ _ _))

/-- What an access gives, with other passes left to the issuing group. -/
def gotWithPasses (v : Option Passes) (r : State × Got) : State × Got := (withPasses v r.1, r.2)

/-- An access whose result and effect are alike whatever passes the issuing group has left. -/
def GotApart (k : State → State × Got) : Prop := ∀ v s, k (withPasses v s) = gotWithPasses v (k s)

theorem gotApart_peerRmw (core cell n : Nat) (f : List Byte → List Byte) : GotApart (peerRmw core cell n f) := by
  intro v s
  unfold peerRmw
  dsimp only
  rw [passesApart_homePrepare]
  exact Prod.ext (passesApart_loopStore _ _ _ _ v _) rfl

theorem gotApart_peerServed (pa cell n : Nat) {k : State → State × Got} (hk : GotApart k) : GotApart fun s => peerServed pa cell n s k := by
  intro v s
  unfold peerServed
  dsimp only
  rw [passesApart_checkSectors]
  generalize checkSectors _ _ s = t
  exact ite_eq_apply_ite (gotWithPasses v) (Prod.ext (passesApart_portPoison _ _ v t) rfl) (hk v t)

theorem gotApart_rmwDev (w : Who) (tracked : Bool) (pa cell n : Nat) (f : List Byte → List Byte) : GotApart (rmwDev w tracked pa cell n f) := by
  intro v s
  unfold rmwDev
  dsimp only
  rw [passesApart_checkSectors]
  generalize checkSectors _ _ s = t
  refine ite_eq_apply_ite (gotWithPasses v) rfl (ite_eq_apply_ite (gotWithPasses v) rfl ?_)
  cases tracked with
  | false => exact Prod.ext (passesApart_untrackedStore _ _ _ _ _ v t) rfl
  | true =>
    simp only [if_true]
    rw [passesApart_homePrepare]
    exact Prod.ext (passesApart_homeStore _ _ _ _ _ v _) rfl

theorem gotApart_rmwLoc (w : Who) (l : Loc) (cell : Option Nat) (n : Nat) (f : List Byte → List Byte) : GotApart (rmwLoc w l cell n f) := by
  intro v s
  cases l with
  | dev pa tracked =>
    cases cell with
    | none => exact Prod.ext (passesApart_noRegionCheck pa w.part.toNat v s) rfl
    | some cell => exact gotApart_rmwDev w tracked pa cell n f v s
  | peer d pa =>
    refine ite_eq_apply_ite (gotWithPasses v) ?_ ?_
    · cases cell with
      | none => exact Prod.ext (passesApart_noRegionCheck pa w.part.toNat v s) rfl
      | some cell => exact gotApart_peerServed pa cell n (gotApart_peerRmw w.core cell n f) v s
    · rw [show peerGroup (withPasses v s) d pa = peerGroup s d pa from rfl]
      cases peerGroup s d pa with
      | some g => rfl
      | none => exact Prod.ext (passesApart_noPeerRoute d pa w.part.toNat v s) rfl
  | host pa => rfl
  | smem c o => rfl
  | fifo b => rfl
  | absent => rfl

end Sys2Proof.Proofs
end

section
/-! One read-modify-write at each kind of location (R99, R171). -/
namespace Sys2Proof.Proofs
open Sys2Proof Sys2Proof.Machine Sys2Proof.Claims
variable {s t : State}

/-- What the homes leave: the scratchpads, their tags, and the other memories. -/
theorem memories_of_besidesCaches (h : besidesCaches t = besidesCaches s) :
    t.smem = s.smem ∧ t.tags = s.tags ∧ t.hostMem = s.hostMem ∧ t.peerMem = s.peerMem :=
  ⟨(congrArg State.smem h :), (congrArg State.tags h :), (congrArg State.hostMem h :), (congrArg State.peerMem h :)⟩

/-- A group without an incomplete fence runs on through a step of the homes. -/
theorem HomeStep.arch (h : HomeStep s t) (hf : s.cur.fence = none) : t.cur.arch = s.cur.arch := by
  obtain ⟨f, hkept, hcur, -⟩ := h.groups
  rw [hcur, (hkept s.cur).still hf]

theorem homeStep_homePrepare (client line : Nat) (m : LineMask) (s : State) : HomeStep s (homePrepare client line m s) :=
  (homeStep_recallAll s _).trans (homeStep_dropWordsAll _ _ _)

theorem cleanLine_of_noCopies (line : Nat) (h : s.copies = []) : CleanLine line s := fun c hc => by
  rw [h] at hc
  cases hc

/-! A store through an untracked mapping of a line of which no copy is recorded (R109). -/

theorem untrackedStore_of_noCopies (client line : Nat) (m : LineMask) (d : LineData) (owner : BitVec 18) (h : s.copies = []) :
    untrackedStore client line m d owner s =
      storeSeen client line (l2Touch line (sectorsOf m) (some owner) (putLine m d line (writeSectors line m s))) := by
  have hrecorded : recorded line s = [] := by rw [recorded, h, List.filter_nil]
  rw [untrackedStore, hrecorded, List.foldl_nil]

theorem besidesCaches_untrackedStore (client line : Nat) (m : LineMask) (d : LineData) (owner : BitVec 18) (h : s.copies = []) :
    besidesCaches (untrackedStore client line m d owner s) = besidesCaches s := by
  rw [untrackedStore_of_noCopies client line m d owner h, besidesCaches_storeSeen, besidesCaches_l2Touch, besidesCaches_putLine,
    besidesCaches_writeSectors]

theorem homeStep_untrackedStore (client line : Nat) (m : LineMask) (d : LineData) (owner : BitVec 18) (h : s.copies = []) :
    HomeStep s (untrackedStore client line m d owner s) := by
  rw [untrackedStore_of_noCopies client line m d owner h]
  exact ((homeStep_writeSectors s _ _).trans (homeStep_putLine _ _ _ _)).trans ((homeStep_l2Touch _ _ _ _).trans (homeStep_storeSeen _ _ _))

theorem lineBytes_untrackedStore (client line : Nat) (m : LineMask) (d : LineData) (owner : BitVec 18) (h : s.copies = []) :
    LineBytes line (storedBytes m d line s) s (untrackedStore client line m d owner s) := by
  have hmem : (untrackedStore client line m d owner s).mem = (putLine m d line (writeSectors line m s)).mem := by
    rw [untrackedStore_of_noCopies client line m d owner h]
    exact mem_l2Touch _ _ _ _
  intro a
  rw [hmem, tget_putLine, ite_and]
  split
  · next ha =>
    rw [storedBytes, homeByte_of_line s ha]
    rfl
  · rfl

/-! The read-modify-write of a location. -/

theorem rmwLoc_smem (w : Who) (cell : Option Nat) (n : Nat) (f : List Byte → List Byte) (c o : Nat) (s : State) :
    let r := rmwLoc w (.smem c o) cell n f s
    let old := tbytes s.smem (c * 0x180000 + o) n
    r.2 = ⟨old, false⟩ ∧ BytesPut (c * 0x180000 + o) (f old) s.smem r.1.smem ∧ r.1.mem = s.mem ∧ r.1.hostMem = s.hostMem ∧
      r.1.peerMem = s.peerMem ∧ r.1.cur = s.cur :=
  ⟨rfl, tget_tsetList 0 _ s.smem _, rfl, rfl, rfl, rfl⟩

theorem rmwLoc_host (w : Who) (cell : Option Nat) (n : Nat) (f : List Byte → List Byte) (pa : Nat) (s : State) :
    let r := rmwLoc w (.host pa) cell n f s
    let old := tbytes s.hostMem pa n
    r.2 = ⟨old, false⟩ ∧ BytesPut pa (f old) s.hostMem r.1.hostMem ∧ r.1.mem = s.mem ∧ r.1.smem = s.smem ∧ r.1.tags = s.tags ∧
      r.1.peerMem = s.peerMem ∧ r.1.cur = s.cur :=
  ⟨rfl, bytesPut_putHost pa _ s, rfl, rfl, rfl, rfl, rfl⟩

/-- Without an error to be found, a retired page or poison, the home performs a read-modify-write of a clean line at once. -/
theorem rmwDev_clean (w : Who) (tracked : Bool) {pa cell n : Nat} (f : List Byte → List Byte) (herrors : NoErrors s)
    (hretired : s.retired.contains (pa / 65536) = false) (hpoison : cellPoisoned s cell n = false) (hclean : CleanLine (cell / 128) s) :
    rmwDev w tracked pa cell n f s = (if tracked then portBytes w.core (cell / 128) (cell % 128) n f (ctxTag w.asid) s
      else untrackedStore w.core (cell / 128) (maskRange (cell % 128) n) (lineOfBytes (cell % 128) (f (tbytes s.mem cell n))) (ctxTag w.asid) s,
      ⟨tbytes s.mem cell n, false⟩) := by
  have hgone : goneIn w s s = false := by simp [goneIn]
  have hmem := mem_homePrepare_clean w.core (bytesOf (wordsOf (maskRange (cell % 128) n))) hclean
  rw [rmwDev]
  dsimp only
  rw [checkSectors_clean _ _ herrors.1 herrors.2, hgone, hretired, hpoison, portBytes, Nat.div_add_mod cell 128]
  cases tracked with
  | false => rfl
  | true =>
    simp only [if_true]
    rw [hmem]
    rfl

theorem besidesCaches_portBytes (client line off n : Nat) (f : List Byte → List Byte) (owner : BitVec 18) (s : State) :
    besidesCaches (portBytes client line off n f owner s) = besidesCaches s :=
  (besidesCaches_homeStore _ _ _ _ _ _).trans (besidesCaches_homePrepare s _ _ _)

theorem homeStep_portBytes (client line off n : Nat) (f : List Byte → List Byte) (owner : BitVec 18) (s : State) :
    HomeStep s (portBytes client line off n f owner s) := (homeStep_homePrepare _ _ _ s).trans (homeStep_homeStore _ _ _ _ _ _)

theorem rmwDev_put (w : Who) (tracked : Bool) {pa cell n : Nat} {f : List Byte → List Byte} (hf : ∀ bs, (f bs).length = n)
    (hcell : cell % 128 + n ≤ 128) (herrors : NoErrors s) (hretired : s.retired.contains (pa / 65536) = false)
    (hpoison : cellPoisoned s cell n = false) (hcopies : s.copies = []) (hfence : s.cur.fence = none) :
    let r := rmwDev w tracked pa cell n f s
    let old := tbytes s.mem cell n
    r.2 = ⟨old, false⟩ ∧ BytesPut cell (f old) s.mem r.1.mem ∧ r.1.smem = s.smem ∧ r.1.tags = s.tags ∧ r.1.hostMem = s.hostMem ∧
      r.1.peerMem = s.peerMem ∧ r.1.cur.arch = s.cur.arch := by
  have hclean := cleanLine_of_noCopies (cell / 128) hcopies
  have hkeep {t : State} (hput : BytesPut cell (f (tbytes s.mem cell n)) s.mem t.mem) (hbesides : besidesCaches t = besidesCaches s)
      (hstep : HomeStep s t) : BytesPut cell (f (tbytes s.mem cell n)) s.mem t.mem ∧ t.smem = s.smem ∧ t.tags = s.tags ∧
      t.hostMem = s.hostMem ∧ t.peerMem = s.peerMem ∧ t.cur.arch = s.cur.arch := by
    obtain ⟨hsmem, htags, hhost, hpeer⟩ := memories_of_besidesCaches hbesides
    exact ⟨hput, hsmem, htags, hhost, hpeer, hstep.arch hfence⟩
  dsimp only
  rw [rmwDev_clean w tracked f herrors hretired hpoison hclean]
  cases tracked with
  | false =>
    have hput := bytesPut_of_lineBytes (bs := f (tbytes s.mem cell n)) ((hf _).symm ▸ hcell)
      (lineBytes_untrackedStore w.core (cell / 128) _ _ (ctxTag w.asid) hcopies)
    rw [hf, Nat.div_add_mod cell 128] at hput
    exact ⟨rfl, hkeep hput (besidesCaches_untrackedStore _ _ _ _ _ hcopies) (homeStep_untrackedStore _ _ _ _ _ hcopies)⟩
  | true =>
    have hput := bytesPut_portBytes (f := f) w.core (ctxTag w.asid) hclean hcell (hf _)
    rw [Nat.div_add_mod cell 128] at hput
    exact ⟨rfl, hkeep hput (besidesCaches_portBytes _ _ _ _ _ _ s) (homeStep_portBytes _ _ _ _ _ _ s)⟩

theorem readModifyWrite : ReadModifyWrite := by
  intro w n f s _ hf
  refine ⟨fun c o cell => rmwLoc_smem w cell n f c o s, fun pa cell => rmwLoc_host w cell n f pa s, ?_⟩
  intro pa tracked cell hcell herrors hretired hpoison hcopies hfence
  exact rmwDev_put w tracked hf hcell herrors hretired hpoison hcopies hfence

end Sys2Proof.Proofs
end

section
/-! The atomics of one active lane (R154, R168 to R172): the checks that it passes, its one pass, and what that writes. -/
namespace Sys2Proof.Proofs
open Sys2Proof Sys2Proof.Machine Sys2Proof.Claims
variable {s s1 : State}

/-- Where nothing delays an access, no location is busy (R80, R102, R113). -/
theorem locBusy_of_quiet (h : Quiet s) (l : Loc) : locBusy s l = false := by
  obtain ⟨-, -, hcommit, hacks, hleaving⟩ := h
  have hhost (line : Nat) : hostWaits s line = false := by rw [hostWaits, hacks, List.any_nil]
  have hway (line : Nat) : wayHeld line s = false := by
    rw [wayHeld, List.any_eq_false]
    exact fun c hc => by simp [hleaving c hc]
  simp [locBusy, locWaits, hcommit, hhost, hway]

theorem filter_isSome_eq_nil {α β : Type} {f : α → Option β} {xs : List α} (h : ∀ x ∈ xs, f x = none) :
    xs.filter (fun x => (f x).isSome) = [] :=
  List.filter_eq_nil_iff.2 fun x hx => by simp [h x hx]

/-- Lanes that translate, lead to memory that the instruction may use, inside the extents, and are aligned pass the stages of R154. -/
theorem checkLanes_go {k : AccKind} {n : Nat} {c4 : Cause} {aligned : List LaneAcc → LaneAcc → Bool}
    {space : List LaneAcc → State → LaneAcc → Option Cause} {addrs : List (Nat × VAddr)} {xs : List LaneAcc} {cont : List LaneAcc → State → State}
    (htranslate : translateLanes (whoOf s.cur) k n addrs s = (s1, xs))
    (hlanes : ∀ x ∈ xs, laneFault x = none ∧ x.x1 ≠ .wait ∧ (localBase ≤ x.addr.toNat → allocOk (whoOf s1.cur) x.addr n s1 = true))
    (hbank : NoFifo xs) (hspace : ∀ x ∈ xs, space xs s1 x = none) (haligned : ∀ x ∈ xs, aligned xs x = true) :
    checkLanes k n c4 aligned space addrs s cont = cont xs s1 := by
  have hwait : xs.any (fun x => x.x1 == .wait) = false := List.any_eq_false.2 fun x hx => by simpa using (hlanes x hx).2.1
  have hfault := filter_isSome_eq_nil fun x hx => (hlanes x hx).1
  have hswitching : anySwitching xs s1 = none := by
    have hbanks : banksOf xs = [] := List.filter_eq_nil_iff.2 fun b _ => by
      simpa using fun x hx => by simp [hbank x hx]
    rw [anySwitching, hbanks, List.find?_nil]
  have halloc : xs.filter (fun x => localBase ≤ x.addr.toNat && !(allocOk (whoOf s1.cur) x.addr n s1)) = [] :=
    List.filter_eq_nil_iff.2 fun x hx => by simpa using (hlanes x hx).2.2
  have hodd : xs.filter (fun x => !(aligned xs x)) = [] := List.filter_eq_nil_iff.2 fun x hx => by simp [haligned x hx]
  simp [checkLanes, htranslate, stage1, hwait, hfault, stage2, hswitching, filter_isSome_eq_nil hspace, stage3, halloc, stage4, hodd]

/-- The read-modify-write that one lane of an atomic makes (R169). -/
def laneRmw (op : AtomOp) (ty : Ty) (x : AtomLane) (s : State) : State × Got :=
  rmwLoc (whoOf s.cur) x.loc (locCell s x.loc) (tyBits ty / 8) (fun old => leBytes (tyBits ty / 8) (atomVal op ty (leVal old) x.v.toNat x.e.toNat)) s

theorem atomLane_eq (op : AtomOp) (ty : Ty) (d : VReg) (x : AtomLane) (v : Option Passes) (h : (laneRmw op ty x s).2.poison = false) :
    atomLane op ty d x (withPasses v s) = setDests (BitVec.twoPow 32 x.lane) (regsOf ty d)
      (fun i _ => wordOf (leVal (laneRmw op ty x s).2.bytes) i) (withPasses v (laneRmw op ty x s).1) := by
  have hrmw : laneRmw op ty x (withPasses v s) = gotWithPasses v (laneRmw op ty x s) := gotApart_rmwLoc _ _ _ _ _ v s
  have hpoison : (laneRmw op ty x (withPasses v s)).2.poison = false := by rw [hrmw]; exact h
  have hlane : atomLane op ty d x (withPasses v s) = setDests (BitVec.twoPow 32 x.lane) (regsOf ty d)
      (fun i _ => wordOf (leVal (laneRmw op ty x (withPasses v s)).2.bytes) i) (laneRmw op ty x (withPasses v s)).1 :=
    if_neg (by rw [show (rmwLoc _ _ _ _ _ _).2.poison = false from hpoison]; exact Bool.false_ne_true)
  rw [hlane, hrmw]
  rfl

/-- The one pass of an atomic of one lane (R170). -/
theorem passOf_lane (op : AtomOp) (ty : Ty) (d : VReg) (x : AtomLane) (hbusy : locBusy s x.loc = false)
    (h : (laneRmw op ty x s).2.poison = false) :
    passOf ⟨op, ty, d, [x], false⟩ s = setDests (BitVec.twoPow 32 x.lane) (regsOf ty d)
      (fun i _ => wordOf (leVal (laneRmw op ty x s).2.bytes) i) (withPasses none (laneRmw op ty x s).1) := by
  have hlane := atomLane_eq op ty d x (some ⟨op, ty, d, [x], false⟩) h
  have hpass : passOf ⟨op, ty, d, [x], false⟩ s =
      updCur (fun g => { g with passes := none }) (atomLane op ty d x (withPasses (some ⟨op, ty, d, [x], false⟩) s)) := by
    simp only [passOf, List.any_cons, List.any_nil, hbusy, Bool.or_false, Bool.false_eq_true, if_false]
    rfl
  rw [hpass, hlane]
  rfl

/-- An atomic of one lane that passes its checks performs it and moves on. -/
theorem atomOp_lane {op : AtomOp} {ty : Ty} {d : VReg} {b : MBase} {off : BitVec 32} {named : List Nat} {v e : Nat → Nat} {x : LaneAcc}
    (hready : VectorReady (regsOf ty d ++ named ++ baseRegs b) s) (haccess : Access .atomic (tyBits ty / 8) b off s s1 [x])
    (hbank : NoFifo [x]) (haligned : x.addr.toNat % (tyBits ty / 8) = 0) :
    atomOp op ty d b off named v e s = advance 16 (passOf ⟨op, ty, d,
      [⟨x.lane, laneLoc x, x.addr, BitVec.ofNat 64 (v x.lane), BitVec.ofNat 64 (e x.lane)⟩], false⟩ s1) := by
  obtain ⟨hcrew, hregs, hactive⟩ := hready
  obtain ⟨htranslate, hquiet, hquiet1, hlanes⟩ := haccess
  have hspace : ∀ y ∈ [x], noFifo [x] s1 y = none := fun y hy => by simp [noFifo, fifoSpace, hbank y hy]
  rw [atomOp, notCrew_go (by simp [inCrew, hcrew]), regCheck_go _ s _ hregs, onceForGroup_go 16 hactive, afterFence_go hquiet.1,
    checkLanes_go htranslate hlanes hbank hspace (fun y hy => by simpa [alignedTo, List.mem_singleton.1 hy] using haligned),
    afterReads, afterNeeded_go _ _ hquiet1.2.1 fun l _ => locBusy_of_quiet hquiet1 l.1]
  rfl

theorem regsOf_nodup (ty : Ty) (d : VReg) : (regsOf ty d).Nodup := by
  unfold regsOf
  split <;> simp

/-- What an instruction that is an atomic does with one active lane. -/
theorem atomicRuns_of_exec {i : Instr} {op : AtomOp} {ty : Ty} {d : VReg} {b : MBase} {off : BitVec 32} {named : List Nat}
    {v e : State → Nat → Nat} (hexec : ∀ s, exec i s = .next (atomOp op ty d b off named (v s) (e s) s)) :
    AtomicRuns i op ty d b off named v e := by
  intro s s1 x hready haccess hbank haligned hlane hv he n r hpoison
  have hquiet1 : Quiet s1 := haccess.2.2.1
  have hrmw : laneRmw op ty ⟨x.lane, laneLoc x, x.addr, BitVec.ofNat 64 (v s x.lane), BitVec.ofNat 64 (e s x.lane)⟩ s1 = r := by
    simp only [laneRmw, BitVec.toNat_ofNat, Nat.mod_eq_of_lt hv, Nat.mod_eq_of_lt he]
    rfl
  have hexec := hexec s
  rw [atomOp_lane hready haccess hbank haligned, passOf_lane op ty d _ (locBusy_of_quiet hquiet1 _) (hrmw ▸ hpoison), hrmw] at hexec
  refine ⟨_, hexec, ?_, ?_, rfl⟩
  · intro k hk
    rw [List.getD_eq_getElem _ _ hk]
    exact (tget_writeDests_same _ _ 0 _ _ k x.lane hlane hk (regsOf_nodup ty d) (by simp [hlane])).trans (by rw [Nat.zero_add])
  · intro q l hl hother
    refine tget_writeDests_other _ _ 0 _ _ q l hl (hother.imp_right fun hne => ?_)
    rw [BitVec.getLsbD_twoPow]
    simp [Ne.symm hne]

theorem atomics : Atomics := by
  refine ⟨fun p hp sc ty d b off c _ => ?_, fun sc ty d b off c e _ => atomicRuns_of_exec fun _ => rfl,
    fun sc ty d b off _ => atomicRuns_of_exec fun _ => rfl⟩
  fin_cases hp <;> exact atomicRuns_of_exec fun _ => rfl

/-- Settles O23: an atomic of one lane passes its checks and makes one pass, whose read-modify-write is that of the location; that one
is performed at once in a scratchpad or in host memory, and at a home prepared for a store of a line without copies. -/
theorem atomicInstructions : Obligations.AtomicInstructions := ⟨atomics, readModifyWrite⟩

end Sys2Proof.Proofs
end
